-- ==== Sys2Proof/Word.lean ====
section
/-!
DEFINITION. Word types of the EV4 (R5, R18, R19) and their plainest arithmetic.
-/

namespace Sys2Proof

/-- A byte of memory. -/
abbrev Byte := BitVec 8

/-- u32: flag values, tags, ring counts, the words of the counter generator. -/
abbrev U32 := BitVec 32

/-- u64: scalar registers, addresses, system registers (R18). -/
abbrev U64 := BitVec 64

/-- A 64-byte line: a vector register, a tower line, an express message (R8, R19). -/
abbrev Line := BitVec 512

/-- The number of a register in a file of 32. -/
abbrev Reg := BitVec 5

end Sys2Proof
end

