-- ==== Sys2Proof/Syntax.lean ====
section
/-!
DEFINITION. The syntax: one constructor per row of spec/opcode_table.json.

The first 223 constructors are the forms of R135 with the fields of their encodings (R129 to R133); a field of
the encoding that the form does not use has no place here, since a nonzero one is no instruction (R137). The
other 78 are the steps of the package that no program encodes (spec/95_what_each_step_holds.md): they carry the
panel, queue, slot or access they are about.
-/

namespace Sys2Proof

/-- The header of a two-word command: E (R128), and start, p, psense and c of word1 (R131, R132). -/
structure Ex where
  e : Bool
  start : BitVec 16
  p : Reg
  ps : Bool
  c : BitVec 5
  deriving DecidableEq, Repr

/-- The header of VPLOG, whose p and psense are reserved (R187). -/
structure Ex0 where
  e : Bool
  start : BitVec 16
  c : BitVec 5
  deriving DecidableEq, Repr

/-- The header of a motif call, whose c field is an operand (R32, R260). -/
structure ExM where
  e : Bool
  start : BitVec 16
  p : Reg
  ps : Bool
  deriving DecidableEq, Repr

/-- The operations and events of the EV4, one constructor per row of the opcode table. -/
inductive Instr where
  /-- ADD (R147). Writes sd := a + b mod 2^64 with latency 1. -/
  | add (e : Bool) (d a b : BitVec 5)
  /-- SUB (R147). Writes sd := a - b mod 2^64. -/
  | sub (e : Bool) (d a b : BitVec 5)
  /-- AND (R147). Writes sd := a & b. -/
  | and (e : Bool) (d a b : BitVec 5)
  /-- OR (R147). Writes sd := a | b. -/
  | or (e : Bool) (d a b : BitVec 5)
  /-- XOR (R147). Writes sd := a ^ b. -/
  | xor (e : Bool) (d a b : BitVec 5)
  /-- ANDN (R147). Writes sd := a & ~b. -/
  | andn (e : Bool) (d a b : BitVec 5)
  /-- SLL (R147). Shifts a left by b[5:0]. -/
  | sll (e : Bool) (d a b : BitVec 5)
  /-- SRL (R147). Shifts a right by b[5:0], filling with zeros. -/
  | srl (e : Bool) (d a b : BitVec 5)
  /-- SRA (R147). Shifts a right arithmetically by b[5:0]. -/
  | sra (e : Bool) (d a b : BitVec 5)
  /-- ROR (R147). Rotates a right by b[5:0]. -/
  | ror (e : Bool) (d a b : BitVec 5)
  /-- SLT (R147). Writes 1 when a < b as signed, else 0. -/
  | slt (e : Bool) (d a b : BitVec 5)
  /-- SLTU (R147). Writes 1 when a < b as unsigned, else 0. -/
  | sltu (e : Bool) (d a b : BitVec 5)
  /-- MIN (R147). Writes the signed lesser of a and b. -/
  | min (e : Bool) (d a b : BitVec 5)
  /-- MAX (R147). Writes the signed greater of a and b. -/
  | max (e : Bool) (d a b : BitVec 5)
  /-- MINU (R147). Writes the unsigned lesser of a and b. -/
  | minu (e : Bool) (d a b : BitVec 5)
  /-- MAXU (R147). Writes the unsigned greater of a and b. -/
  | maxu (e : Bool) (d a b : BitVec 5)
  /-- ADDW (R147). Adds the low 32 bits and sign-extends. -/
  | addw (e : Bool) (d a b : BitVec 5)
  /-- SUBW (R147). Subtracts the low 32 bits and sign-extends. -/
  | subw (e : Bool) (d a b : BitVec 5)
  /-- SLLW (R147). 32-bit left shift, sign-extended. -/
  | sllw (e : Bool) (d a b : BitVec 5)
  /-- SRLW (R147). 32-bit logical right shift, sign-extended. -/
  | srlw (e : Bool) (d a b : BitVec 5)
  /-- SRAW (R147). 32-bit arithmetic right shift, sign-extended. -/
  | sraw (e : Bool) (d a b : BitVec 5)
  /-- CLZ (R147). Counts leading zero bits of a. -/
  | clz (e : Bool) (d a : BitVec 5)
  /-- CTZ (R147). Counts trailing zero bits of a. -/
  | ctz (e : Bool) (d a : BitVec 5)
  /-- POPC (R147). Counts 1 bits of a. -/
  | popc (e : Bool) (d a : BitVec 5)
  /-- SEXTB (R147). Sign-extends a[7:0]. -/
  | sextb (e : Bool) (d a : BitVec 5)
  /-- SEXTH (R147). Sign-extends a[15:0]. -/
  | sexth (e : Bool) (d a : BitVec 5)
  /-- SEXTW (R147). Sign-extends a[31:0]. -/
  | sextw (e : Bool) (d a : BitVec 5)
  /-- ZEXTW (R147). Zero-extends a[31:0]. -/
  | zextw (e : Bool) (d a : BitVec 5)
  /-- ADDI (R148). Writes sd := a + sign-extended imm12. -/
  | addi (e : Bool) (d a : BitVec 5) (i : BitVec 12)
  /-- ANDI (R148). Writes sd := a & imm. -/
  | andi (e : Bool) (d a : BitVec 5) (i : BitVec 12)
  /-- ORI (R148). Writes sd := a | imm. -/
  | ori (e : Bool) (d a : BitVec 5) (i : BitVec 12)
  /-- XORI (R148). Writes sd := a ^ imm. -/
  | xori (e : Bool) (d a : BitVec 5) (i : BitVec 12)
  /-- SLLI (R148). Shifts a left by imm12[5:0]. -/
  | slli (e : Bool) (d a : BitVec 5) (i : BitVec 6)
  /-- SRLI (R148). Shifts a right logically by imm12[5:0]. -/
  | srli (e : Bool) (d a : BitVec 5) (i : BitVec 6)
  /-- SRAI (R148). Shifts a right arithmetically by imm12[5:0]. -/
  | srai (e : Bool) (d a : BitVec 5) (i : BitVec 6)
  /-- SLTI (R148). Writes 1 when a < imm as signed. -/
  | slti (e : Bool) (d a : BitVec 5) (i : BitVec 12)
  /-- LIH (R149). Writes sd := sext64(imm20 << 12). -/
  | lih (e : Bool) (d : BitVec 5) (i : BitVec 20)
  /-- LIPC (R149). Writes sd := PC + sext64(imm20 << 12). -/
  | lipc (e : Bool) (d : BitVec 5) (i : BitVec 20)
  /-- LDB (R153). Loads a sign-extended byte. -/
  | ldb (e : Bool) (d a : BitVec 5) (i : BitVec 12)
  /-- LDH (R153). Loads a sign-extended halfword. -/
  | ldh (e : Bool) (d a : BitVec 5) (i : BitVec 12)
  /-- LDW (R153). Loads a sign-extended word. -/
  | ldw (e : Bool) (d a : BitVec 5) (i : BitVec 12)
  /-- LDD (R153). Loads a doubleword. -/
  | ldd (e : Bool) (d a : BitVec 5) (i : BitVec 12)
  /-- LDBU (R153). Loads a zero-extended byte. -/
  | ldbu (e : Bool) (d a : BitVec 5) (i : BitVec 12)
  /-- LDHU (R153). Loads a zero-extended halfword. -/
  | ldhu (e : Bool) (d a : BitVec 5) (i : BitVec 12)
  /-- LDWU (R153). Loads a zero-extended word. -/
  | ldwu (e : Bool) (d a : BitVec 5) (i : BitVec 12)
  /-- LDACQ (R153). Loads a doubleword as an acquire at the named scope. -/
  | ldacq (e : Bool) (d a : BitVec 5) (sc : BitVec 3) (o : BitVec 9)
  /-- STB (R154). Stores the low byte of sb. -/
  | stb (e : Bool) (b a : BitVec 5) (i : BitVec 12)
  /-- STH (R154). Stores the low halfword of sb. -/
  | sth (e : Bool) (b a : BitVec 5) (i : BitVec 12)
  /-- STW (R154). Stores the low word of sb. -/
  | stw (e : Bool) (b a : BitVec 5) (i : BitVec 12)
  /-- STD (R154). Stores the doubleword sb. -/
  | std (e : Bool) (b a : BitVec 5) (i : BitVec 12)
  /-- STREL (R154). Stores 8 bytes as a release at the named scope. -/
  | strel (e : Bool) (b a : BitVec 5) (sc : BitVec 3) (o : BitVec 9)
  /-- AADD (R155). Atomic add; sd receives the old value. -/
  | aadd (e : Bool) (d a b : BitVec 5) (sc : BitVec 3) (o : BitVec 2) (w : Bool)
  /-- AAND (R155). Atomic AND; sd receives the old value. -/
  | aand (e : Bool) (d a b : BitVec 5) (sc : BitVec 3) (o : BitVec 2) (w : Bool)
  /-- AOR (R155). Atomic OR; sd receives the old value. -/
  | aor (e : Bool) (d a b : BitVec 5) (sc : BitVec 3) (o : BitVec 2) (w : Bool)
  /-- AXOR (R155). Atomic XOR; sd receives the old value. -/
  | axor (e : Bool) (d a b : BitVec 5) (sc : BitVec 3) (o : BitVec 2) (w : Bool)
  /-- AMIN (R155). Atomic signed minimum. -/
  | amin (e : Bool) (d a b : BitVec 5) (sc : BitVec 3) (o : BitVec 2) (w : Bool)
  /-- AMAX (R155). Atomic signed maximum. -/
  | amax (e : Bool) (d a b : BitVec 5) (sc : BitVec 3) (o : BitVec 2) (w : Bool)
  /-- AMINU (R155). Atomic unsigned minimum. -/
  | aminu (e : Bool) (d a b : BitVec 5) (sc : BitVec 3) (o : BitVec 2) (w : Bool)
  /-- AMAXU (R155). Atomic unsigned maximum. -/
  | amaxu (e : Bool) (d a b : BitVec 5) (sc : BitVec 3) (o : BitVec 2) (w : Bool)
  /-- ASWAP (R155). Atomic swap. -/
  | aswap (e : Bool) (d a b : BitVec 5) (sc : BitVec 3) (o : BitVec 2) (w : Bool)
  /-- ACAS (R155). Atomic compare-and-swap against the old sd value. -/
  | acas (e : Bool) (d a b : BitVec 5) (sc : BitVec 3) (o : BitVec 2) (w : Bool)
  /-- PTGT (R156). Writes a PC-relative branch target into bn. -/
  | ptgt (e : Bool) (n : BitVec 2) (o : BitVec 21)
  /-- PTGTR (R156). Writes a register value into branch target bn. -/
  | ptgtr (e : Bool) (n : BitVec 2) (a : BitVec 5)
  /-- BR (R28). Transfers control to bn after two delay slots when the condition equals the sense. -/
  | br (e : Bool) (n : BitVec 2) (c : BitVec 3) (sn : Bool)
  /-- BRL (R28). Branches like BR and writes s31 := PC + 12 when it transfers. -/
  | brl (e : Bool) (n : BitVec 2) (c : BitVec 3) (sn : Bool)
  /-- CMPEQ (R158). cd := (a = b). -/
  | cmpeq (e : Bool) (d a b : BitVec 5)
  /-- CMPNE (R158). cd := (a ≠ b). -/
  | cmpne (e : Bool) (d a b : BitVec 5)
  /-- CMPLT (R158). cd := a < b signed. -/
  | cmplt (e : Bool) (d a b : BitVec 5)
  /-- CMPGE (R158). cd := a >= b signed. -/
  | cmpge (e : Bool) (d a b : BitVec 5)
  /-- CMPLTU (R158). cd := a < b unsigned. -/
  | cmpltu (e : Bool) (d a b : BitVec 5)
  /-- CMPGEU (R158). cd := a >= b unsigned. -/
  | cmpgeu (e : Bool) (d a b : BitVec 5)
  /-- CAND (R158). cd := ca & cb. -/
  | cand (e : Bool) (d a b : BitVec 5)
  /-- COR (R158). cd := ca | cb. -/
  | cor (e : Bool) (d a b : BitVec 5)
  /-- CXOR (R158). cd := ca ^ cb. -/
  | cxor (e : Bool) (d a b : BitVec 5)
  /-- CNOT (R158). cd := not ca. -/
  | cnot (e : Bool) (d a : BitVec 5)
  /-- SEL (R158). sd := a when old sd is nonzero, else b. -/
  | sel (e : Bool) (d a b : BitVec 5)
  /-- CTOS (R158). sd := zext64 of condition ca. -/
  | ctos (e : Bool) (d a : BitVec 5)
  /-- LOOP (R44). Starts a hardware loop of N iterations over a body with S stages. -/
  | loop (e : Bool) (a : BitVec 5) (st : BitVec 3) (l : BitVec 6)
  /-- LBREAK (R47). Fixes the last iteration of a hardware loop and cancels later queued commands. -/
  | lbreak (e : Bool) (c : BitVec 5) (k : BitVec 3)
  /-- TSTART (R34). Sets the anchor to the panel time of its packet. -/
  | tstart (e : Bool)
  /-- TWAIT (R161). Stops issue until TCYC reaches a + imm. -/
  | twait (e : Bool) (a : BitVec 5) (i : BitVec 12)
  /-- TREAD (R161). Reads TCYC, GCYC, panel time or HOLDCNT into sd. -/
  | tread (e : Bool) (d : BitVec 5) (sl : BitVec 2)
  /-- SRD (R162). Reads a system register into sd with latency 2. -/
  | srd (e : Bool) (d : BitVec 5) (r : BitVec 12)
  /-- SWR (R162). Writes a system register at issue, with the register's rights and reserved-value checks. -/
  | swr (e : Bool) (a : BitVec 5) (r : BitVec 12)
  /-- FENCE (R85). Orders memory accesses of the named kinds at a scope; SL and ENG stall issue. -/
  | fence (e : Bool) (sc : BitVec 3) (k : BitVec 5)
  /-- TRAP (R164). Raises TRAPINSN with TVAL = imm12. -/
  | trap (e : Bool) (i : BitVec 12)
  /-- RFT (R279). Returns from trap context, taking a deferred fault or a pre-emption stop first where pending. -/
  | rft (e : Bool)
  /-- EXIT (R51). Ends issue for the context, which finishes once its queues drain. -/
  | exit (e : Bool)
  /-- YIELD (R165). Stop point for a pending graceful pre-emption request; otherwise no effect. -/
  | yield (e : Bool)
  /-- WAITEV (R166). Waits until a selected event latch is set, then clears the latches. -/
  | waitev (e : Bool) (v : BitVec 4)
  /-- QFLUSH (R167). Discards every unstarted entry of the named queues. -/
  | qflush (e : Bool) (m : BitVec 4)
  /-- QSYNC (R168). Stalls issue until every entry of the named queues has finished and its results are written. -/
  | qsync (e : Bool) (m : BitVec 4)
  /-- QMARK (R169). Reads the next sequence number of queue q. -/
  | qmark (e : Bool) (d : BitVec 5) (q : BitVec 2)
  /-- QDEPTH (R169). Reads the number of unstarted entries of queue q. -/
  | qdepth (e : Bool) (d : BitVec 5) (q : BitVec 2)
  /-- RCFG (R241). Loads a ring descriptor word and configures ring m at its due cycle. -/
  | rcfg (e : Bool) (d a : BitVec 5) (i : BitVec 12)
  /-- WAITF (R242). Waits until the filled count of ring m is at least n in every cell. -/
  | waitf (e : Bool) (d : BitVec 5) (n : BitVec 9)
  /-- WAITE (R242). Waits until the free count of ring m is at least n in every cell. -/
  | waite (e : Bool) (d : BitVec 5) (n : BitVec 9)
  /-- RCLAIM (R243). Reserves n slots of ring m. -/
  | rclaim (e : Bool) (d : BitVec 5) (n : BitVec 9)
  /-- RPUB (R243). Publishes n complete fills of an EXPLICIT ring. -/
  | rpub (e : Bool) (d : BitVec 5) (n : BitVec 9)
  /-- RPOP (R243). Pops n published positions of ring m. -/
  | rpop (e : Bool) (d : BitVec 5) (n : BitVec 9)
  /-- RSTAT (R244). Reads a ring descriptor field of one cell or a minimum over cells. -/
  | rstat (e : Bool) (d : BitVec 5) (m : BitVec 3) (sl cl : BitVec 4)
  /-- FINC (R267). Adds to a flag as a release, locally or to a remote granted partition. -/
  | finc (e : Bool) (d a : BitVec 5) (sc : BitVec 3) (f : BitVec 8)
  /-- FWAIT (R267). Waits until the flag reaches the target; an acquire when it completes. -/
  | fwait (e : Bool) (a : BitVec 5) (sc : BitVec 3) (f : BitVec 8)
  /-- FSET (R267). Writes a flag as a release. -/
  | fset (e : Bool) (a : BitVec 5) (sc : BitVec 3) (f : BitVec 8)
  /-- FREAD (R267). Reads a flag's value as an acquire with latency 12. -/
  | fread (e : Bool) (d : BitVec 5) (sc : BitVec 3) (f : BitVec 8)
  /-- BAR (R267). Increments a flag by 1 and waits for the target on it. -/
  | bar (e : Bool) (a : BitVec 5) (sc : BitVec 3) (f : BitVec 8)
  /-- ADMODE (R247). Sets the adjoint mode after ordering earlier work and checking the regions. -/
  | admode (e : Bool) (m : BitVec 2)
  /-- TAPEMK (R253). Writes the tape mark TAPESPILL:TAPEPTR into sd. -/
  | tapemk (e : Bool) (d : BitVec 5)
  /-- TAPECUT (R254). Cuts the tape back to a mark, or raises TAPE_REFILL. -/
  | tapecut (e : Bool) (a : BitVec 5)
  /-- LAUNCH (R269). Enqueues a launch packet onto a device-fed queue and returns a status. -/
  | launch (e : Bool) (d a : BitVec 5) (q : BitVec 6)
  /-- NCOMMIT (R270). Commits the task's outputs once its jobs have retired and writes are applied. -/
  | ncommit (e : Bool)
  /-- MUL (R150). Low 64 bits of a × b. -/
  | mul (e : Bool) (d a b : BitVec 5)
  /-- MULH (R150). High 64 bits of the signed product. -/
  | mulh (e : Bool) (d a b : BitVec 5)
  /-- MULHU (R150). High 64 bits of the unsigned product. -/
  | mulhu (e : Bool) (d a b : BitVec 5)
  /-- DIV (R150). Signed quotient with latency 24. -/
  | div (e : Bool) (d a b : BitVec 5)
  /-- DIVU (R150). Unsigned quotient. -/
  | divu (e : Bool) (d a b : BitVec 5)
  /-- REM (R150). Signed remainder. -/
  | rem (e : Bool) (d a b : BitVec 5)
  /-- REMU (R150). Unsigned remainder. -/
  | remu (e : Bool) (d a b : BitVec 5)
  /-- MULW (R150). 32-bit product, sign-extended. -/
  | mulw (e : Bool) (d a b : BitVec 5)
  /-- DIVW (R150). 32-bit signed quotient, sign-extended. -/
  | divw (e : Bool) (d a b : BitVec 5)
  /-- FMT (R206). Pushes a format word onto the format queue. -/
  | fmt (e : Bool) (a : BitVec 5)
  /-- FMTCLR (R206). Empties the format queue. -/
  | fmtclr (e : Bool)
  /-- MLD (R258). Starts loading a motif image into a slot of every cell. -/
  | mld (e : Bool) (a : BitVec 5) (sl : BitVec 3)
  /-- MBIND (R259). Binds a motif code to a LOADED slot. -/
  | mbind (e : Bool) (sl : BitVec 3) (cd : BitVec 6)
  /-- MUNBIND (R259). Unbinds a motif code. -/
  | munbind (e : Bool) (cd : BitVec 6)
  /-- MSTAT (R259). Reads a motif slot's status word. -/
  | mstat (e : Bool) (d : BitVec 5) (sl : BitVec 3)
  /-- SPMARK (R263). Starts a speculation on the marked rings. -/
  | spmark (e : Bool) (m : BitVec 8)
  /-- SPACCEPT (R265). Keeps n tentative fills, rolls back the rest and sets RNGCTR. -/
  | spaccept (e : Bool) (a : BitVec 5)
  /-- SPDROP (R265). Discards every tentative fill, as SPACCEPT with n = 0. -/
  | spdrop (e : Bool)
  /-- VADD (R174). Element-wise wrapping integer add. -/
  | vadd (h : Ex) (d a b : BitVec 5) (ty : BitVec 4)
  /-- VSUB (R174). Element-wise wrapping integer subtract. -/
  | vsub (h : Ex) (d a b : BitVec 5) (ty : BitVec 4)
  /-- VMUL (R174). Low bits of element products. -/
  | vmul (h : Ex) (d a b : BitVec 5) (ty : BitVec 4)
  /-- VMULH (R174). High bits of element products. -/
  | vmulh (h : Ex) (d a b : BitVec 5) (ty : BitVec 4)
  /-- VMIN (R174). Element-wise integer minimum. -/
  | vmin (h : Ex) (d a b : BitVec 5) (ty : BitVec 4)
  /-- VMAX (R174). Element-wise integer maximum. -/
  | vmax (h : Ex) (d a b : BitVec 5) (ty : BitVec 4)
  /-- VABS (R174). Element-wise wrapping absolute value. -/
  | vabs (h : Ex) (d a : BitVec 5) (ty : BitVec 4)
  /-- VNEG (R174). Element-wise wrapping negation. -/
  | vneg (h : Ex) (d a : BitVec 5) (ty : BitVec 4)
  /-- VADDS (R174). Element-wise saturating add. -/
  | vadds (h : Ex) (d a b : BitVec 5) (ty : BitVec 4)
  /-- VSUBS (R174). Element-wise saturating subtract. -/
  | vsubs (h : Ex) (d a b : BitVec 5) (ty : BitVec 4)
  /-- VAVG (R174). Element-wise rounded average. -/
  | vavg (h : Ex) (d a b : BitVec 5) (ty : BitVec 4)
  /-- VMAD (R174). Element-wise multiply-add onto the old destination. -/
  | vmad (h : Ex) (d a b : BitVec 5) (ty : BitVec 4)
  /-- VDOT4 (R175). Accumulates 4-byte dot products into 32-bit lanes. -/
  | vdot4 (h : Ex) (d a b : BitVec 5) (ty : BitVec 4)
  /-- VFADD (R176). Floating-point add, rounded once. -/
  | vfadd (h : Ex) (d a b : BitVec 5) (ty : BitVec 4) (rm : BitVec 3)
  /-- VFSUB (R176). Floating-point subtract. -/
  | vfsub (h : Ex) (d a b : BitVec 5) (ty : BitVec 4) (rm : BitVec 3)
  /-- VFMUL (R176). Floating-point multiply. -/
  | vfmul (h : Ex) (d a b : BitVec 5) (ty : BitVec 4) (rm : BitVec 3)
  /-- VFMA (R176). Fused multiply-add onto the old destination. -/
  | vfma (h : Ex) (d a b : BitVec 5) (ty : BitVec 4) (rm : BitVec 3)
  /-- VFMIN (R176). Floating-point minimum. -/
  | vfmin (h : Ex) (d a b : BitVec 5) (ty : BitVec 4)
  /-- VFMAX (R176). Floating-point maximum. -/
  | vfmax (h : Ex) (d a b : BitVec 5) (ty : BitVec 4)
  /-- VFABS (R176). Clears the sign bit. -/
  | vfabs (h : Ex) (d a : BitVec 5) (ty : BitVec 4)
  /-- VFNEG (R176). Inverts the sign bit. -/
  | vfneg (h : Ex) (d a : BitVec 5) (ty : BitVec 4)
  /-- VFSCL (R176). Scales by a power of two. -/
  | vfscl (h : Ex) (d a b : BitVec 5) (ty : BitVec 4) (rm : BitVec 3)
  /-- VFCLASS (R176). Writes a one-hot class mask of each element. -/
  | vfclass (h : Ex) (d a : BitVec 5) (ty : BitVec 4)
  /-- VCVT (R177). Converts between element formats by part. -/
  | vcvt (h : Ex) (d a : BitVec 5) (ts ty : BitVec 4) (hp : BitVec 2) (rm : BitVec 3)
  /-- VPACK (R178). Narrows integers with saturation. -/
  | vpack (h : Ex) (d a b : BitVec 5) (ty : BitVec 4)
  /-- VUNPK (R178). Widens integers. -/
  | vunpk (h : Ex) (d a : BitVec 5) (ty : BitVec 4) (hp : Bool)
  /-- VQNT (R179). Quantizes F32 into a group part. -/
  | vqnt (h : Ex) (d a b : BitVec 5) (ty : BitVec 4) (rm : BitVec 3)
  /-- VDQNT (R179). Dequantizes a group part into F32. -/
  | vdqnt (h : Ex) (d a b : BitVec 5) (ty : BitVec 4)
  /-- VAND (R180). Bitwise AND. -/
  | vand (h : Ex) (d a b : BitVec 5) (ty : BitVec 4)
  /-- VOR (R180). Bitwise OR. -/
  | vor (h : Ex) (d a b : BitVec 5) (ty : BitVec 4)
  /-- VXOR (R180). Bitwise XOR. -/
  | vxor (h : Ex) (d a b : BitVec 5) (ty : BitVec 4)
  /-- VLOP3 (R181). Three-input bitwise function by truth table. -/
  | vlop3 (h : Ex) (d a b : BitVec 5) (th tl : BitVec 4)
  /-- VSHL (R182). Element left shift. -/
  | vshl (h : Ex) (d a b : BitVec 5) (ty : BitVec 4)
  /-- VSHR (R182). Element logical right shift. -/
  | vshr (h : Ex) (d a b : BitVec 5) (ty : BitVec 4)
  /-- VSRA (R182). Element arithmetic right shift. -/
  | vsra (h : Ex) (d a b : BitVec 5) (ty : BitVec 4)
  /-- VROT (R182). Element left rotate. -/
  | vrot (h : Ex) (d a b : BitVec 5) (ty : BitVec 4)
  /-- VFUNL (R183). Left funnel shift. -/
  | vfunl (h : Ex) (d a b : BitVec 5) (ty : BitVec 4) (n : BitVec 5)
  /-- VFUNR (R183). Right funnel shift. -/
  | vfunr (h : Ex) (d a b : BitVec 5) (ty : BitVec 4) (n : BitVec 5)
  /-- VPOPC (R184). Element population count. -/
  | vpopc (h : Ex) (d a : BitVec 5) (ty : BitVec 4)
  /-- VCLZ (R184). Element leading-zero count. -/
  | vclz (h : Ex) (d a : BitVec 5) (ty : BitVec 4)
  /-- VCMP (R185). Integer compare into a predicate. -/
  | vcmp (h : Ex) (d a b : BitVec 5) (ty : BitVec 4) (op : BitVec 3)
  /-- VFCMP (R185). Floating-point compare into a predicate. -/
  | vfcmp (h : Ex) (d a b : BitVec 5) (ty : BitVec 4) (op : BitVec 3)
  /-- VSEL (R186). Selects a or b per element by the predicate. -/
  | vsel (h : Ex) (d a b : BitVec 5) (ty : BitVec 4)
  /-- VPLOG (R187). Bitwise function of two predicates. -/
  | vplog (h : Ex0) (d a b : BitVec 5) (op : BitVec 3)
  /-- VVOTE (R188). Writes a condition register from an ANY or ALL vote over the panel. -/
  | vvote (h : Ex) (d a : BitVec 5) (ty : BitVec 4) (al : Bool)
  /-- VPCNT (R189). Counts true active elements of a predicate. -/
  | vpcnt (h : Ex) (d a : BitVec 5) (ty : BitVec 4)
  /-- VPERM (R190). Permutes elements by index. -/
  | vperm (h : Ex) (d a b : BitVec 5) (ty : BitVec 4)
  /-- VBCAST (R190). Broadcasts a scalar into elements. -/
  | vbcast (h : Ex) (d a : BitVec 5) (ty : BitVec 4)
  /-- VLANE (R190). Broadcasts one element. -/
  | vlane (h : Ex) (d a b : BitVec 5) (ty : BitVec 4)
  /-- VSHUF (R191). Slides, zips or reverses elements. -/
  | vshuf (h : Ex) (d a b : BitVec 5) (ty : BitVec 4) (op : BitVec 3)
  /-- VRED (R192). Reduces active elements in ascending order. -/
  | vred (h : Ex) (d a : BitVec 5) (ty : BitVec 4) (op : BitVec 3)
  /-- VSCAN (R192). Prefix reduction over active elements. -/
  | vscan (h : Ex) (d a : BitVec 5) (ty : BitVec 4) (op : BitVec 3)
  /-- VIDX (R190). Writes sa + i into each element. -/
  | vidx (h : Ex) (d a : BitVec 5) (ty : BitVec 4)
  /-- VCELL (R193). Writes the cell's coordinates or global cell number. -/
  | vcell (h : Ex) (d : BitVec 5) (ty : BitVec 4) (sl : BitVec 2)
  /-- VLD (R195). Loads a tower line; in REV mode accumulates adjoints into shadows. -/
  | vld (h : Ex) (d a : BitVec 5) (i : BitVec 12)
  /-- VST (R195). Stores a tower line; pushes or pops tape records in FWD or REV mode. -/
  | vst (h : Ex) (d a : BitVec 5) (i : BitVec 12)
  /-- VLDS (R196). Strided load of one word per lane across banks. -/
  | vlds (h : Ex) (d a : BitVec 5) (i : BitVec 12) (k : BitVec 5)
  /-- VSTS (R196). Strided store of one word per lane across banks. -/
  | vsts (h : Ex) (d a : BitVec 5) (i : BitVec 12) (k : BitVec 5)
  /-- VLDX (R197). Gathers one word per lane. -/
  | vldx (h : Ex) (d a : BitVec 5) (i : BitVec 12) (k : BitVec 5)
  /-- VSTX (R197). Scatters one word per lane. -/
  | vstx (h : Ex) (d a : BitVec 5) (i : BitVec 12) (k : BitVec 5)
  /-- VLDR (R198). Reads a line of a ring position with the tag check. -/
  | vldr (h : Ex) (d : BitVec 5) (m : BitVec 3) (ll : BitVec 4) (i : BitVec 8) (lh : BitVec 4)
  /-- VSTR (R199). Writes one line of a ring fill from the cell's lanes. -/
  | vstr (h : Ex) (d : BitVec 5) (m : BitVec 3) (ll lh : BitVec 4)
  /-- VAADD (R203). Tower atomic integer add per lane. -/
  | vaadd (h : Ex) (d a b : BitVec 5) (ty : BitVec 4)
  /-- VAFADD (R203). Tower atomic F32 add per lane. -/
  | vafadd (h : Ex) (d a b : BitVec 5) (ty : BitVec 4)
  /-- VAMIN (R203). Tower atomic minimum per lane. -/
  | vamin (h : Ex) (d a b : BitVec 5) (ty : BitVec 4)
  /-- VAMAX (R203). Tower atomic maximum per lane. -/
  | vamax (h : Ex) (d a b : BitVec 5) (ty : BitVec 4)
  /-- VASWAP (R203). Tower atomic swap per lane. -/
  | vaswap (h : Ex) (d a b : BitVec 5) (ty : BitVec 4)
  /-- VEXP2 (R204). 2^a rounded once. -/
  | vexp2 (h : Ex) (d a : BitVec 5) (ty : BitVec 4)
  /-- VLOG2 (R204). log2 a rounded once. -/
  | vlog2 (h : Ex) (d a : BitVec 5) (ty : BitVec 4)
  /-- VRCP (R204). 1/a rounded once. -/
  | vrcp (h : Ex) (d a : BitVec 5) (ty : BitVec 4)
  /-- VRSQ (R204). 1/sqrt(a) rounded once. -/
  | vrsq (h : Ex) (d a : BitVec 5) (ty : BitVec 4)
  /-- VTANH (R204). tanh a rounded once. -/
  | vtanh (h : Ex) (d a : BitVec 5) (ty : BitVec 4)
  /-- VDIV (R204). a/b rounded once in the resolved mode. -/
  | vdiv (h : Ex) (d a b : BitVec 5) (ty : BitVec 4) (rm : BitVec 3)
  /-- VRND (R204). Returns a chosen word of the counter generator draw. -/
  | vrnd (h : Ex) (d a b : BitVec 5) (ty : BitVec 4) (w : BitVec 2)
  /-- VGUMB (R204). Returns the Gumbel value of a draw. -/
  | vgumb (h : Ex) (d a b : BitVec 5) (ty : BitVec 4)
  /-- VSAMP (R205). Folds logits with Gumbel noise into a running best per cell. -/
  | vsamp (h : Ex) (d a b : BitVec 5) (ty : BitVec 4)
  /-- MOT.k (R260). Calls the motif bound to code k, or raises MOTIF_MISS. -/
  | mot (h : ExM) (cd : BitVec 6) (d a b : BitVec 5) (ep : Bool) (x y : BitVec 5)
  /-- VSHIFT (R222). Moves a register to the adjacent cell, with edge handling. -/
  | vshift (h : Ex) (dr : BitVec 2) (d a : BitVec 5) (eg : BitVec 2) (tg : BitVec 5)
  /-- VXSEND (R226). Places an express message per active cell into its send buffer. -/
  | vxsend (h : Ex) (d a tg : BitVec 5)
  /-- VXRECV (R227). Receives a port message with a tag check. -/
  | vxrecv (h : Ex) (dr : BitVec 2) (d tg : BitVec 5)
  /-- VBORD (R224). Reads a border buffer entry with a tag check. -/
  | vbord (h : Ex) (dr : BitVec 2) (d tg : BitVec 5)
  /-- VJOIN (R228). Reduces a value from every active cell into a scalar. -/
  | vjoin (h : Ex) (dr : BitVec 2) (d a : BitVec 5)
  /-- MMA (R217). Matrix multiply-accumulate from rings into accumulator tiles. -/
  | mma (h : Ex) (t : BitVec 6) (ra rb : BitVec 3) (n : BitVec 6) (m : BitVec 2) (tr z pa pb : Bool)
  /-- MMAQ (R217). Matrix multiply with group-quantized B. -/
  | mmaq (h : Ex) (t : BitVec 6) (ra rb : BitVec 3) (n : BitVec 6) (m : BitVec 2) (tr z pa pb pz : Bool)
  /-- MMAB (R217). Matrix multiply with block-32 E8M0 scales. -/
  | mmab (h : Ex) (t : BitVec 6) (ra rb : BitVec 3) (n : BitVec 6) (m : BitVec 2) (tr z pa pb pz : Bool)
  /-- MZERO (R218). Zeroes accumulator tiles. -/
  | mzero (h : Ex) (t n : BitVec 6)
  /-- MTOV (R219). Converts accumulator slots into a vector register. -/
  | mtov (h : Ex) (t : BitVec 6) (d : BitVec 5) (l : BitVec 6) (ty : BitVec 4)
  /-- MTOT (R220). Converts an accumulator block into one ring fill. -/
  | mtot (h : Ex) (t : BitVec 6) (ra : BitVec 3) (n : BitVec 6) (m : BitVec 2) (tr z : Bool)
  /-- CFILL (R234). Hands a fill job from global memory into towers to the column engine. -/
  | cfill (h : Ex) (a : BitVec 5) (qc : BitVec 3) (ax : BitVec 5)
  /-- CDRAIN (R234). Hands a drain job, optionally with an optimizer update, to the column engine. -/
  | cdrain (h : Ex) (a : BitVec 5) (qc : BitVec 3) (ax : BitVec 5)
  /-- CPAIR (R234). Hands a job that writes two layouts of tower data. -/
  | cpair (h : Ex) (a : BitVec 5) (qc : BitVec 3) (ax : BitVec 5)
  /-- CGATH (R234). Hands an indexed gather job. -/
  | cgath (h : Ex) (a : BitVec 5) (qc : BitVec 3) (ax : BitVec 5)
  /-- CCOPY (R234). Hands a global-to-global or remote copy job. -/
  | ccopy (h : Ex) (a : BitVec 5) (qc : BitVec 3) (ax : BitVec 5)
  /-- CRED (R235). Hands a reduction job into global memory. -/
  | cred (h : Ex) (a : BitVec 5) (qc : BitVec 3) (ax : BitVec 5)
  /-- QUEUE_ENTRY_START (R35). A queued engine command is presented and starts at its due cycle or when ready. -/
  | queueEntryStart (p q : Nat)
  /-- RESULT_WRITEBACK (R26). A result is written at the end of its latency's last unheld cycle. -/
  | resultWriteback (p : Nat)
  /-- HOLD_TIMEOUT (R43). Counted hold cycles reach HOLDMAX + 1 and SCHEDULE is raised. -/
  | holdTimeout (p : Nat)
  /-- SCALAR_DATA_RETURN (R153). Data of a global load, atomic or FREAD returns and ends its hold. -/
  | scalarDataReturn (p k : Nat)
  /-- LOOP_PASS (R44). A hardware-loop pass begins with a fresh anchor and stage conditions. -/
  | loopPass (p : Nat)
  /-- WAIT_COMPLETE (R54). A wait instruction completes 12 cycles after its condition becomes true. -/
  | waitComplete (p : Nat)
  /-- RING_FILL (R67). One fill of a ring waits for room, writes its slot, tag and counts. -/
  | ringFill (p cell ring : Nat)
  /-- EXPRESS_ARRIVAL (R226). An express message lands in a port or ring, or waits when refused. -/
  | expressArrival (p cell : Nat)
  /-- BORDER_LANDING (R223). A border-buffer entry is overwritten with data and tag. -/
  | borderLanding (p : Nat)
  /-- COLUMN_JOB_START (R239). A handed-over job starts once earlier conflicting jobs of the sheet have retired. -/
  | columnJobStart (p k : Nat)
  /-- COLUMN_CHUNK (R233). A job moves one chunk between global memory and towers or rings. -/
  | columnChunk (p k : Nat)
  /-- COLUMN_JOB_RETIRE (R237). A job retires, performs its completion FINC and sets the JOB latch. -/
  | columnJobRetire (p k : Nat)
  /-- COLUMN_JOB_FAULT (R238). A job faults and the issuing context takes an engine fault. -/
  | columnJobFault (p k : Nat)
  /-- REFRESH_SWEEP (R76). The sweep refreshes the oldest line of a bank in an idle cycle. -/
  | refreshSweep (p : Nat)
  /-- FORCED_REFRESH (R77). A line reaches its force age and a 32-cycle refresh hold begins. -/
  | forcedRefresh (p : Nat)
  /-- FORCED_REFRESH_END (R77). The 32-cycle forced refresh hold ends. -/
  | forcedRefreshEnd (p : Nat)
  /-- HANDLER_FIRST_PACKET (R277). The handler's first packet issues 16 wall cycles after the stop cycle. -/
  | handlerFirstPacket (p : Nat)
  /-- GRACE_WINDOW_EXPIRY (R287). The grace window ends and the context is stopped by force. -/
  | graceWindowExpiry (p : Nat)
  /-- DRAIN_COMPLETE (R287). A draining or forced context's queues and jobs finish and saving begins. -/
  | drainComplete (p : Nat)
  /-- GANG_SAVE (R288). The gang's flags, messages and contexts are saved to the save area. -/
  | gangSave (slot : Nat)
  /-- CONTEXT_FINISH (R51). A context after EXIT finishes once queues, results and jobs are done. -/
  | contextFinish (p : Nat)
  /-- MOTIF_LOAD_END (R258). A motif load ends 2,048 cycles after MLD and the slot becomes LOADED or FAILED. -/
  | motifLoadEnd (p : Nat)
  /-- HOST_REGISTER_WRITE (R356). A host write to a BAR0 register that has no row of its own. -/
  | hostRegisterWrite (off size : Nat) (v : BitVec 64)
  /-- KICK (R359). A write to KICK publishes a new queue tail and wakes the reader. -/
  | kick (q : Nat) (v : BitVec 32)
  /-- DEVICE_ENABLE (R363). Setting DEVCTL.EN applies features and starts the queue readers, or is refused. -/
  | deviceEnable
  /-- DEVICE_DISABLE (R363). Clearing DEVCTL.EN stops the readers after the packet in hand. -/
  | deviceDisable
  /-- PACKAGE_RESET (R363). DEVCTL.RESET stops every task and resets the package to boot. -/
  | packageReset
  /-- QUEUE_ENABLE (R356). Setting QCTL.EN checks the queue setup and zeroes QHEAD and QTAIL. -/
  | queueEnable (q : Nat) (v : BitVec 64)
  /-- QUEUE_DISABLE (R356). Clearing QCTL.EN stops the queue's reader after its current packet. -/
  | queueDisable (q : Nat) (v : BitVec 64)
  /-- QSTAT_CLEAR (R356). A write-one-to-clear of QSTAT status bits. -/
  | qstatClear (q : Nat) (v : BitVec 64)
  /-- SPANCFG_APPLY (R372). A write of SPANCFG.APPLY requests the span table. -/
  | spancfgApply (v : BitVec 64)
  /-- SPAN_TABLE_APPLIED (R372). The span table is checked and applied once no remote traffic is in flight. -/
  | spanTableApplied
  /-- QUEUE_HEADER_READ (R360). The reader reads a packet header, retrying every 125 ns and recording STALE after 8 µs. -/
  | queueHeaderRead (q : Nat)
  /-- LAUNCH_PACKET (R366). A LAUNCH packet enters the footprint matcher. -/
  | launchPacket (q k : Nat)
  /-- LOAD_PACKET (R368). A LOAD loads and relocates an object or adds a reference. -/
  | loadPacket (q k : Nat)
  /-- UNLOAD_PACKET (R368). An UNLOAD drops a reference to a loaded object. -/
  | unloadPacket (q k : Nat)
  /-- BARRIER_PACKET (R368). A BARRIER waits for earlier packets of the named queues. -/
  | barrierPacket (q k : Nat)
  /-- COPY_PACKET (R368). A COPY runs one column-job copy. -/
  | copyPacket (q k : Nat)
  /-- SIGNAL_PACKET (R368). A SIGNAL stores or adds a value as a system-scope release. -/
  | signalPacket (q k : Nat)
  /-- WAITVAL_PACKET (R368). A WAITVAL starts polling a word for a condition. -/
  | waitvalPacket (q k : Nat)
  /-- WAITVAL_POLL (R368). Each 1 µs the WAITVAL word is read and the condition tested. -/
  | waitvalPoll (q k : Nat)
  /-- WAITVAL_TIMEOUT (R368). LIMIT passes and WAITVAL completes with TIMEOUT. -/
  | waitvalTimeout (q k : Nat)
  /-- BAR2_READ (R357). A host read through BAR2 is translated and served or refused. -/
  | bar2Read (off n : Nat)
  /-- BAR2_WRITE (R357). A host write through BAR2 is translated and applied or dropped. -/
  | bar2Write (off : Nat) (data : List (BitVec 8))
  /-- BAR2_ATOMIC (R357). A host PCIe AtomicOp through BAR2 executes or completes as Unsupported Request. -/
  | bar2Atomic (off width op : Nat) (x y : BitVec 64)
  /-- SPAN_FLIT_RECEIVE (R371). A span flit arrives, is CRC-checked and acknowledged or resent. -/
  | spanFlitReceive (link : Nat) (crcOk : Bool)
  /-- REMOTE_FINC_ARRIVAL (R375). A remote flag increment arrives and is applied or dropped. -/
  | remoteFincArrival (grant f : Nat) (inc : BitVec 32)
  /-- SPAN_WRITE_ARRIVAL (R374). A remote copy write arrives and is translated by the span page table. -/
  | spanWriteArrival (addr : BitVec 64) (data : List (BitVec 8))
  /-- SPAN_LINK_DOWN (R374). A route stays down for 100 ms and its jobs fault. -/
  | spanLinkDown (link : Nat)
  /-- MATCHER_ELIGIBLE (R377). A packet becomes eligible once conflicting earlier entries retire, and a notice is posted. -/
  | matcherEligible (k : Nat)
  /-- DISPATCH_START (R379). A doorbell with OP START binds a task's panels. -/
  | dispatchStart (slot : Nat)
  /-- DISPATCH_RESTORE (R379). A doorbell with OP RESTORE checks the save area and restores a gang. -/
  | dispatchRestore (slot : Nat)
  /-- DISPATCH_PREEMPT (R380). A doorbell with OP PREEMPT sends a graceful request or abandons a load. -/
  | dispatchPreempt (slot : Nat)
  /-- DISPATCH_FORCE (R380). A doorbell with OP FORCE stops the contexts at once. -/
  | dispatchForce (slot : Nat)
  /-- DISPATCH_ABORT (R380). A doorbell with OP ABORT stops the task without saving. -/
  | dispatchAbort (slot : Nat)
  /-- BIND_COMPLETE (R379). Loading ends and every context of the task starts at one GCYC. -/
  | bindComplete (slot : Nat)
  /-- POWER_CHECK (R384). The power manager measures power over 1 µs and cuts islands. -/
  | powerCheck
  /-- SUPPLY_CUT_END (R384). A 1,024-cycle supply cut slice ends. -/
  | supplyCutEnd (island : Nat)
  /-- PAGE_WALK (R387). A translation walk reads the page table to a leaf or a missing entry. -/
  | pageWalk (p k : Nat)
  /-- NOTICE_REPLY (R396). The driver's REPLY makes the steward walk again or refuse. -/
  | noticeReply (k : Nat)
  /-- FAULTLIM_EXPIRY (R396). No reply comes within FAULTLIM and TRANSLATION is raised. -/
  | faultlimExpiry (k : Nat)
  /-- TLB_INVALIDATION (R395). The steward acts on a new REQSEQ and writes DONESEQ. -/
  | tlbInvalidation
  /-- THERMAL_SAMPLE (R416). Every 10 µs island temperatures set bands, REFSTAT fields and cuts. -/
  | thermalSample
  /-- OPERATOR_REQUEST (R415). A new operator request SEQ is acted on when the panel is next unbound. -/
  | operatorRequest
  /-- PANEL_SCREEN (R414). A screen tests an unbound suspect panel and updates the sparing tables. -/
  | panelScreen (p : Nat)
  /-- CAPTURE_CONTROL_POLL (R417). Every 2 µs the steward reads capture control and starts or refuses capture. -/
  | captureControlPoll
  /-- ATTEST (R421). Mailbox op 1 returns signed evidence for a nonce. -/
  | attest
  /-- STAGE (R421). Mailbox op 2 writes a signed image to the inactive slot. -/
  | stage
  /-- IDENTITY (R421). Mailbox op 3 returns the identity key and certificate. -/
  | identity
  /-- CLEARALT (R421). Mailbox op 4 returns a boot step to its preferred path. -/
  | clearalt
  /-- BOOT (R423). At power-up or reset the boot steps run in order with journal entries. -/
  | boot
  /-- BOOT_WATCHDOG (R422). A boot step runs for 10 s and the watchdog restarts the package. -/
  | bootWatchdog
  /-- UNASSIGNED_ENCODING (R135). An instruction whose major is reserved, or whose function code, op or reserved field is unassigned or nonzero, raises ILLEGAL precise at the instruction. -/
  | unassignedEncoding (sub : BitVec 8) (w0 w1 : BitVec 32)
  /-- WRITE_APPLIED_TO_VIEW (R86). A global write already performed is applied to another die's view, or to the host's view, after a finite time and in causal order. -/
  | writeAppliedToView (w view : Nat)
  /-- SPAN_LINK_TRAINED (R363). A span link finishes training, or comes back up after a loss, and begins carrying flits. -/
  | spanLinkTrained (link : Nat)
  /-- SPAN_LINK_LOST (R374). A span link goes down, which starts the 100 ms count after which its traffic faults. -/
  | spanLinkLost (link : Nat)
  /-- MAILBOX_BADOP (R421). A mailbox request whose OP is none of 1 to 4 completes with STATUS BADOP and DONESEQ := SEQ. -/
  | mailboxBadop
  /-- DOORBELL_INVALID_OP (R378). A DOORBELL whose slot record holds OP 0, 6 or 7 is refused and dispatch writes REASON 5. -/
  | doorbellInvalidOp (slot : Nat)
  deriving DecidableEq, Repr

end Sys2Proof
end

