-- ==== Sys2Proof/Decode.lean ====
section
/-!
DEFINITION. Decoding and encoding of instructions (R128 to R138).

A word is a natural number below 2^32. The decoder pulls out the major, the function code and the fields, and it
refuses by name what is no instruction: a reserved major (subcode 0x01), an unassigned function code (0x02) and a
reserved field that is not zero (0x03), tested in the order of R139. Type codes, operand limits and start values are
tested when the instruction issues (Sys2Proof/Machine/Checks.lean). The encoder stands after the decoder and is
written from the same tables.
-/

namespace Sys2Proof

/-- Why a word is no instruction (R138, R139). -/
inductive DecodeError where
  /-- fewer bytes than the instruction has; never raised by a fetch, which always has whole words -/
  | truncated
  /-- a reserved major, subcode 0x01 -/
  | reservedMajor
  /-- an unassigned function code or op, subcode 0x02 -/
  | unassignedFunction
  /-- a reserved field that is not zero, subcode 0x03 -/
  | reservedField
  deriving DecidableEq, Repr

/-- The subcode of ILLEGAL that R138 gives a decoding error. -/
def DecodeError.subcode : DecodeError -> BitVec 8
  | .truncated => 0x01#8
  | .reservedMajor => 0x01#8
  | .unassignedFunction => 0x02#8
  | .reservedField => 0x03#8

/-- The field of n bits of word w whose lowest bit is bit lo (R4). -/
def field (w lo n : Nat) : BitVec n := BitVec.ofNat n (w / 2 ^ lo)

/-- The single bit lo of word w. -/
def fieldB (w lo : Nat) : Bool := w / 2 ^ lo % 2 == 1

/-- The major opcode, bits [31:26] (R128). -/
def majorOf (w : Nat) : Nat := w / 2 ^ 26 % 64

/-- The length of an instruction in words: majors 0x00 to 0x1F one, 0x20 to 0x3F two, reserved majors included
(R128). -/
def lengthOf (w0 : Nat) : Nat := if majorOf w0 < 32 then 1 else 2

/-- Answer i when the reserved bits are zero (R137). -/
def guardReserved (ok : Bool) (i : Instr) : Except DecodeError Instr :=
  if ok then .ok i else .error .reservedField

/-- The full header of a two-word command (R131). -/
def exOf (w0 w1 : Nat) : Ex :=
  ⟨fieldB w0 25, field w1 16 16, field w1 11 5, fieldB w1 10, field w1 5 5⟩

/-- The header of VPLOG. -/
def ex0Of (w0 w1 : Nat) : Ex0 := ⟨fieldB w0 25, field w1 16 16, field w1 5 5⟩

/-- The header of a motif call. -/
def exMOf (w0 w1 : Nat) : ExM := ⟨fieldB w0 25, field w1 16 16, field w1 11 5, fieldB w1 10⟩

/-- Major 0x00: the forms R135 lists. -/
def decode00 (w0 : Nat) : Except DecodeError Instr :=
  match w0 / 2 ^ 0 % 2 ^ 10 with
  | 0 => .ok (.add (fieldB w0 25) (field w0 20 5) (field w0 15 5) (field w0 10 5))
  | 1 => .ok (.sub (fieldB w0 25) (field w0 20 5) (field w0 15 5) (field w0 10 5))
  | 2 => .ok (.and (fieldB w0 25) (field w0 20 5) (field w0 15 5) (field w0 10 5))
  | 3 => .ok (.or (fieldB w0 25) (field w0 20 5) (field w0 15 5) (field w0 10 5))
  | 4 => .ok (.xor (fieldB w0 25) (field w0 20 5) (field w0 15 5) (field w0 10 5))
  | 5 => .ok (.andn (fieldB w0 25) (field w0 20 5) (field w0 15 5) (field w0 10 5))
  | 6 => .ok (.sll (fieldB w0 25) (field w0 20 5) (field w0 15 5) (field w0 10 5))
  | 7 => .ok (.srl (fieldB w0 25) (field w0 20 5) (field w0 15 5) (field w0 10 5))
  | 8 => .ok (.sra (fieldB w0 25) (field w0 20 5) (field w0 15 5) (field w0 10 5))
  | 9 => .ok (.ror (fieldB w0 25) (field w0 20 5) (field w0 15 5) (field w0 10 5))
  | 10 => .ok (.slt (fieldB w0 25) (field w0 20 5) (field w0 15 5) (field w0 10 5))
  | 11 => .ok (.sltu (fieldB w0 25) (field w0 20 5) (field w0 15 5) (field w0 10 5))
  | 12 => .ok (.min (fieldB w0 25) (field w0 20 5) (field w0 15 5) (field w0 10 5))
  | 13 => .ok (.max (fieldB w0 25) (field w0 20 5) (field w0 15 5) (field w0 10 5))
  | 14 => .ok (.minu (fieldB w0 25) (field w0 20 5) (field w0 15 5) (field w0 10 5))
  | 15 => .ok (.maxu (fieldB w0 25) (field w0 20 5) (field w0 15 5) (field w0 10 5))
  | 16 => .ok (.addw (fieldB w0 25) (field w0 20 5) (field w0 15 5) (field w0 10 5))
  | 17 => .ok (.subw (fieldB w0 25) (field w0 20 5) (field w0 15 5) (field w0 10 5))
  | 18 => .ok (.sllw (fieldB w0 25) (field w0 20 5) (field w0 15 5) (field w0 10 5))
  | 19 => .ok (.srlw (fieldB w0 25) (field w0 20 5) (field w0 15 5) (field w0 10 5))
  | 20 => .ok (.sraw (fieldB w0 25) (field w0 20 5) (field w0 15 5) (field w0 10 5))
  | 21 => guardReserved (w0 / 2 ^ 10 % 2 ^ 5 == 0) (.clz (fieldB w0 25) (field w0 20 5) (field w0 15 5))
  | 22 => guardReserved (w0 / 2 ^ 10 % 2 ^ 5 == 0) (.ctz (fieldB w0 25) (field w0 20 5) (field w0 15 5))
  | 23 => guardReserved (w0 / 2 ^ 10 % 2 ^ 5 == 0) (.popc (fieldB w0 25) (field w0 20 5) (field w0 15 5))
  | 24 => guardReserved (w0 / 2 ^ 10 % 2 ^ 5 == 0) (.sextb (fieldB w0 25) (field w0 20 5) (field w0 15 5))
  | 25 => guardReserved (w0 / 2 ^ 10 % 2 ^ 5 == 0) (.sexth (fieldB w0 25) (field w0 20 5) (field w0 15 5))
  | 26 => guardReserved (w0 / 2 ^ 10 % 2 ^ 5 == 0) (.sextw (fieldB w0 25) (field w0 20 5) (field w0 15 5))
  | 27 => guardReserved (w0 / 2 ^ 10 % 2 ^ 5 == 0) (.zextw (fieldB w0 25) (field w0 20 5) (field w0 15 5))
  | _ => .error .unassignedFunction

/-- Major 0x01: the forms R135 lists. -/
def decode01 (w0 : Nat) : Except DecodeError Instr :=
  match w0 / 2 ^ 0 % 2 ^ 3 with
  | 0 => .ok (.addi (fieldB w0 25) (field w0 20 5) (field w0 15 5) (field w0 3 12))
  | 1 => .ok (.andi (fieldB w0 25) (field w0 20 5) (field w0 15 5) (field w0 3 12))
  | 2 => .ok (.ori (fieldB w0 25) (field w0 20 5) (field w0 15 5) (field w0 3 12))
  | 3 => .ok (.xori (fieldB w0 25) (field w0 20 5) (field w0 15 5) (field w0 3 12))
  | 4 => guardReserved (w0 / 2 ^ 9 % 2 ^ 6 == 0) (.slli (fieldB w0 25) (field w0 20 5) (field w0 15 5) (field w0 3 6))
  | 5 => guardReserved (w0 / 2 ^ 9 % 2 ^ 6 == 0) (.srli (fieldB w0 25) (field w0 20 5) (field w0 15 5) (field w0 3 6))
  | 6 => guardReserved (w0 / 2 ^ 9 % 2 ^ 6 == 0) (.srai (fieldB w0 25) (field w0 20 5) (field w0 15 5) (field w0 3 6))
  | 7 => .ok (.slti (fieldB w0 25) (field w0 20 5) (field w0 15 5) (field w0 3 12))
  | _ => .error .unassignedFunction

/-- Major 0x02: the forms R135 lists. -/
def decode02 (w0 : Nat) : Except DecodeError Instr :=
  .ok (.lih (fieldB w0 25) (field w0 20 5) (field w0 0 20))

/-- Major 0x03: the forms R135 lists. -/
def decode03 (w0 : Nat) : Except DecodeError Instr :=
  .ok (.lipc (fieldB w0 25) (field w0 20 5) (field w0 0 20))

/-- Major 0x04: the forms R135 lists. -/
def decode04 (w0 : Nat) : Except DecodeError Instr :=
  match w0 / 2 ^ 0 % 2 ^ 3 with
  | 0 => .ok (.ldb (fieldB w0 25) (field w0 20 5) (field w0 15 5) (field w0 3 12))
  | 1 => .ok (.ldh (fieldB w0 25) (field w0 20 5) (field w0 15 5) (field w0 3 12))
  | 2 => .ok (.ldw (fieldB w0 25) (field w0 20 5) (field w0 15 5) (field w0 3 12))
  | 3 => .ok (.ldd (fieldB w0 25) (field w0 20 5) (field w0 15 5) (field w0 3 12))
  | 4 => .ok (.ldbu (fieldB w0 25) (field w0 20 5) (field w0 15 5) (field w0 3 12))
  | 5 => .ok (.ldhu (fieldB w0 25) (field w0 20 5) (field w0 15 5) (field w0 3 12))
  | 6 => .ok (.ldwu (fieldB w0 25) (field w0 20 5) (field w0 15 5) (field w0 3 12))
  | 7 => .ok (.ldacq (fieldB w0 25) (field w0 20 5) (field w0 15 5) (field w0 12 3) (field w0 3 9))
  | _ => .error .unassignedFunction

/-- Major 0x05: the forms R135 lists. -/
def decode05 (w0 : Nat) : Except DecodeError Instr :=
  match w0 / 2 ^ 0 % 2 ^ 3 with
  | 0 => .ok (.stb (fieldB w0 25) (field w0 20 5) (field w0 15 5) (field w0 3 12))
  | 1 => .ok (.sth (fieldB w0 25) (field w0 20 5) (field w0 15 5) (field w0 3 12))
  | 2 => .ok (.stw (fieldB w0 25) (field w0 20 5) (field w0 15 5) (field w0 3 12))
  | 3 => .ok (.std (fieldB w0 25) (field w0 20 5) (field w0 15 5) (field w0 3 12))
  | 4 => .ok (.strel (fieldB w0 25) (field w0 20 5) (field w0 15 5) (field w0 12 3) (field w0 3 9))
  | _ => .error .unassignedFunction

/-- Major 0x06: the forms R135 lists. -/
def decode06 (w0 : Nat) : Except DecodeError Instr :=
  match w0 / 2 ^ 6 % 2 ^ 4 with
  | 0 => .ok (.aadd (fieldB w0 25) (field w0 20 5) (field w0 15 5) (field w0 10 5) (field w0 3 3) (field w0 1 2) (fieldB w0 0))
  | 1 => .ok (.aand (fieldB w0 25) (field w0 20 5) (field w0 15 5) (field w0 10 5) (field w0 3 3) (field w0 1 2) (fieldB w0 0))
  | 2 => .ok (.aor (fieldB w0 25) (field w0 20 5) (field w0 15 5) (field w0 10 5) (field w0 3 3) (field w0 1 2) (fieldB w0 0))
  | 3 => .ok (.axor (fieldB w0 25) (field w0 20 5) (field w0 15 5) (field w0 10 5) (field w0 3 3) (field w0 1 2) (fieldB w0 0))
  | 4 => .ok (.amin (fieldB w0 25) (field w0 20 5) (field w0 15 5) (field w0 10 5) (field w0 3 3) (field w0 1 2) (fieldB w0 0))
  | 5 => .ok (.amax (fieldB w0 25) (field w0 20 5) (field w0 15 5) (field w0 10 5) (field w0 3 3) (field w0 1 2) (fieldB w0 0))
  | 6 => .ok (.aminu (fieldB w0 25) (field w0 20 5) (field w0 15 5) (field w0 10 5) (field w0 3 3) (field w0 1 2) (fieldB w0 0))
  | 7 => .ok (.amaxu (fieldB w0 25) (field w0 20 5) (field w0 15 5) (field w0 10 5) (field w0 3 3) (field w0 1 2) (fieldB w0 0))
  | 8 => .ok (.aswap (fieldB w0 25) (field w0 20 5) (field w0 15 5) (field w0 10 5) (field w0 3 3) (field w0 1 2) (fieldB w0 0))
  | 9 => .ok (.acas (fieldB w0 25) (field w0 20 5) (field w0 15 5) (field w0 10 5) (field w0 3 3) (field w0 1 2) (fieldB w0 0))
  | _ => .error .unassignedFunction

/-- Major 0x07: the forms R135 lists. -/
def decode07 (w0 : Nat) : Except DecodeError Instr :=
  match w0 / 2 ^ 23 % 2 ^ 2 with
  | 0 => .ok (.ptgt (fieldB w0 25) (field w0 21 2) (field w0 0 21))
  | 1 => guardReserved (w0 / 2 ^ 0 % 2 ^ 16 == 0) (.ptgtr (fieldB w0 25) (field w0 21 2) (field w0 16 5))
  | 2 => guardReserved (w0 / 2 ^ 0 % 2 ^ 17 == 0) (.br (fieldB w0 25) (field w0 21 2) (field w0 18 3) (fieldB w0 17))
  | 3 => guardReserved (w0 / 2 ^ 0 % 2 ^ 17 == 0) (.brl (fieldB w0 25) (field w0 21 2) (field w0 18 3) (fieldB w0 17))
  | _ => .error .unassignedFunction

/-- Major 0x08: the forms R135 lists. -/
def decode08 (w0 : Nat) : Except DecodeError Instr :=
  match w0 / 2 ^ 0 % 2 ^ 10 with
  | 0 => .ok (.cmpeq (fieldB w0 25) (field w0 20 5) (field w0 15 5) (field w0 10 5))
  | 1 => .ok (.cmpne (fieldB w0 25) (field w0 20 5) (field w0 15 5) (field w0 10 5))
  | 2 => .ok (.cmplt (fieldB w0 25) (field w0 20 5) (field w0 15 5) (field w0 10 5))
  | 3 => .ok (.cmpge (fieldB w0 25) (field w0 20 5) (field w0 15 5) (field w0 10 5))
  | 4 => .ok (.cmpltu (fieldB w0 25) (field w0 20 5) (field w0 15 5) (field w0 10 5))
  | 5 => .ok (.cmpgeu (fieldB w0 25) (field w0 20 5) (field w0 15 5) (field w0 10 5))
  | 6 => .ok (.cand (fieldB w0 25) (field w0 20 5) (field w0 15 5) (field w0 10 5))
  | 7 => .ok (.cor (fieldB w0 25) (field w0 20 5) (field w0 15 5) (field w0 10 5))
  | 8 => .ok (.cxor (fieldB w0 25) (field w0 20 5) (field w0 15 5) (field w0 10 5))
  | 9 => guardReserved (w0 / 2 ^ 10 % 2 ^ 5 == 0) (.cnot (fieldB w0 25) (field w0 20 5) (field w0 15 5))
  | 10 => .ok (.sel (fieldB w0 25) (field w0 20 5) (field w0 15 5) (field w0 10 5))
  | 11 => guardReserved (w0 / 2 ^ 10 % 2 ^ 5 == 0) (.ctos (fieldB w0 25) (field w0 20 5) (field w0 15 5))
  | _ => .error .unassignedFunction

/-- Major 0x09: the forms R135 lists. -/
def decode09 (w0 : Nat) : Except DecodeError Instr :=
  match w0 / 2 ^ 0 % 2 ^ 3 with
  | 0 => guardReserved (w0 / 2 ^ 12 % 2 ^ 3 == 0 && w0 / 2 ^ 20 % 2 ^ 5 == 0) (.loop (fieldB w0 25) (field w0 15 5) (field w0 9 3) (field w0 3 6))
  | 1 => guardReserved (w0 / 2 ^ 6 % 2 ^ 9 == 0 && w0 / 2 ^ 20 % 2 ^ 5 == 0) (.lbreak (fieldB w0 25) (field w0 15 5) (field w0 3 3))
  | 2 => guardReserved (w0 / 2 ^ 3 % 2 ^ 22 == 0) (.tstart (fieldB w0 25))
  | 3 => guardReserved (w0 / 2 ^ 20 % 2 ^ 5 == 0) (.twait (fieldB w0 25) (field w0 15 5) (field w0 3 12))
  | 4 => guardReserved (w0 / 2 ^ 5 % 2 ^ 15 == 0) (.tread (fieldB w0 25) (field w0 20 5) (field w0 3 2))
  | _ => .error .unassignedFunction

/-- Major 0x0A: the forms R135 lists. -/
def decode0A (w0 : Nat) : Except DecodeError Instr :=
  match w0 / 2 ^ 0 % 2 ^ 3 with
  | 0 => guardReserved (w0 / 2 ^ 15 % 2 ^ 5 == 0) (.srd (fieldB w0 25) (field w0 20 5) (field w0 3 12))
  | 1 => guardReserved (w0 / 2 ^ 20 % 2 ^ 5 == 0) (.swr (fieldB w0 25) (field w0 15 5) (field w0 3 12))
  | 2 => guardReserved (w0 / 2 ^ 8 % 2 ^ 4 == 0 && w0 / 2 ^ 15 % 2 ^ 10 == 0) (.fence (fieldB w0 25) (field w0 12 3) (field w0 3 5))
  | 3 => guardReserved (w0 / 2 ^ 15 % 2 ^ 10 == 0) (.trap (fieldB w0 25) (field w0 3 12))
  | 4 => guardReserved (w0 / 2 ^ 3 % 2 ^ 22 == 0) (.rft (fieldB w0 25))
  | 5 => guardReserved (w0 / 2 ^ 3 % 2 ^ 22 == 0) (.exit (fieldB w0 25))
  | 6 => guardReserved (w0 / 2 ^ 3 % 2 ^ 22 == 0) (.yield (fieldB w0 25))
  | 7 => guardReserved (w0 / 2 ^ 7 % 2 ^ 18 == 0) (.waitev (fieldB w0 25) (field w0 3 4))
  | _ => .error .unassignedFunction

/-- Major 0x0B: the forms R135 lists. -/
def decode0B (w0 : Nat) : Except DecodeError Instr :=
  match w0 / 2 ^ 0 % 2 ^ 3 with
  | 0 => guardReserved (w0 / 2 ^ 7 % 2 ^ 18 == 0) (.qflush (fieldB w0 25) (field w0 3 4))
  | 1 => guardReserved (w0 / 2 ^ 7 % 2 ^ 18 == 0) (.qsync (fieldB w0 25) (field w0 3 4))
  | 2 => guardReserved (w0 / 2 ^ 5 % 2 ^ 15 == 0) (.qmark (fieldB w0 25) (field w0 20 5) (field w0 3 2))
  | 3 => guardReserved (w0 / 2 ^ 5 % 2 ^ 15 == 0) (.qdepth (fieldB w0 25) (field w0 20 5) (field w0 3 2))
  | _ => .error .unassignedFunction

/-- Major 0x0C: the forms R135 lists. -/
def decode0C (w0 : Nat) : Except DecodeError Instr :=
  match w0 / 2 ^ 0 % 2 ^ 3 with
  | 0 => .ok (.rcfg (fieldB w0 25) (field w0 20 5) (field w0 15 5) (field w0 3 12))
  | 1 => guardReserved (w0 / 2 ^ 12 % 2 ^ 8 == 0) (.waitf (fieldB w0 25) (field w0 20 5) (field w0 3 9))
  | 2 => guardReserved (w0 / 2 ^ 12 % 2 ^ 8 == 0) (.waite (fieldB w0 25) (field w0 20 5) (field w0 3 9))
  | 3 => guardReserved (w0 / 2 ^ 12 % 2 ^ 8 == 0) (.rclaim (fieldB w0 25) (field w0 20 5) (field w0 3 9))
  | 4 => guardReserved (w0 / 2 ^ 12 % 2 ^ 8 == 0) (.rpub (fieldB w0 25) (field w0 20 5) (field w0 3 9))
  | 5 => guardReserved (w0 / 2 ^ 12 % 2 ^ 8 == 0) (.rpop (fieldB w0 25) (field w0 20 5) (field w0 3 9))
  | 6 => guardReserved (w0 / 2 ^ 14 % 2 ^ 6 == 0) (.rstat (fieldB w0 25) (field w0 20 5) (field w0 11 3) (field w0 7 4) (field w0 3 4))
  | _ => .error .unassignedFunction

/-- Major 0x0D: the forms R135 lists. -/
def decode0D (w0 : Nat) : Except DecodeError Instr :=
  match w0 / 2 ^ 0 % 2 ^ 3 with
  | 0 => guardReserved (w0 / 2 ^ 11 % 2 ^ 1 == 0) (.finc (fieldB w0 25) (field w0 20 5) (field w0 15 5) (field w0 12 3) (field w0 3 8))
  | 1 => guardReserved (w0 / 2 ^ 11 % 2 ^ 1 == 0 && w0 / 2 ^ 20 % 2 ^ 5 == 0) (.fwait (fieldB w0 25) (field w0 15 5) (field w0 12 3) (field w0 3 8))
  | 2 => guardReserved (w0 / 2 ^ 11 % 2 ^ 1 == 0 && w0 / 2 ^ 20 % 2 ^ 5 == 0) (.fset (fieldB w0 25) (field w0 15 5) (field w0 12 3) (field w0 3 8))
  | 3 => guardReserved (w0 / 2 ^ 11 % 2 ^ 1 == 0 && w0 / 2 ^ 15 % 2 ^ 5 == 0) (.fread (fieldB w0 25) (field w0 20 5) (field w0 12 3) (field w0 3 8))
  | 4 => guardReserved (w0 / 2 ^ 11 % 2 ^ 1 == 0 && w0 / 2 ^ 20 % 2 ^ 5 == 0) (.bar (fieldB w0 25) (field w0 15 5) (field w0 12 3) (field w0 3 8))
  | _ => .error .unassignedFunction

/-- Major 0x0E: the forms R135 lists. -/
def decode0E (w0 : Nat) : Except DecodeError Instr :=
  match w0 / 2 ^ 0 % 2 ^ 3 with
  | 0 => guardReserved (w0 / 2 ^ 5 % 2 ^ 20 == 0) (.admode (fieldB w0 25) (field w0 3 2))
  | 1 => guardReserved (w0 / 2 ^ 3 % 2 ^ 17 == 0) (.tapemk (fieldB w0 25) (field w0 20 5))
  | 2 => guardReserved (w0 / 2 ^ 3 % 2 ^ 12 == 0 && w0 / 2 ^ 20 % 2 ^ 5 == 0) (.tapecut (fieldB w0 25) (field w0 15 5))
  | _ => .error .unassignedFunction

/-- Major 0x0F: the forms R135 lists. -/
def decode0F (w0 : Nat) : Except DecodeError Instr :=
  match w0 / 2 ^ 0 % 2 ^ 3 with
  | 0 => guardReserved (w0 / 2 ^ 9 % 2 ^ 6 == 0) (.launch (fieldB w0 25) (field w0 20 5) (field w0 15 5) (field w0 3 6))
  | 1 => guardReserved (w0 / 2 ^ 3 % 2 ^ 22 == 0) (.ncommit (fieldB w0 25))
  | _ => .error .unassignedFunction

/-- Major 0x10: the forms R135 lists. -/
def decode10 (w0 : Nat) : Except DecodeError Instr :=
  match w0 / 2 ^ 0 % 2 ^ 10 with
  | 0 => .ok (.mul (fieldB w0 25) (field w0 20 5) (field w0 15 5) (field w0 10 5))
  | 1 => .ok (.mulh (fieldB w0 25) (field w0 20 5) (field w0 15 5) (field w0 10 5))
  | 2 => .ok (.mulhu (fieldB w0 25) (field w0 20 5) (field w0 15 5) (field w0 10 5))
  | 3 => .ok (.div (fieldB w0 25) (field w0 20 5) (field w0 15 5) (field w0 10 5))
  | 4 => .ok (.divu (fieldB w0 25) (field w0 20 5) (field w0 15 5) (field w0 10 5))
  | 5 => .ok (.rem (fieldB w0 25) (field w0 20 5) (field w0 15 5) (field w0 10 5))
  | 6 => .ok (.remu (fieldB w0 25) (field w0 20 5) (field w0 15 5) (field w0 10 5))
  | 7 => .ok (.mulw (fieldB w0 25) (field w0 20 5) (field w0 15 5) (field w0 10 5))
  | 8 => .ok (.divw (fieldB w0 25) (field w0 20 5) (field w0 15 5) (field w0 10 5))
  | _ => .error .unassignedFunction

/-- Major 0x11: the forms R135 lists. -/
def decode11 (w0 : Nat) : Except DecodeError Instr :=
  match w0 / 2 ^ 0 % 2 ^ 3 with
  | 0 => guardReserved (w0 / 2 ^ 3 % 2 ^ 12 == 0 && w0 / 2 ^ 20 % 2 ^ 5 == 0) (.fmt (fieldB w0 25) (field w0 15 5))
  | 1 => guardReserved (w0 / 2 ^ 3 % 2 ^ 22 == 0) (.fmtclr (fieldB w0 25))
  | _ => .error .unassignedFunction

/-- Major 0x12: the forms R135 lists. -/
def decode12 (w0 : Nat) : Except DecodeError Instr :=
  match w0 / 2 ^ 0 % 2 ^ 3 with
  | 0 => guardReserved (w0 / 2 ^ 6 % 2 ^ 9 == 0 && w0 / 2 ^ 20 % 2 ^ 5 == 0) (.mld (fieldB w0 25) (field w0 15 5) (field w0 3 3))
  | 1 => guardReserved (w0 / 2 ^ 12 % 2 ^ 13 == 0) (.mbind (fieldB w0 25) (field w0 9 3) (field w0 3 6))
  | 2 => guardReserved (w0 / 2 ^ 9 % 2 ^ 16 == 0) (.munbind (fieldB w0 25) (field w0 3 6))
  | 3 => guardReserved (w0 / 2 ^ 6 % 2 ^ 14 == 0) (.mstat (fieldB w0 25) (field w0 20 5) (field w0 3 3))
  | _ => .error .unassignedFunction

/-- Major 0x13: the forms R135 lists. -/
def decode13 (w0 : Nat) : Except DecodeError Instr :=
  match w0 / 2 ^ 0 % 2 ^ 3 with
  | 0 => guardReserved (w0 / 2 ^ 11 % 2 ^ 14 == 0) (.spmark (fieldB w0 25) (field w0 3 8))
  | 1 => guardReserved (w0 / 2 ^ 3 % 2 ^ 12 == 0 && w0 / 2 ^ 20 % 2 ^ 5 == 0) (.spaccept (fieldB w0 25) (field w0 15 5))
  | 2 => guardReserved (w0 / 2 ^ 3 % 2 ^ 22 == 0) (.spdrop (fieldB w0 25))
  | _ => .error .unassignedFunction

/-- Major 0x30: the forms R135 lists. -/
def decode30 (w0 w1 : Nat) : Except DecodeError Instr :=
  match w0 / 2 ^ 4 % 2 ^ 6 with
  | 0 => guardReserved (w1 / 2 ^ 0 % 2 ^ 5 == 0) (.vadd (exOf w0 w1) (field w0 20 5) (field w0 15 5) (field w0 10 5) (field w0 0 4))
  | 1 => guardReserved (w1 / 2 ^ 0 % 2 ^ 5 == 0) (.vsub (exOf w0 w1) (field w0 20 5) (field w0 15 5) (field w0 10 5) (field w0 0 4))
  | 2 => guardReserved (w1 / 2 ^ 0 % 2 ^ 5 == 0) (.vmul (exOf w0 w1) (field w0 20 5) (field w0 15 5) (field w0 10 5) (field w0 0 4))
  | 3 => guardReserved (w1 / 2 ^ 0 % 2 ^ 5 == 0) (.vmulh (exOf w0 w1) (field w0 20 5) (field w0 15 5) (field w0 10 5) (field w0 0 4))
  | 4 => guardReserved (w1 / 2 ^ 0 % 2 ^ 5 == 0) (.vmin (exOf w0 w1) (field w0 20 5) (field w0 15 5) (field w0 10 5) (field w0 0 4))
  | 5 => guardReserved (w1 / 2 ^ 0 % 2 ^ 5 == 0) (.vmax (exOf w0 w1) (field w0 20 5) (field w0 15 5) (field w0 10 5) (field w0 0 4))
  | 6 => guardReserved (w0 / 2 ^ 10 % 2 ^ 5 == 0 && w1 / 2 ^ 0 % 2 ^ 5 == 0) (.vabs (exOf w0 w1) (field w0 20 5) (field w0 15 5) (field w0 0 4))
  | 7 => guardReserved (w0 / 2 ^ 10 % 2 ^ 5 == 0 && w1 / 2 ^ 0 % 2 ^ 5 == 0) (.vneg (exOf w0 w1) (field w0 20 5) (field w0 15 5) (field w0 0 4))
  | 8 => guardReserved (w1 / 2 ^ 0 % 2 ^ 5 == 0) (.vadds (exOf w0 w1) (field w0 20 5) (field w0 15 5) (field w0 10 5) (field w0 0 4))
  | 9 => guardReserved (w1 / 2 ^ 0 % 2 ^ 5 == 0) (.vsubs (exOf w0 w1) (field w0 20 5) (field w0 15 5) (field w0 10 5) (field w0 0 4))
  | 10 => guardReserved (w1 / 2 ^ 0 % 2 ^ 5 == 0) (.vavg (exOf w0 w1) (field w0 20 5) (field w0 15 5) (field w0 10 5) (field w0 0 4))
  | 11 => guardReserved (w1 / 2 ^ 0 % 2 ^ 5 == 0) (.vmad (exOf w0 w1) (field w0 20 5) (field w0 15 5) (field w0 10 5) (field w0 0 4))
  | 12 => guardReserved (w1 / 2 ^ 0 % 2 ^ 5 == 0) (.vdot4 (exOf w0 w1) (field w0 20 5) (field w0 15 5) (field w0 10 5) (field w0 0 4))
  | _ => .error .unassignedFunction

/-- Major 0x31: the forms R135 lists. -/
def decode31 (w0 w1 : Nat) : Except DecodeError Instr :=
  match w0 / 2 ^ 4 % 2 ^ 6 with
  | 0 => guardReserved (w1 / 2 ^ 3 % 2 ^ 2 == 0) (.vfadd (exOf w0 w1) (field w0 20 5) (field w0 15 5) (field w0 10 5) (field w0 0 4) (field w1 0 3))
  | 1 => guardReserved (w1 / 2 ^ 3 % 2 ^ 2 == 0) (.vfsub (exOf w0 w1) (field w0 20 5) (field w0 15 5) (field w0 10 5) (field w0 0 4) (field w1 0 3))
  | 2 => guardReserved (w1 / 2 ^ 3 % 2 ^ 2 == 0) (.vfmul (exOf w0 w1) (field w0 20 5) (field w0 15 5) (field w0 10 5) (field w0 0 4) (field w1 0 3))
  | 3 => guardReserved (w1 / 2 ^ 3 % 2 ^ 2 == 0) (.vfma (exOf w0 w1) (field w0 20 5) (field w0 15 5) (field w0 10 5) (field w0 0 4) (field w1 0 3))
  | 4 => guardReserved (w1 / 2 ^ 0 % 2 ^ 5 == 0) (.vfmin (exOf w0 w1) (field w0 20 5) (field w0 15 5) (field w0 10 5) (field w0 0 4))
  | 5 => guardReserved (w1 / 2 ^ 0 % 2 ^ 5 == 0) (.vfmax (exOf w0 w1) (field w0 20 5) (field w0 15 5) (field w0 10 5) (field w0 0 4))
  | 6 => guardReserved (w0 / 2 ^ 10 % 2 ^ 5 == 0 && w1 / 2 ^ 0 % 2 ^ 5 == 0) (.vfabs (exOf w0 w1) (field w0 20 5) (field w0 15 5) (field w0 0 4))
  | 7 => guardReserved (w0 / 2 ^ 10 % 2 ^ 5 == 0 && w1 / 2 ^ 0 % 2 ^ 5 == 0) (.vfneg (exOf w0 w1) (field w0 20 5) (field w0 15 5) (field w0 0 4))
  | 8 => guardReserved (w1 / 2 ^ 3 % 2 ^ 2 == 0) (.vfscl (exOf w0 w1) (field w0 20 5) (field w0 15 5) (field w0 10 5) (field w0 0 4) (field w1 0 3))
  | 9 => guardReserved (w0 / 2 ^ 10 % 2 ^ 5 == 0 && w1 / 2 ^ 0 % 2 ^ 5 == 0) (.vfclass (exOf w0 w1) (field w0 20 5) (field w0 15 5) (field w0 0 4))
  | _ => .error .unassignedFunction

/-- Major 0x32: the forms R135 lists. -/
def decode32 (w0 w1 : Nat) : Except DecodeError Instr :=
  match w0 / 2 ^ 4 % 2 ^ 6 with
  | 0 => guardReserved (w0 / 2 ^ 14 % 2 ^ 1 == 0) (.vcvt (exOf w0 w1) (field w0 20 5) (field w0 15 5) (field w0 10 4) (field w0 0 4) (field w1 3 2) (field w1 0 3))
  | 1 => guardReserved (w1 / 2 ^ 0 % 2 ^ 5 == 0) (.vpack (exOf w0 w1) (field w0 20 5) (field w0 15 5) (field w0 10 5) (field w0 0 4))
  | 2 => guardReserved (w0 / 2 ^ 10 % 2 ^ 5 == 0 && w1 / 2 ^ 1 % 2 ^ 4 == 0) (.vunpk (exOf w0 w1) (field w0 20 5) (field w0 15 5) (field w0 0 4) (fieldB w1 0))
  | 3 => guardReserved (w1 / 2 ^ 3 % 2 ^ 2 == 0) (.vqnt (exOf w0 w1) (field w0 20 5) (field w0 15 5) (field w0 10 5) (field w0 0 4) (field w1 0 3))
  | 4 => guardReserved (w1 / 2 ^ 0 % 2 ^ 5 == 0) (.vdqnt (exOf w0 w1) (field w0 20 5) (field w0 15 5) (field w0 10 5) (field w0 0 4))
  | _ => .error .unassignedFunction

/-- Major 0x33: the forms R135 lists. -/
def decode33 (w0 w1 : Nat) : Except DecodeError Instr :=
  match w0 / 2 ^ 4 % 2 ^ 6 with
  | 0 => guardReserved (w1 / 2 ^ 0 % 2 ^ 5 == 0) (.vand (exOf w0 w1) (field w0 20 5) (field w0 15 5) (field w0 10 5) (field w0 0 4))
  | 1 => guardReserved (w1 / 2 ^ 0 % 2 ^ 5 == 0) (.vor (exOf w0 w1) (field w0 20 5) (field w0 15 5) (field w0 10 5) (field w0 0 4))
  | 2 => guardReserved (w1 / 2 ^ 0 % 2 ^ 5 == 0) (.vxor (exOf w0 w1) (field w0 20 5) (field w0 15 5) (field w0 10 5) (field w0 0 4))
  | 3 => guardReserved (w1 / 2 ^ 4 % 2 ^ 1 == 0) (.vlop3 (exOf w0 w1) (field w0 20 5) (field w0 15 5) (field w0 10 5) (field w0 0 4) (field w1 0 4))
  | 4 => guardReserved (w1 / 2 ^ 0 % 2 ^ 5 == 0) (.vshl (exOf w0 w1) (field w0 20 5) (field w0 15 5) (field w0 10 5) (field w0 0 4))
  | 5 => guardReserved (w1 / 2 ^ 0 % 2 ^ 5 == 0) (.vshr (exOf w0 w1) (field w0 20 5) (field w0 15 5) (field w0 10 5) (field w0 0 4))
  | 6 => guardReserved (w1 / 2 ^ 0 % 2 ^ 5 == 0) (.vsra (exOf w0 w1) (field w0 20 5) (field w0 15 5) (field w0 10 5) (field w0 0 4))
  | 7 => guardReserved (w1 / 2 ^ 0 % 2 ^ 5 == 0) (.vrot (exOf w0 w1) (field w0 20 5) (field w0 15 5) (field w0 10 5) (field w0 0 4))
  | 8 => .ok (.vfunl (exOf w0 w1) (field w0 20 5) (field w0 15 5) (field w0 10 5) (field w0 0 4) (field w1 0 5))
  | 9 => .ok (.vfunr (exOf w0 w1) (field w0 20 5) (field w0 15 5) (field w0 10 5) (field w0 0 4) (field w1 0 5))
  | 10 => guardReserved (w0 / 2 ^ 10 % 2 ^ 5 == 0 && w1 / 2 ^ 0 % 2 ^ 5 == 0) (.vpopc (exOf w0 w1) (field w0 20 5) (field w0 15 5) (field w0 0 4))
  | 11 => guardReserved (w0 / 2 ^ 10 % 2 ^ 5 == 0 && w1 / 2 ^ 0 % 2 ^ 5 == 0) (.vclz (exOf w0 w1) (field w0 20 5) (field w0 15 5) (field w0 0 4))
  | _ => .error .unassignedFunction

/-- Major 0x34: the forms R135 lists. -/
def decode34 (w0 w1 : Nat) : Except DecodeError Instr :=
  match w0 / 2 ^ 4 % 2 ^ 6 with
  | 0 => guardReserved (w1 / 2 ^ 3 % 2 ^ 2 == 0) (.vcmp (exOf w0 w1) (field w0 20 5) (field w0 15 5) (field w0 10 5) (field w0 0 4) (field w1 0 3))
  | 1 => guardReserved (w1 / 2 ^ 3 % 2 ^ 2 == 0) (.vfcmp (exOf w0 w1) (field w0 20 5) (field w0 15 5) (field w0 10 5) (field w0 0 4) (field w1 0 3))
  | 2 => guardReserved (w1 / 2 ^ 0 % 2 ^ 5 == 0) (.vsel (exOf w0 w1) (field w0 20 5) (field w0 15 5) (field w0 10 5) (field w0 0 4))
  | 3 => guardReserved (w0 / 2 ^ 0 % 2 ^ 4 == 0 && w1 / 2 ^ 3 % 2 ^ 2 == 0 && w1 / 2 ^ 10 % 2 ^ 6 == 0 && ((field w1 0 3 != 5#3 && field w1 0 3 != 6#3) || w0 / 2 ^ 10 % 2 ^ 5 == 0)) (.vplog (ex0Of w0 w1) (field w0 20 5) (field w0 15 5) (field w0 10 5) (field w1 0 3))
  | 4 => guardReserved (w0 / 2 ^ 10 % 2 ^ 5 == 0 && w1 / 2 ^ 1 % 2 ^ 4 == 0) (.vvote (exOf w0 w1) (field w0 20 5) (field w0 15 5) (field w0 0 4) (fieldB w1 0))
  | 5 => guardReserved (w0 / 2 ^ 10 % 2 ^ 5 == 0 && w1 / 2 ^ 0 % 2 ^ 5 == 0) (.vpcnt (exOf w0 w1) (field w0 20 5) (field w0 15 5) (field w0 0 4))
  | _ => .error .unassignedFunction

/-- Major 0x35: the forms R135 lists. -/
def decode35 (w0 w1 : Nat) : Except DecodeError Instr :=
  match w0 / 2 ^ 4 % 2 ^ 6 with
  | 0 => guardReserved (w1 / 2 ^ 0 % 2 ^ 5 == 0) (.vperm (exOf w0 w1) (field w0 20 5) (field w0 15 5) (field w0 10 5) (field w0 0 4))
  | 1 => guardReserved (w0 / 2 ^ 10 % 2 ^ 5 == 0 && w1 / 2 ^ 0 % 2 ^ 5 == 0) (.vbcast (exOf w0 w1) (field w0 20 5) (field w0 15 5) (field w0 0 4))
  | 2 => guardReserved (w1 / 2 ^ 0 % 2 ^ 5 == 0) (.vlane (exOf w0 w1) (field w0 20 5) (field w0 15 5) (field w0 10 5) (field w0 0 4))
  | 3 => guardReserved (w1 / 2 ^ 3 % 2 ^ 2 == 0 && (field w1 0 3 != 4#3 || w0 / 2 ^ 10 % 2 ^ 5 == 0)) (.vshuf (exOf w0 w1) (field w0 20 5) (field w0 15 5) (field w0 10 5) (field w0 0 4) (field w1 0 3))
  | 4 => guardReserved (w0 / 2 ^ 10 % 2 ^ 5 == 0 && w1 / 2 ^ 3 % 2 ^ 2 == 0) (.vred (exOf w0 w1) (field w0 20 5) (field w0 15 5) (field w0 0 4) (field w1 0 3))
  | 5 => guardReserved (w0 / 2 ^ 10 % 2 ^ 5 == 0 && w1 / 2 ^ 3 % 2 ^ 2 == 0) (.vscan (exOf w0 w1) (field w0 20 5) (field w0 15 5) (field w0 0 4) (field w1 0 3))
  | 6 => guardReserved (w0 / 2 ^ 10 % 2 ^ 5 == 0 && w1 / 2 ^ 0 % 2 ^ 5 == 0) (.vidx (exOf w0 w1) (field w0 20 5) (field w0 15 5) (field w0 0 4))
  | 7 => guardReserved (w0 / 2 ^ 10 % 2 ^ 10 == 0 && w1 / 2 ^ 2 % 2 ^ 3 == 0) (.vcell (exOf w0 w1) (field w0 20 5) (field w0 0 4) (field w1 0 2))
  | _ => .error .unassignedFunction

/-- Major 0x36: the forms R135 lists. -/
def decode36 (w0 w1 : Nat) : Except DecodeError Instr :=
  match w0 / 2 ^ 12 % 2 ^ 3 with
  | 0 => guardReserved (w1 / 2 ^ 0 % 2 ^ 5 == 0) (.vld (exOf w0 w1) (field w0 20 5) (field w0 15 5) (field w0 0 12))
  | 1 => guardReserved (w1 / 2 ^ 0 % 2 ^ 5 == 0) (.vst (exOf w0 w1) (field w0 20 5) (field w0 15 5) (field w0 0 12))
  | 2 => .ok (.vlds (exOf w0 w1) (field w0 20 5) (field w0 15 5) (field w0 0 12) (field w1 0 5))
  | 3 => .ok (.vsts (exOf w0 w1) (field w0 20 5) (field w0 15 5) (field w0 0 12) (field w1 0 5))
  | 4 => .ok (.vldx (exOf w0 w1) (field w0 20 5) (field w0 15 5) (field w0 0 12) (field w1 0 5))
  | 5 => .ok (.vstx (exOf w0 w1) (field w0 20 5) (field w0 15 5) (field w0 0 12) (field w1 0 5))
  | 6 => guardReserved (w0 / 2 ^ 18 % 2 ^ 2 == 0 && w1 / 2 ^ 4 % 2 ^ 1 == 0) (.vldr (exOf w0 w1) (field w0 20 5) (field w0 15 3) (field w0 8 4) (field w0 0 8) (field w1 0 4))
  | 7 => guardReserved (w0 / 2 ^ 0 % 2 ^ 8 == 0 && w0 / 2 ^ 18 % 2 ^ 2 == 0 && w1 / 2 ^ 4 % 2 ^ 1 == 0) (.vstr (exOf w0 w1) (field w0 20 5) (field w0 15 3) (field w0 8 4) (field w1 0 4))
  | _ => .error .unassignedFunction

/-- Major 0x37: the forms R135 lists. -/
def decode37 (w0 w1 : Nat) : Except DecodeError Instr :=
  match w0 / 2 ^ 4 % 2 ^ 6 with
  | 0 => guardReserved (w1 / 2 ^ 0 % 2 ^ 5 == 0) (.vaadd (exOf w0 w1) (field w0 20 5) (field w0 15 5) (field w0 10 5) (field w0 0 4))
  | 1 => guardReserved (w1 / 2 ^ 0 % 2 ^ 5 == 0) (.vafadd (exOf w0 w1) (field w0 20 5) (field w0 15 5) (field w0 10 5) (field w0 0 4))
  | 2 => guardReserved (w1 / 2 ^ 0 % 2 ^ 5 == 0) (.vamin (exOf w0 w1) (field w0 20 5) (field w0 15 5) (field w0 10 5) (field w0 0 4))
  | 3 => guardReserved (w1 / 2 ^ 0 % 2 ^ 5 == 0) (.vamax (exOf w0 w1) (field w0 20 5) (field w0 15 5) (field w0 10 5) (field w0 0 4))
  | 4 => guardReserved (w1 / 2 ^ 0 % 2 ^ 5 == 0) (.vaswap (exOf w0 w1) (field w0 20 5) (field w0 15 5) (field w0 10 5) (field w0 0 4))
  | _ => .error .unassignedFunction

/-- Major 0x38: the forms R135 lists. -/
def decode38 (w0 w1 : Nat) : Except DecodeError Instr :=
  match w0 / 2 ^ 4 % 2 ^ 6 with
  | 0 => guardReserved (w0 / 2 ^ 10 % 2 ^ 5 == 0 && w1 / 2 ^ 0 % 2 ^ 5 == 0) (.vexp2 (exOf w0 w1) (field w0 20 5) (field w0 15 5) (field w0 0 4))
  | 1 => guardReserved (w0 / 2 ^ 10 % 2 ^ 5 == 0 && w1 / 2 ^ 0 % 2 ^ 5 == 0) (.vlog2 (exOf w0 w1) (field w0 20 5) (field w0 15 5) (field w0 0 4))
  | 2 => guardReserved (w0 / 2 ^ 10 % 2 ^ 5 == 0 && w1 / 2 ^ 0 % 2 ^ 5 == 0) (.vrcp (exOf w0 w1) (field w0 20 5) (field w0 15 5) (field w0 0 4))
  | 3 => guardReserved (w0 / 2 ^ 10 % 2 ^ 5 == 0 && w1 / 2 ^ 0 % 2 ^ 5 == 0) (.vrsq (exOf w0 w1) (field w0 20 5) (field w0 15 5) (field w0 0 4))
  | 4 => guardReserved (w0 / 2 ^ 10 % 2 ^ 5 == 0 && w1 / 2 ^ 0 % 2 ^ 5 == 0) (.vtanh (exOf w0 w1) (field w0 20 5) (field w0 15 5) (field w0 0 4))
  | 5 => guardReserved (w1 / 2 ^ 3 % 2 ^ 2 == 0) (.vdiv (exOf w0 w1) (field w0 20 5) (field w0 15 5) (field w0 10 5) (field w0 0 4) (field w1 0 3))
  | 6 => guardReserved (w1 / 2 ^ 2 % 2 ^ 3 == 0) (.vrnd (exOf w0 w1) (field w0 20 5) (field w0 15 5) (field w0 10 5) (field w0 0 4) (field w1 0 2))
  | 7 => guardReserved (w1 / 2 ^ 0 % 2 ^ 5 == 0) (.vgumb (exOf w0 w1) (field w0 20 5) (field w0 15 5) (field w0 10 5) (field w0 0 4))
  | 8 => guardReserved (w1 / 2 ^ 0 % 2 ^ 5 == 0) (.vsamp (exOf w0 w1) (field w0 20 5) (field w0 15 5) (field w0 10 5) (field w0 0 4))
  | _ => .error .unassignedFunction

/-- Major 0x39: the forms R135 lists. -/
def decode39 (w0 w1 : Nat) : Except DecodeError Instr :=
  guardReserved (w0 / 2 ^ 0 % 2 ^ 3 == 0) (.mot (exMOf w0 w1) (field w0 19 6) (field w0 14 5) (field w0 9 5) (field w0 4 5) (fieldB w0 3) (field w1 5 5) (field w1 0 5))

/-- Major 0x3A: the forms R135 lists. -/
def decode3A (w0 w1 : Nat) : Except DecodeError Instr :=
  match w0 / 2 ^ 22 % 2 ^ 3 with
  | 0 => guardReserved (w0 / 2 ^ 5 % 2 ^ 3 == 0 && w1 / 2 ^ 0 % 2 ^ 5 == 0 && (field w0 8 2 == 2#2 || w0 % 2 ^ 5 == 0)) (.vshift (exOf w0 w1) (field w0 20 2) (field w0 15 5) (field w0 10 5) (field w0 8 2) (field w0 0 5))
  | 1 => guardReserved (w0 / 2 ^ 5 % 2 ^ 5 == 0 && w0 / 2 ^ 20 % 2 ^ 2 == 0 && w1 / 2 ^ 0 % 2 ^ 5 == 0) (.vxsend (exOf w0 w1) (field w0 15 5) (field w0 10 5) (field w0 0 5))
  | 2 => guardReserved (w0 / 2 ^ 5 % 2 ^ 10 == 0 && w1 / 2 ^ 0 % 2 ^ 5 == 0) (.vxrecv (exOf w0 w1) (field w0 20 2) (field w0 15 5) (field w0 0 5))
  | 3 => guardReserved (w0 / 2 ^ 5 % 2 ^ 10 == 0 && w1 / 2 ^ 0 % 2 ^ 5 == 0) (.vbord (exOf w0 w1) (field w0 20 2) (field w0 15 5) (field w0 0 5))
  | 4 => guardReserved (w0 / 2 ^ 0 % 2 ^ 10 == 0 && w1 / 2 ^ 0 % 2 ^ 5 == 0) (.vjoin (exOf w0 w1) (field w0 20 2) (field w0 15 5) (field w0 10 5))
  | _ => .error .unassignedFunction

/-- Major 0x3B: the forms R135 lists. -/
def decode3B (w0 w1 : Nat) : Except DecodeError Instr :=
  match w0 / 2 ^ 22 % 2 ^ 3 with
  | 0 => guardReserved (w1 / 2 ^ 2 % 2 ^ 3 == 0) (.mma (exOf w0 w1) (field w0 16 6) (field w0 13 3) (field w0 10 3) (field w0 4 6) (field w0 2 2) (fieldB w0 1) (fieldB w0 0) (fieldB w1 0) (fieldB w1 1))
  | 1 => guardReserved (w1 / 2 ^ 3 % 2 ^ 2 == 0) (.mmaq (exOf w0 w1) (field w0 16 6) (field w0 13 3) (field w0 10 3) (field w0 4 6) (field w0 2 2) (fieldB w0 1) (fieldB w0 0) (fieldB w1 0) (fieldB w1 1) (fieldB w1 2))
  | 2 => guardReserved (w1 / 2 ^ 3 % 2 ^ 2 == 0) (.mmab (exOf w0 w1) (field w0 16 6) (field w0 13 3) (field w0 10 3) (field w0 4 6) (field w0 2 2) (fieldB w0 1) (fieldB w0 0) (fieldB w1 0) (fieldB w1 1) (fieldB w1 2))
  | 3 => guardReserved (w0 / 2 ^ 0 % 2 ^ 4 == 0 && w0 / 2 ^ 10 % 2 ^ 6 == 0 && w1 / 2 ^ 0 % 2 ^ 5 == 0) (.mzero (exOf w0 w1) (field w0 16 6) (field w0 4 6))
  | 4 => guardReserved (w0 / 2 ^ 0 % 2 ^ 4 == 0 && w0 / 2 ^ 15 % 2 ^ 1 == 0 && w1 / 2 ^ 4 % 2 ^ 1 == 0) (.mtov (exOf w0 w1) (field w0 16 6) (field w0 10 5) (field w0 4 6) (field w1 0 4))
  | 5 => guardReserved (w0 / 2 ^ 10 % 2 ^ 3 == 0 && w1 / 2 ^ 0 % 2 ^ 5 == 0) (.mtot (exOf w0 w1) (field w0 16 6) (field w0 13 3) (field w0 4 6) (field w0 2 2) (fieldB w0 1) (fieldB w0 0))
  | _ => .error .unassignedFunction

/-- Major 0x3C: the forms R135 lists. -/
def decode3C (w0 w1 : Nat) : Except DecodeError Instr :=
  match w0 / 2 ^ 22 % 2 ^ 3 with
  | 0 => guardReserved (w0 / 2 ^ 0 % 2 ^ 12 == 0 && w0 / 2 ^ 20 % 2 ^ 2 == 0) (.cfill (exOf w0 w1) (field w0 15 5) (field w0 12 3) (field w1 0 5))
  | 1 => guardReserved (w0 / 2 ^ 0 % 2 ^ 12 == 0 && w0 / 2 ^ 20 % 2 ^ 2 == 0) (.cdrain (exOf w0 w1) (field w0 15 5) (field w0 12 3) (field w1 0 5))
  | 2 => guardReserved (w0 / 2 ^ 0 % 2 ^ 12 == 0 && w0 / 2 ^ 20 % 2 ^ 2 == 0) (.cpair (exOf w0 w1) (field w0 15 5) (field w0 12 3) (field w1 0 5))
  | 3 => guardReserved (w0 / 2 ^ 0 % 2 ^ 12 == 0 && w0 / 2 ^ 20 % 2 ^ 2 == 0) (.cgath (exOf w0 w1) (field w0 15 5) (field w0 12 3) (field w1 0 5))
  | 4 => guardReserved (w0 / 2 ^ 0 % 2 ^ 12 == 0 && w0 / 2 ^ 20 % 2 ^ 2 == 0) (.ccopy (exOf w0 w1) (field w0 15 5) (field w0 12 3) (field w1 0 5))
  | 5 => guardReserved (w0 / 2 ^ 0 % 2 ^ 12 == 0 && w0 / 2 ^ 20 % 2 ^ 2 == 0) (.cred (exOf w0 w1) (field w0 15 5) (field w0 12 3) (field w1 0 5))
  | _ => .error .unassignedFunction

/-- Decode one instruction from its first word and the word after it; the second word matters only for a
two-word major. -/
def decodeWords (w0 w1 : Nat) : Except DecodeError Instr :=
  match majorOf w0 with
  | 0 => decode00 w0
  | 1 => decode01 w0
  | 2 => decode02 w0
  | 3 => decode03 w0
  | 4 => decode04 w0
  | 5 => decode05 w0
  | 6 => decode06 w0
  | 7 => decode07 w0
  | 8 => decode08 w0
  | 9 => decode09 w0
  | 10 => decode0A w0
  | 11 => decode0B w0
  | 12 => decode0C w0
  | 13 => decode0D w0
  | 14 => decode0E w0
  | 15 => decode0F w0
  | 16 => decode10 w0
  | 17 => decode11 w0
  | 18 => decode12 w0
  | 19 => decode13 w0
  | 48 => decode30 w0 w1
  | 49 => decode31 w0 w1
  | 50 => decode32 w0 w1
  | 51 => decode33 w0 w1
  | 52 => decode34 w0 w1
  | 53 => decode35 w0 w1
  | 54 => decode36 w0 w1
  | 55 => decode37 w0 w1
  | 56 => decode38 w0 w1
  | 57 => decode39 w0 w1
  | 58 => decode3A w0 w1
  | 59 => decode3B w0 w1
  | 60 => decode3C w0 w1
  | _ => .error .reservedMajor

/-- The word that four bytes hold, least significant byte first (R128). -/
def wordOfBytes (b0 b1 b2 b3 : Byte) : Nat :=
  b0.toNat + b1.toNat * 256 + b2.toNat * 65536 + b3.toNat * 16777216

/-- Decode the instruction at the head of a list of bytes, with the number of bytes it takes. Total on any bytes. -/
def decodeBytes : List Byte -> Except DecodeError (Instr × Nat)
  | b0 :: b1 :: b2 :: b3 :: rest =>
    let w0 := wordOfBytes b0 b1 b2 b3
    if lengthOf w0 = 1 then
      match decodeWords w0 0 with
      | .ok i => .ok (i, 4)
      | .error r => .error r
    else
      match rest with
      | b4 :: b5 :: b6 :: b7 :: _ =>
        match decodeWords w0 (wordOfBytes b4 b5 b6 b7) with
        | .ok i => .ok (i, 8)
        | .error r => .error r
      | _ => .error .truncated
  | _ => .error .truncated

/-- The k-th byte of a number, counted from the least significant. -/
def byteOf (w k : Nat) : Byte := BitVec.ofNat 8 (w / 2 ^ (8 * k))

/-- The instruction that the decoder reads from an instruction whose bits are w, numbered as the opcode table numbers
them; the bits above nbits are zero, up to the longest instruction of eight bytes. -/
def decodeTableWord (nbits w : Nat) : Option Instr :=
  let v := w % 2 ^ nbits
  match decodeBytes ((List.range 8).map (byteOf v)) with
  | .ok (i, _) => some i
  | .error _ => none

/-- Word1 of a command with the full header and the value aux of bits [4:0] (R131). -/
def Ex.word1 (h : Ex) (aux : Nat) : Nat :=
  h.start.toNat * 65536 + h.p.toNat * 2048 + h.ps.toNat * 1024 + h.c.toNat * 32 + aux

/-- Word1 of VPLOG. -/
def Ex0.word1 (h : Ex0) (aux : Nat) : Nat := h.start.toNat * 65536 + h.c.toNat * 32 + aux

/-- Word1 of a motif call, whose c field is x. -/
def ExM.word1 (h : ExM) (x : BitVec 5) (aux : Nat) : Nat :=
  h.start.toNat * 65536 + h.p.toNat * 2048 + h.ps.toNat * 1024 + x.toNat * 32 + aux

/-- The words of an instruction: word0, and word1 for a two-word major. A step that no program encodes has none. -/
def encode : Instr -> List Nat
  | .add e d a b => [e.toNat * 33554432 + d.toNat * 1048576 + a.toNat * 32768 + b.toNat * 1024]
  | .sub e d a b => [1 + e.toNat * 33554432 + d.toNat * 1048576 + a.toNat * 32768 + b.toNat * 1024]
  | .and e d a b => [2 + e.toNat * 33554432 + d.toNat * 1048576 + a.toNat * 32768 + b.toNat * 1024]
  | .or e d a b => [3 + e.toNat * 33554432 + d.toNat * 1048576 + a.toNat * 32768 + b.toNat * 1024]
  | .xor e d a b => [4 + e.toNat * 33554432 + d.toNat * 1048576 + a.toNat * 32768 + b.toNat * 1024]
  | .andn e d a b => [5 + e.toNat * 33554432 + d.toNat * 1048576 + a.toNat * 32768 + b.toNat * 1024]
  | .sll e d a b => [6 + e.toNat * 33554432 + d.toNat * 1048576 + a.toNat * 32768 + b.toNat * 1024]
  | .srl e d a b => [7 + e.toNat * 33554432 + d.toNat * 1048576 + a.toNat * 32768 + b.toNat * 1024]
  | .sra e d a b => [8 + e.toNat * 33554432 + d.toNat * 1048576 + a.toNat * 32768 + b.toNat * 1024]
  | .ror e d a b => [9 + e.toNat * 33554432 + d.toNat * 1048576 + a.toNat * 32768 + b.toNat * 1024]
  | .slt e d a b => [10 + e.toNat * 33554432 + d.toNat * 1048576 + a.toNat * 32768 + b.toNat * 1024]
  | .sltu e d a b => [11 + e.toNat * 33554432 + d.toNat * 1048576 + a.toNat * 32768 + b.toNat * 1024]
  | .min e d a b => [12 + e.toNat * 33554432 + d.toNat * 1048576 + a.toNat * 32768 + b.toNat * 1024]
  | .max e d a b => [13 + e.toNat * 33554432 + d.toNat * 1048576 + a.toNat * 32768 + b.toNat * 1024]
  | .minu e d a b => [14 + e.toNat * 33554432 + d.toNat * 1048576 + a.toNat * 32768 + b.toNat * 1024]
  | .maxu e d a b => [15 + e.toNat * 33554432 + d.toNat * 1048576 + a.toNat * 32768 + b.toNat * 1024]
  | .addw e d a b => [16 + e.toNat * 33554432 + d.toNat * 1048576 + a.toNat * 32768 + b.toNat * 1024]
  | .subw e d a b => [17 + e.toNat * 33554432 + d.toNat * 1048576 + a.toNat * 32768 + b.toNat * 1024]
  | .sllw e d a b => [18 + e.toNat * 33554432 + d.toNat * 1048576 + a.toNat * 32768 + b.toNat * 1024]
  | .srlw e d a b => [19 + e.toNat * 33554432 + d.toNat * 1048576 + a.toNat * 32768 + b.toNat * 1024]
  | .sraw e d a b => [20 + e.toNat * 33554432 + d.toNat * 1048576 + a.toNat * 32768 + b.toNat * 1024]
  | .clz e d a => [21 + e.toNat * 33554432 + d.toNat * 1048576 + a.toNat * 32768]
  | .ctz e d a => [22 + e.toNat * 33554432 + d.toNat * 1048576 + a.toNat * 32768]
  | .popc e d a => [23 + e.toNat * 33554432 + d.toNat * 1048576 + a.toNat * 32768]
  | .sextb e d a => [24 + e.toNat * 33554432 + d.toNat * 1048576 + a.toNat * 32768]
  | .sexth e d a => [25 + e.toNat * 33554432 + d.toNat * 1048576 + a.toNat * 32768]
  | .sextw e d a => [26 + e.toNat * 33554432 + d.toNat * 1048576 + a.toNat * 32768]
  | .zextw e d a => [27 + e.toNat * 33554432 + d.toNat * 1048576 + a.toNat * 32768]
  | .addi e d a i => [67108864 + e.toNat * 33554432 + d.toNat * 1048576 + a.toNat * 32768 + i.toNat * 8]
  | .andi e d a i => [67108865 + e.toNat * 33554432 + d.toNat * 1048576 + a.toNat * 32768 + i.toNat * 8]
  | .ori e d a i => [67108866 + e.toNat * 33554432 + d.toNat * 1048576 + a.toNat * 32768 + i.toNat * 8]
  | .xori e d a i => [67108867 + e.toNat * 33554432 + d.toNat * 1048576 + a.toNat * 32768 + i.toNat * 8]
  | .slli e d a i => [67108868 + e.toNat * 33554432 + d.toNat * 1048576 + a.toNat * 32768 + i.toNat * 8]
  | .srli e d a i => [67108869 + e.toNat * 33554432 + d.toNat * 1048576 + a.toNat * 32768 + i.toNat * 8]
  | .srai e d a i => [67108870 + e.toNat * 33554432 + d.toNat * 1048576 + a.toNat * 32768 + i.toNat * 8]
  | .slti e d a i => [67108871 + e.toNat * 33554432 + d.toNat * 1048576 + a.toNat * 32768 + i.toNat * 8]
  | .lih e d i => [134217728 + e.toNat * 33554432 + d.toNat * 1048576 + i.toNat]
  | .lipc e d i => [201326592 + e.toNat * 33554432 + d.toNat * 1048576 + i.toNat]
  | .ldb e d a i => [268435456 + e.toNat * 33554432 + d.toNat * 1048576 + a.toNat * 32768 + i.toNat * 8]
  | .ldh e d a i => [268435457 + e.toNat * 33554432 + d.toNat * 1048576 + a.toNat * 32768 + i.toNat * 8]
  | .ldw e d a i => [268435458 + e.toNat * 33554432 + d.toNat * 1048576 + a.toNat * 32768 + i.toNat * 8]
  | .ldd e d a i => [268435459 + e.toNat * 33554432 + d.toNat * 1048576 + a.toNat * 32768 + i.toNat * 8]
  | .ldbu e d a i => [268435460 + e.toNat * 33554432 + d.toNat * 1048576 + a.toNat * 32768 + i.toNat * 8]
  | .ldhu e d a i => [268435461 + e.toNat * 33554432 + d.toNat * 1048576 + a.toNat * 32768 + i.toNat * 8]
  | .ldwu e d a i => [268435462 + e.toNat * 33554432 + d.toNat * 1048576 + a.toNat * 32768 + i.toNat * 8]
  | .ldacq e d a sc o => [268435463 + e.toNat * 33554432 + d.toNat * 1048576 + a.toNat * 32768 + sc.toNat * 4096 + o.toNat * 8]
  | .stb e b a i => [335544320 + e.toNat * 33554432 + b.toNat * 1048576 + a.toNat * 32768 + i.toNat * 8]
  | .sth e b a i => [335544321 + e.toNat * 33554432 + b.toNat * 1048576 + a.toNat * 32768 + i.toNat * 8]
  | .stw e b a i => [335544322 + e.toNat * 33554432 + b.toNat * 1048576 + a.toNat * 32768 + i.toNat * 8]
  | .std e b a i => [335544323 + e.toNat * 33554432 + b.toNat * 1048576 + a.toNat * 32768 + i.toNat * 8]
  | .strel e b a sc o => [335544324 + e.toNat * 33554432 + b.toNat * 1048576 + a.toNat * 32768 + sc.toNat * 4096 + o.toNat * 8]
  | .aadd e d a b sc o w => [402653184 + e.toNat * 33554432 + d.toNat * 1048576 + a.toNat * 32768 + b.toNat * 1024 + sc.toNat * 8 + o.toNat * 2 + w.toNat]
  | .aand e d a b sc o w => [402653248 + e.toNat * 33554432 + d.toNat * 1048576 + a.toNat * 32768 + b.toNat * 1024 + sc.toNat * 8 + o.toNat * 2 + w.toNat]
  | .aor e d a b sc o w => [402653312 + e.toNat * 33554432 + d.toNat * 1048576 + a.toNat * 32768 + b.toNat * 1024 + sc.toNat * 8 + o.toNat * 2 + w.toNat]
  | .axor e d a b sc o w => [402653376 + e.toNat * 33554432 + d.toNat * 1048576 + a.toNat * 32768 + b.toNat * 1024 + sc.toNat * 8 + o.toNat * 2 + w.toNat]
  | .amin e d a b sc o w => [402653440 + e.toNat * 33554432 + d.toNat * 1048576 + a.toNat * 32768 + b.toNat * 1024 + sc.toNat * 8 + o.toNat * 2 + w.toNat]
  | .amax e d a b sc o w => [402653504 + e.toNat * 33554432 + d.toNat * 1048576 + a.toNat * 32768 + b.toNat * 1024 + sc.toNat * 8 + o.toNat * 2 + w.toNat]
  | .aminu e d a b sc o w => [402653568 + e.toNat * 33554432 + d.toNat * 1048576 + a.toNat * 32768 + b.toNat * 1024 + sc.toNat * 8 + o.toNat * 2 + w.toNat]
  | .amaxu e d a b sc o w => [402653632 + e.toNat * 33554432 + d.toNat * 1048576 + a.toNat * 32768 + b.toNat * 1024 + sc.toNat * 8 + o.toNat * 2 + w.toNat]
  | .aswap e d a b sc o w => [402653696 + e.toNat * 33554432 + d.toNat * 1048576 + a.toNat * 32768 + b.toNat * 1024 + sc.toNat * 8 + o.toNat * 2 + w.toNat]
  | .acas e d a b sc o w => [402653760 + e.toNat * 33554432 + d.toNat * 1048576 + a.toNat * 32768 + b.toNat * 1024 + sc.toNat * 8 + o.toNat * 2 + w.toNat]
  | .ptgt e n o => [469762048 + e.toNat * 33554432 + n.toNat * 2097152 + o.toNat]
  | .ptgtr e n a => [478150656 + e.toNat * 33554432 + n.toNat * 2097152 + a.toNat * 65536]
  | .br e n c sn => [486539264 + e.toNat * 33554432 + n.toNat * 2097152 + c.toNat * 262144 + sn.toNat * 131072]
  | .brl e n c sn => [494927872 + e.toNat * 33554432 + n.toNat * 2097152 + c.toNat * 262144 + sn.toNat * 131072]
  | .cmpeq e d a b => [536870912 + e.toNat * 33554432 + d.toNat * 1048576 + a.toNat * 32768 + b.toNat * 1024]
  | .cmpne e d a b => [536870913 + e.toNat * 33554432 + d.toNat * 1048576 + a.toNat * 32768 + b.toNat * 1024]
  | .cmplt e d a b => [536870914 + e.toNat * 33554432 + d.toNat * 1048576 + a.toNat * 32768 + b.toNat * 1024]
  | .cmpge e d a b => [536870915 + e.toNat * 33554432 + d.toNat * 1048576 + a.toNat * 32768 + b.toNat * 1024]
  | .cmpltu e d a b => [536870916 + e.toNat * 33554432 + d.toNat * 1048576 + a.toNat * 32768 + b.toNat * 1024]
  | .cmpgeu e d a b => [536870917 + e.toNat * 33554432 + d.toNat * 1048576 + a.toNat * 32768 + b.toNat * 1024]
  | .cand e d a b => [536870918 + e.toNat * 33554432 + d.toNat * 1048576 + a.toNat * 32768 + b.toNat * 1024]
  | .cor e d a b => [536870919 + e.toNat * 33554432 + d.toNat * 1048576 + a.toNat * 32768 + b.toNat * 1024]
  | .cxor e d a b => [536870920 + e.toNat * 33554432 + d.toNat * 1048576 + a.toNat * 32768 + b.toNat * 1024]
  | .cnot e d a => [536870921 + e.toNat * 33554432 + d.toNat * 1048576 + a.toNat * 32768]
  | .sel e d a b => [536870922 + e.toNat * 33554432 + d.toNat * 1048576 + a.toNat * 32768 + b.toNat * 1024]
  | .ctos e d a => [536870923 + e.toNat * 33554432 + d.toNat * 1048576 + a.toNat * 32768]
  | .loop e a st l => [603979776 + e.toNat * 33554432 + a.toNat * 32768 + st.toNat * 512 + l.toNat * 8]
  | .lbreak e c k => [603979777 + e.toNat * 33554432 + c.toNat * 32768 + k.toNat * 8]
  | .tstart e => [603979778 + e.toNat * 33554432]
  | .twait e a i => [603979779 + e.toNat * 33554432 + a.toNat * 32768 + i.toNat * 8]
  | .tread e d sl => [603979780 + e.toNat * 33554432 + d.toNat * 1048576 + sl.toNat * 8]
  | .srd e d r => [671088640 + e.toNat * 33554432 + d.toNat * 1048576 + r.toNat * 8]
  | .swr e a r => [671088641 + e.toNat * 33554432 + a.toNat * 32768 + r.toNat * 8]
  | .fence e sc k => [671088642 + e.toNat * 33554432 + sc.toNat * 4096 + k.toNat * 8]
  | .trap e i => [671088643 + e.toNat * 33554432 + i.toNat * 8]
  | .rft e => [671088644 + e.toNat * 33554432]
  | .exit e => [671088645 + e.toNat * 33554432]
  | .yield e => [671088646 + e.toNat * 33554432]
  | .waitev e v => [671088647 + e.toNat * 33554432 + v.toNat * 8]
  | .qflush e m => [738197504 + e.toNat * 33554432 + m.toNat * 8]
  | .qsync e m => [738197505 + e.toNat * 33554432 + m.toNat * 8]
  | .qmark e d q => [738197506 + e.toNat * 33554432 + d.toNat * 1048576 + q.toNat * 8]
  | .qdepth e d q => [738197507 + e.toNat * 33554432 + d.toNat * 1048576 + q.toNat * 8]
  | .rcfg e d a i => [805306368 + e.toNat * 33554432 + d.toNat * 1048576 + a.toNat * 32768 + i.toNat * 8]
  | .waitf e d n => [805306369 + e.toNat * 33554432 + d.toNat * 1048576 + n.toNat * 8]
  | .waite e d n => [805306370 + e.toNat * 33554432 + d.toNat * 1048576 + n.toNat * 8]
  | .rclaim e d n => [805306371 + e.toNat * 33554432 + d.toNat * 1048576 + n.toNat * 8]
  | .rpub e d n => [805306372 + e.toNat * 33554432 + d.toNat * 1048576 + n.toNat * 8]
  | .rpop e d n => [805306373 + e.toNat * 33554432 + d.toNat * 1048576 + n.toNat * 8]
  | .rstat e d m sl cl => [805306374 + e.toNat * 33554432 + d.toNat * 1048576 + m.toNat * 2048 + sl.toNat * 128 + cl.toNat * 8]
  | .finc e d a sc f => [872415232 + e.toNat * 33554432 + d.toNat * 1048576 + a.toNat * 32768 + sc.toNat * 4096 + f.toNat * 8]
  | .fwait e a sc f => [872415233 + e.toNat * 33554432 + a.toNat * 32768 + sc.toNat * 4096 + f.toNat * 8]
  | .fset e a sc f => [872415234 + e.toNat * 33554432 + a.toNat * 32768 + sc.toNat * 4096 + f.toNat * 8]
  | .fread e d sc f => [872415235 + e.toNat * 33554432 + d.toNat * 1048576 + sc.toNat * 4096 + f.toNat * 8]
  | .bar e a sc f => [872415236 + e.toNat * 33554432 + a.toNat * 32768 + sc.toNat * 4096 + f.toNat * 8]
  | .admode e m => [939524096 + e.toNat * 33554432 + m.toNat * 8]
  | .tapemk e d => [939524097 + e.toNat * 33554432 + d.toNat * 1048576]
  | .tapecut e a => [939524098 + e.toNat * 33554432 + a.toNat * 32768]
  | .launch e d a q => [1006632960 + e.toNat * 33554432 + d.toNat * 1048576 + a.toNat * 32768 + q.toNat * 8]
  | .ncommit e => [1006632961 + e.toNat * 33554432]
  | .mul e d a b => [1073741824 + e.toNat * 33554432 + d.toNat * 1048576 + a.toNat * 32768 + b.toNat * 1024]
  | .mulh e d a b => [1073741825 + e.toNat * 33554432 + d.toNat * 1048576 + a.toNat * 32768 + b.toNat * 1024]
  | .mulhu e d a b => [1073741826 + e.toNat * 33554432 + d.toNat * 1048576 + a.toNat * 32768 + b.toNat * 1024]
  | .div e d a b => [1073741827 + e.toNat * 33554432 + d.toNat * 1048576 + a.toNat * 32768 + b.toNat * 1024]
  | .divu e d a b => [1073741828 + e.toNat * 33554432 + d.toNat * 1048576 + a.toNat * 32768 + b.toNat * 1024]
  | .rem e d a b => [1073741829 + e.toNat * 33554432 + d.toNat * 1048576 + a.toNat * 32768 + b.toNat * 1024]
  | .remu e d a b => [1073741830 + e.toNat * 33554432 + d.toNat * 1048576 + a.toNat * 32768 + b.toNat * 1024]
  | .mulw e d a b => [1073741831 + e.toNat * 33554432 + d.toNat * 1048576 + a.toNat * 32768 + b.toNat * 1024]
  | .divw e d a b => [1073741832 + e.toNat * 33554432 + d.toNat * 1048576 + a.toNat * 32768 + b.toNat * 1024]
  | .fmt e a => [1140850688 + e.toNat * 33554432 + a.toNat * 32768]
  | .fmtclr e => [1140850689 + e.toNat * 33554432]
  | .mld e a sl => [1207959552 + e.toNat * 33554432 + a.toNat * 32768 + sl.toNat * 8]
  | .mbind e sl cd => [1207959553 + e.toNat * 33554432 + sl.toNat * 512 + cd.toNat * 8]
  | .munbind e cd => [1207959554 + e.toNat * 33554432 + cd.toNat * 8]
  | .mstat e d sl => [1207959555 + e.toNat * 33554432 + d.toNat * 1048576 + sl.toNat * 8]
  | .spmark e m => [1275068416 + e.toNat * 33554432 + m.toNat * 8]
  | .spaccept e a => [1275068417 + e.toNat * 33554432 + a.toNat * 32768]
  | .spdrop e => [1275068418 + e.toNat * 33554432]
  | .vadd h d a b ty => [3221225472 + h.e.toNat * 33554432 + d.toNat * 1048576 + a.toNat * 32768 + b.toNat * 1024 + ty.toNat, h.word1 (0)]
  | .vsub h d a b ty => [3221225488 + h.e.toNat * 33554432 + d.toNat * 1048576 + a.toNat * 32768 + b.toNat * 1024 + ty.toNat, h.word1 (0)]
  | .vmul h d a b ty => [3221225504 + h.e.toNat * 33554432 + d.toNat * 1048576 + a.toNat * 32768 + b.toNat * 1024 + ty.toNat, h.word1 (0)]
  | .vmulh h d a b ty => [3221225520 + h.e.toNat * 33554432 + d.toNat * 1048576 + a.toNat * 32768 + b.toNat * 1024 + ty.toNat, h.word1 (0)]
  | .vmin h d a b ty => [3221225536 + h.e.toNat * 33554432 + d.toNat * 1048576 + a.toNat * 32768 + b.toNat * 1024 + ty.toNat, h.word1 (0)]
  | .vmax h d a b ty => [3221225552 + h.e.toNat * 33554432 + d.toNat * 1048576 + a.toNat * 32768 + b.toNat * 1024 + ty.toNat, h.word1 (0)]
  | .vabs h d a ty => [3221225568 + h.e.toNat * 33554432 + d.toNat * 1048576 + a.toNat * 32768 + ty.toNat, h.word1 (0)]
  | .vneg h d a ty => [3221225584 + h.e.toNat * 33554432 + d.toNat * 1048576 + a.toNat * 32768 + ty.toNat, h.word1 (0)]
  | .vadds h d a b ty => [3221225600 + h.e.toNat * 33554432 + d.toNat * 1048576 + a.toNat * 32768 + b.toNat * 1024 + ty.toNat, h.word1 (0)]
  | .vsubs h d a b ty => [3221225616 + h.e.toNat * 33554432 + d.toNat * 1048576 + a.toNat * 32768 + b.toNat * 1024 + ty.toNat, h.word1 (0)]
  | .vavg h d a b ty => [3221225632 + h.e.toNat * 33554432 + d.toNat * 1048576 + a.toNat * 32768 + b.toNat * 1024 + ty.toNat, h.word1 (0)]
  | .vmad h d a b ty => [3221225648 + h.e.toNat * 33554432 + d.toNat * 1048576 + a.toNat * 32768 + b.toNat * 1024 + ty.toNat, h.word1 (0)]
  | .vdot4 h d a b ty => [3221225664 + h.e.toNat * 33554432 + d.toNat * 1048576 + a.toNat * 32768 + b.toNat * 1024 + ty.toNat, h.word1 (0)]
  | .vfadd h d a b ty rm => [3288334336 + h.e.toNat * 33554432 + d.toNat * 1048576 + a.toNat * 32768 + b.toNat * 1024 + ty.toNat, h.word1 (rm.toNat)]
  | .vfsub h d a b ty rm => [3288334352 + h.e.toNat * 33554432 + d.toNat * 1048576 + a.toNat * 32768 + b.toNat * 1024 + ty.toNat, h.word1 (rm.toNat)]
  | .vfmul h d a b ty rm => [3288334368 + h.e.toNat * 33554432 + d.toNat * 1048576 + a.toNat * 32768 + b.toNat * 1024 + ty.toNat, h.word1 (rm.toNat)]
  | .vfma h d a b ty rm => [3288334384 + h.e.toNat * 33554432 + d.toNat * 1048576 + a.toNat * 32768 + b.toNat * 1024 + ty.toNat, h.word1 (rm.toNat)]
  | .vfmin h d a b ty => [3288334400 + h.e.toNat * 33554432 + d.toNat * 1048576 + a.toNat * 32768 + b.toNat * 1024 + ty.toNat, h.word1 (0)]
  | .vfmax h d a b ty => [3288334416 + h.e.toNat * 33554432 + d.toNat * 1048576 + a.toNat * 32768 + b.toNat * 1024 + ty.toNat, h.word1 (0)]
  | .vfabs h d a ty => [3288334432 + h.e.toNat * 33554432 + d.toNat * 1048576 + a.toNat * 32768 + ty.toNat, h.word1 (0)]
  | .vfneg h d a ty => [3288334448 + h.e.toNat * 33554432 + d.toNat * 1048576 + a.toNat * 32768 + ty.toNat, h.word1 (0)]
  | .vfscl h d a b ty rm => [3288334464 + h.e.toNat * 33554432 + d.toNat * 1048576 + a.toNat * 32768 + b.toNat * 1024 + ty.toNat, h.word1 (rm.toNat)]
  | .vfclass h d a ty => [3288334480 + h.e.toNat * 33554432 + d.toNat * 1048576 + a.toNat * 32768 + ty.toNat, h.word1 (0)]
  | .vcvt h d a ts ty hp rm => [3355443200 + h.e.toNat * 33554432 + d.toNat * 1048576 + a.toNat * 32768 + ts.toNat * 1024 + ty.toNat, h.word1 (hp.toNat * 8 + rm.toNat)]
  | .vpack h d a b ty => [3355443216 + h.e.toNat * 33554432 + d.toNat * 1048576 + a.toNat * 32768 + b.toNat * 1024 + ty.toNat, h.word1 (0)]
  | .vunpk h d a ty hp => [3355443232 + h.e.toNat * 33554432 + d.toNat * 1048576 + a.toNat * 32768 + ty.toNat, h.word1 (hp.toNat)]
  | .vqnt h d a b ty rm => [3355443248 + h.e.toNat * 33554432 + d.toNat * 1048576 + a.toNat * 32768 + b.toNat * 1024 + ty.toNat, h.word1 (rm.toNat)]
  | .vdqnt h d a b ty => [3355443264 + h.e.toNat * 33554432 + d.toNat * 1048576 + a.toNat * 32768 + b.toNat * 1024 + ty.toNat, h.word1 (0)]
  | .vand h d a b ty => [3422552064 + h.e.toNat * 33554432 + d.toNat * 1048576 + a.toNat * 32768 + b.toNat * 1024 + ty.toNat, h.word1 (0)]
  | .vor h d a b ty => [3422552080 + h.e.toNat * 33554432 + d.toNat * 1048576 + a.toNat * 32768 + b.toNat * 1024 + ty.toNat, h.word1 (0)]
  | .vxor h d a b ty => [3422552096 + h.e.toNat * 33554432 + d.toNat * 1048576 + a.toNat * 32768 + b.toNat * 1024 + ty.toNat, h.word1 (0)]
  | .vlop3 h d a b th tl => [3422552112 + h.e.toNat * 33554432 + d.toNat * 1048576 + a.toNat * 32768 + b.toNat * 1024 + th.toNat, h.word1 (tl.toNat)]
  | .vshl h d a b ty => [3422552128 + h.e.toNat * 33554432 + d.toNat * 1048576 + a.toNat * 32768 + b.toNat * 1024 + ty.toNat, h.word1 (0)]
  | .vshr h d a b ty => [3422552144 + h.e.toNat * 33554432 + d.toNat * 1048576 + a.toNat * 32768 + b.toNat * 1024 + ty.toNat, h.word1 (0)]
  | .vsra h d a b ty => [3422552160 + h.e.toNat * 33554432 + d.toNat * 1048576 + a.toNat * 32768 + b.toNat * 1024 + ty.toNat, h.word1 (0)]
  | .vrot h d a b ty => [3422552176 + h.e.toNat * 33554432 + d.toNat * 1048576 + a.toNat * 32768 + b.toNat * 1024 + ty.toNat, h.word1 (0)]
  | .vfunl h d a b ty n => [3422552192 + h.e.toNat * 33554432 + d.toNat * 1048576 + a.toNat * 32768 + b.toNat * 1024 + ty.toNat, h.word1 (n.toNat)]
  | .vfunr h d a b ty n => [3422552208 + h.e.toNat * 33554432 + d.toNat * 1048576 + a.toNat * 32768 + b.toNat * 1024 + ty.toNat, h.word1 (n.toNat)]
  | .vpopc h d a ty => [3422552224 + h.e.toNat * 33554432 + d.toNat * 1048576 + a.toNat * 32768 + ty.toNat, h.word1 (0)]
  | .vclz h d a ty => [3422552240 + h.e.toNat * 33554432 + d.toNat * 1048576 + a.toNat * 32768 + ty.toNat, h.word1 (0)]
  | .vcmp h d a b ty op => [3489660928 + h.e.toNat * 33554432 + d.toNat * 1048576 + a.toNat * 32768 + b.toNat * 1024 + ty.toNat, h.word1 (op.toNat)]
  | .vfcmp h d a b ty op => [3489660944 + h.e.toNat * 33554432 + d.toNat * 1048576 + a.toNat * 32768 + b.toNat * 1024 + ty.toNat, h.word1 (op.toNat)]
  | .vsel h d a b ty => [3489660960 + h.e.toNat * 33554432 + d.toNat * 1048576 + a.toNat * 32768 + b.toNat * 1024 + ty.toNat, h.word1 (0)]
  | .vplog h d a b op => [3489660976 + h.e.toNat * 33554432 + d.toNat * 1048576 + a.toNat * 32768 + b.toNat * 1024, h.word1 (op.toNat)]
  | .vvote h d a ty al => [3489660992 + h.e.toNat * 33554432 + d.toNat * 1048576 + a.toNat * 32768 + ty.toNat, h.word1 (al.toNat)]
  | .vpcnt h d a ty => [3489661008 + h.e.toNat * 33554432 + d.toNat * 1048576 + a.toNat * 32768 + ty.toNat, h.word1 (0)]
  | .vperm h d a b ty => [3556769792 + h.e.toNat * 33554432 + d.toNat * 1048576 + a.toNat * 32768 + b.toNat * 1024 + ty.toNat, h.word1 (0)]
  | .vbcast h d a ty => [3556769808 + h.e.toNat * 33554432 + d.toNat * 1048576 + a.toNat * 32768 + ty.toNat, h.word1 (0)]
  | .vlane h d a b ty => [3556769824 + h.e.toNat * 33554432 + d.toNat * 1048576 + a.toNat * 32768 + b.toNat * 1024 + ty.toNat, h.word1 (0)]
  | .vshuf h d a b ty op => [3556769840 + h.e.toNat * 33554432 + d.toNat * 1048576 + a.toNat * 32768 + b.toNat * 1024 + ty.toNat, h.word1 (op.toNat)]
  | .vred h d a ty op => [3556769856 + h.e.toNat * 33554432 + d.toNat * 1048576 + a.toNat * 32768 + ty.toNat, h.word1 (op.toNat)]
  | .vscan h d a ty op => [3556769872 + h.e.toNat * 33554432 + d.toNat * 1048576 + a.toNat * 32768 + ty.toNat, h.word1 (op.toNat)]
  | .vidx h d a ty => [3556769888 + h.e.toNat * 33554432 + d.toNat * 1048576 + a.toNat * 32768 + ty.toNat, h.word1 (0)]
  | .vcell h d ty sl => [3556769904 + h.e.toNat * 33554432 + d.toNat * 1048576 + ty.toNat, h.word1 (sl.toNat)]
  | .vld h d a i => [3623878656 + h.e.toNat * 33554432 + d.toNat * 1048576 + a.toNat * 32768 + i.toNat, h.word1 (0)]
  | .vst h d a i => [3623882752 + h.e.toNat * 33554432 + d.toNat * 1048576 + a.toNat * 32768 + i.toNat, h.word1 (0)]
  | .vlds h d a i k => [3623886848 + h.e.toNat * 33554432 + d.toNat * 1048576 + a.toNat * 32768 + i.toNat, h.word1 (k.toNat)]
  | .vsts h d a i k => [3623890944 + h.e.toNat * 33554432 + d.toNat * 1048576 + a.toNat * 32768 + i.toNat, h.word1 (k.toNat)]
  | .vldx h d a i k => [3623895040 + h.e.toNat * 33554432 + d.toNat * 1048576 + a.toNat * 32768 + i.toNat, h.word1 (k.toNat)]
  | .vstx h d a i k => [3623899136 + h.e.toNat * 33554432 + d.toNat * 1048576 + a.toNat * 32768 + i.toNat, h.word1 (k.toNat)]
  | .vldr h d m ll i lh => [3623903232 + h.e.toNat * 33554432 + d.toNat * 1048576 + m.toNat * 32768 + ll.toNat * 256 + i.toNat, h.word1 (lh.toNat)]
  | .vstr h d m ll lh => [3623907328 + h.e.toNat * 33554432 + d.toNat * 1048576 + m.toNat * 32768 + ll.toNat * 256, h.word1 (lh.toNat)]
  | .vaadd h d a b ty => [3690987520 + h.e.toNat * 33554432 + d.toNat * 1048576 + a.toNat * 32768 + b.toNat * 1024 + ty.toNat, h.word1 (0)]
  | .vafadd h d a b ty => [3690987536 + h.e.toNat * 33554432 + d.toNat * 1048576 + a.toNat * 32768 + b.toNat * 1024 + ty.toNat, h.word1 (0)]
  | .vamin h d a b ty => [3690987552 + h.e.toNat * 33554432 + d.toNat * 1048576 + a.toNat * 32768 + b.toNat * 1024 + ty.toNat, h.word1 (0)]
  | .vamax h d a b ty => [3690987568 + h.e.toNat * 33554432 + d.toNat * 1048576 + a.toNat * 32768 + b.toNat * 1024 + ty.toNat, h.word1 (0)]
  | .vaswap h d a b ty => [3690987584 + h.e.toNat * 33554432 + d.toNat * 1048576 + a.toNat * 32768 + b.toNat * 1024 + ty.toNat, h.word1 (0)]
  | .vexp2 h d a ty => [3758096384 + h.e.toNat * 33554432 + d.toNat * 1048576 + a.toNat * 32768 + ty.toNat, h.word1 (0)]
  | .vlog2 h d a ty => [3758096400 + h.e.toNat * 33554432 + d.toNat * 1048576 + a.toNat * 32768 + ty.toNat, h.word1 (0)]
  | .vrcp h d a ty => [3758096416 + h.e.toNat * 33554432 + d.toNat * 1048576 + a.toNat * 32768 + ty.toNat, h.word1 (0)]
  | .vrsq h d a ty => [3758096432 + h.e.toNat * 33554432 + d.toNat * 1048576 + a.toNat * 32768 + ty.toNat, h.word1 (0)]
  | .vtanh h d a ty => [3758096448 + h.e.toNat * 33554432 + d.toNat * 1048576 + a.toNat * 32768 + ty.toNat, h.word1 (0)]
  | .vdiv h d a b ty rm => [3758096464 + h.e.toNat * 33554432 + d.toNat * 1048576 + a.toNat * 32768 + b.toNat * 1024 + ty.toNat, h.word1 (rm.toNat)]
  | .vrnd h d a b ty w => [3758096480 + h.e.toNat * 33554432 + d.toNat * 1048576 + a.toNat * 32768 + b.toNat * 1024 + ty.toNat, h.word1 (w.toNat)]
  | .vgumb h d a b ty => [3758096496 + h.e.toNat * 33554432 + d.toNat * 1048576 + a.toNat * 32768 + b.toNat * 1024 + ty.toNat, h.word1 (0)]
  | .vsamp h d a b ty => [3758096512 + h.e.toNat * 33554432 + d.toNat * 1048576 + a.toNat * 32768 + b.toNat * 1024 + ty.toNat, h.word1 (0)]
  | .mot h cd d a b ep x y => [3825205248 + h.e.toNat * 33554432 + cd.toNat * 524288 + d.toNat * 16384 + a.toNat * 512 + b.toNat * 16 + ep.toNat * 8, h.word1 x (y.toNat)]
  | .vshift h dr d a eg tg => [3892314112 + h.e.toNat * 33554432 + dr.toNat * 1048576 + d.toNat * 32768 + a.toNat * 1024 + eg.toNat * 256 + tg.toNat, h.word1 (0)]
  | .vxsend h d a tg => [3896508416 + h.e.toNat * 33554432 + d.toNat * 32768 + a.toNat * 1024 + tg.toNat, h.word1 (0)]
  | .vxrecv h dr d tg => [3900702720 + h.e.toNat * 33554432 + dr.toNat * 1048576 + d.toNat * 32768 + tg.toNat, h.word1 (0)]
  | .vbord h dr d tg => [3904897024 + h.e.toNat * 33554432 + dr.toNat * 1048576 + d.toNat * 32768 + tg.toNat, h.word1 (0)]
  | .vjoin h dr d a => [3909091328 + h.e.toNat * 33554432 + dr.toNat * 1048576 + d.toNat * 32768 + a.toNat * 1024, h.word1 (0)]
  | .mma h t ra rb n m tr z pa pb => [3959422976 + h.e.toNat * 33554432 + t.toNat * 65536 + ra.toNat * 8192 + rb.toNat * 1024 + n.toNat * 16 + m.toNat * 4 + tr.toNat * 2 + z.toNat, h.word1 (pa.toNat + pb.toNat * 2)]
  | .mmaq h t ra rb n m tr z pa pb pz => [3963617280 + h.e.toNat * 33554432 + t.toNat * 65536 + ra.toNat * 8192 + rb.toNat * 1024 + n.toNat * 16 + m.toNat * 4 + tr.toNat * 2 + z.toNat, h.word1 (pa.toNat + pb.toNat * 2 + pz.toNat * 4)]
  | .mmab h t ra rb n m tr z pa pb pz => [3967811584 + h.e.toNat * 33554432 + t.toNat * 65536 + ra.toNat * 8192 + rb.toNat * 1024 + n.toNat * 16 + m.toNat * 4 + tr.toNat * 2 + z.toNat, h.word1 (pa.toNat + pb.toNat * 2 + pz.toNat * 4)]
  | .mzero h t n => [3972005888 + h.e.toNat * 33554432 + t.toNat * 65536 + n.toNat * 16, h.word1 (0)]
  | .mtov h t d l ty => [3976200192 + h.e.toNat * 33554432 + t.toNat * 65536 + d.toNat * 1024 + l.toNat * 16, h.word1 (ty.toNat)]
  | .mtot h t ra n m tr z => [3980394496 + h.e.toNat * 33554432 + t.toNat * 65536 + ra.toNat * 8192 + n.toNat * 16 + m.toNat * 4 + tr.toNat * 2 + z.toNat, h.word1 (0)]
  | .cfill h a qc ax => [4026531840 + h.e.toNat * 33554432 + a.toNat * 32768 + qc.toNat * 4096, h.word1 (ax.toNat)]
  | .cdrain h a qc ax => [4030726144 + h.e.toNat * 33554432 + a.toNat * 32768 + qc.toNat * 4096, h.word1 (ax.toNat)]
  | .cpair h a qc ax => [4034920448 + h.e.toNat * 33554432 + a.toNat * 32768 + qc.toNat * 4096, h.word1 (ax.toNat)]
  | .cgath h a qc ax => [4039114752 + h.e.toNat * 33554432 + a.toNat * 32768 + qc.toNat * 4096, h.word1 (ax.toNat)]
  | .ccopy h a qc ax => [4043309056 + h.e.toNat * 33554432 + a.toNat * 32768 + qc.toNat * 4096, h.word1 (ax.toNat)]
  | .cred h a qc ax => [4047503360 + h.e.toNat * 33554432 + a.toNat * 32768 + qc.toNat * 4096, h.word1 (ax.toNat)]
  | .queueEntryStart _ _ => []
  | .resultWriteback _ => []
  | .holdTimeout _ => []
  | .scalarDataReturn _ _ => []
  | .loopPass _ => []
  | .waitComplete _ => []
  | .ringFill _ _ _ => []
  | .expressArrival _ _ => []
  | .borderLanding _ => []
  | .columnJobStart _ _ => []
  | .columnChunk _ _ => []
  | .columnJobRetire _ _ => []
  | .columnJobFault _ _ => []
  | .refreshSweep _ => []
  | .forcedRefresh _ => []
  | .forcedRefreshEnd _ => []
  | .handlerFirstPacket _ => []
  | .graceWindowExpiry _ => []
  | .drainComplete _ => []
  | .gangSave _ => []
  | .contextFinish _ => []
  | .motifLoadEnd _ => []
  | .hostRegisterWrite _ _ _ => []
  | .kick _ _ => []
  | .deviceEnable => []
  | .deviceDisable => []
  | .packageReset => []
  | .queueEnable _ _ => []
  | .queueDisable _ _ => []
  | .qstatClear _ _ => []
  | .spancfgApply _ => []
  | .spanTableApplied => []
  | .queueHeaderRead _ => []
  | .launchPacket _ _ => []
  | .loadPacket _ _ => []
  | .unloadPacket _ _ => []
  | .barrierPacket _ _ => []
  | .copyPacket _ _ => []
  | .signalPacket _ _ => []
  | .waitvalPacket _ _ => []
  | .waitvalPoll _ _ => []
  | .waitvalTimeout _ _ => []
  | .bar2Read _ _ => []
  | .bar2Write _ _ => []
  | .bar2Atomic _ _ _ _ _ => []
  | .spanFlitReceive _ _ => []
  | .remoteFincArrival _ _ _ => []
  | .spanWriteArrival _ _ => []
  | .spanLinkDown _ => []
  | .matcherEligible _ => []
  | .dispatchStart _ => []
  | .dispatchRestore _ => []
  | .dispatchPreempt _ => []
  | .dispatchForce _ => []
  | .dispatchAbort _ => []
  | .bindComplete _ => []
  | .powerCheck => []
  | .supplyCutEnd _ => []
  | .pageWalk _ _ => []
  | .noticeReply _ => []
  | .faultlimExpiry _ => []
  | .tlbInvalidation => []
  | .thermalSample => []
  | .operatorRequest => []
  | .panelScreen _ => []
  | .captureControlPoll => []
  | .attest => []
  | .stage => []
  | .identity => []
  | .clearalt => []
  | .boot => []
  | .bootWatchdog => []
  | .unassignedEncoding _ _ _ => []
  | .writeAppliedToView _ _ => []
  | .spanLinkTrained _ => []
  | .spanLinkLost _ => []
  | .mailboxBadop => []
  | .doorbellInvalidOp _ => []

/-- The bytes of a list of words, each least significant byte first (R128). -/
def bytesOfWords : List Nat -> List Byte
  | [] => []
  | w :: ws => byteOf w 0 :: byteOf w 1 :: byteOf w 2 :: byteOf w 3 :: bytesOfWords ws

/-- The bytes of an instruction as memory holds them. -/
def encodeBytes (i : Instr) : List Byte := bytesOfWords (encode i)

/-- The two words of an instruction as TVAL reports them: word0 low, word1 (or 0) high (R138). -/
def Instr.tvalWords (i : Instr) : BitVec 64 :=
  match encode i with
  | [w0] => BitVec.ofNat 64 w0
  | w0 :: w1 :: _ => BitVec.ofNat 64 (w0 + w1 * 4294967296)
  | [] => 0#64

/-- The start field of a command; 0xFFFF, ready, where there is none (R35). -/
def Instr.startField (i : Instr) : Nat := match encode i with | [_, w1] => w1 / 65536 | _ => 0xFFFF

/-- The c field of a command's word1 (R131). -/
def Instr.condField (i : Instr) : BitVec 5 := match encode i with | [_, w1] => field w1 5 5 | _ => 0#5

end Sys2Proof
end

