-- ==== Sys2Proof/Machine/Arith.lean ====
section
/-!
DEFINITION. Number formats, rounding and exact arithmetic (R94 to R106, R115, R116, R118).

An element of a register is a natural number, its bits. It is decoded into an exact value, computed on exactly, and
rounded once at the end. Sums and products are exact natural numbers times a power of two; quotients, roots and the
transcendentals are truncated far beyond the result's precision with a mark that says whether anything was cut off.
-/

namespace Sys2Proof.Machine

/-- The sticky flags a result sets (R64, R104). -/
structure Flags where
  nv : Bool := false
  ovf : Bool := false
  sat : Bool := false
  clash : Bool := false
  deriving DecidableEq, Repr

/-- No flag. -/
def Flags.zero : Flags := ⟨false, false, false, false⟩
/-- NV alone. -/
def Flags.ofNv : Flags := ⟨true, false, false, false⟩
/-- OVF_F alone. -/
def Flags.ofOvf : Flags := ⟨false, true, false, false⟩
/-- SAT_N alone. -/
def Flags.ofSat : Flags := ⟨false, false, true, false⟩
/-- RMWCLASH alone. -/
def Flags.ofClash : Flags := ⟨false, false, false, true⟩
/-- A flag is set when any part sets it. -/
def Flags.or (x y : Flags) : Flags := ⟨x.nv || y.nv, x.ovf || y.ovf, x.sat || y.sat, x.clash || y.clash⟩

/-- The element formats (R94). -/
inductive Ty where
  | i8 | u8 | i16 | u16 | i32 | u32 | f16 | bf16 | f32 | e4m3 | e5m2 | e2m1 | i4 | u4
  deriving DecidableEq, Repr

/-- The format a type code names; 14 and 15 name none (R94). -/
def Ty.ofCode (c : BitVec 4) : Option Ty :=
  match c.toNat with
  | 0 => some .i8 | 1 => some .u8 | 2 => some .i16 | 3 => some .u16 | 4 => some .i32 | 5 => some .u32
  | 6 => some .f16 | 7 => some .bf16 | 8 => some .f32 | 9 => some .e4m3 | 10 => some .e5m2 | 11 => some .e2m1
  | 12 => some .i4 | 13 => some .u4 | _ => none

/-- The width of an element in bits (R94). -/
def Ty.width : Ty → Nat
  | .i8 | .u8 | .e4m3 | .e5m2 => 8
  | .i16 | .u16 | .f16 | .bf16 => 16
  | .i32 | .u32 | .f32 => 32
  | .e2m1 | .i4 | .u4 => 4

/-- Elements per register (R19). -/
def Ty.count (t : Ty) : Nat := 512 / t.width

/-- Two's complement formats. -/
def Ty.signed : Ty → Bool
  | .i8 | .i16 | .i32 | .i4 => true
  | _ => false

/-- Integer formats. -/
def Ty.isInt : Ty → Bool
  | .i8 | .u8 | .i16 | .u16 | .i32 | .u32 | .i4 | .u4 => true
  | _ => false

/-- The byte of a register that holds element i's lowest bits (R20, R171). -/
def Ty.byteOf (t : Ty) (i : Nat) : Nat := i * t.width / 8

/-- The least integer of a format. -/
def Ty.minInt (t : Ty) : Int := if t.signed then -(2 ^ (t.width - 1) : Int) else 0
/-- The greatest integer of a format. -/
def Ty.maxInt (t : Ty) : Int := if t.signed then (2 ^ (t.width - 1) : Int) - 1 else (2 ^ t.width : Int) - 1

/-- The integer whose w-bit two's complement or plain form is x. -/
def intOf (signed : Bool) (w x : Nat) : Int :=
  let v := x % 2 ^ w
  if signed && decide (2 ^ (w - 1) ≤ v) then (v : Int) - (2 ^ w : Nat) else (v : Int)

/-- The low w bits of an integer. -/
def natOf (w : Nat) (x : Int) : Nat := (x % ((2 ^ w : Nat) : Int)).toNat

/-- The element of a format as an integer. -/
def Ty.int (t : Ty) (x : Nat) : Int := intOf t.signed t.width x

/-- An integer clamped to a format, SAT_N when it is clamped (R104). -/
def Ty.clamp (t : Ty) (x : Int) : Nat × Flags :=
  if x < t.minInt then (natOf t.width t.minInt, .ofSat)
  else if t.maxInt < x then (natOf t.width t.maxInt, .ofSat)
  else (natOf t.width x, .zero)

/-- How a float format treats the top exponent (R95). -/
inductive FKind where
  /-- infinities and NaNs at the top exponent -/
  | ieee
  /-- E4M3: one NaN, no infinity -/
  | e4m3
  /-- E2M1: neither -/
  | e2m1
  deriving DecidableEq, Repr

/-- The shape of a float format (R95). -/
structure Fmt where
  kind : FKind
  ebits : Nat
  mbits : Nat
  bias : Nat
  deriving DecidableEq, Repr

/-- binary32. -/
def Fmt.f32 : Fmt := ⟨.ieee, 8, 23, 127⟩
/-- binary16. -/
def Fmt.f16 : Fmt := ⟨.ieee, 5, 10, 15⟩

/-- The shape of a float element format. -/
def Ty.fmt : Ty → Fmt
  | .f16 => .f16
  | .bf16 => ⟨.ieee, 8, 7, 127⟩
  | .e4m3 => ⟨.e4m3, 4, 3, 7⟩
  | .e5m2 => ⟨.ieee, 5, 2, 15⟩
  | .e2m1 => ⟨.e2m1, 2, 1, 1⟩
  | _ => .f32

/-- Bits of a format without its sign. -/
def Fmt.signBit (f : Fmt) : Nat := 2 ^ (f.ebits + f.mbits)
/-- The canonical NaN (R96); E2M1 has none and takes 0 (R106). -/
def Fmt.nan (f : Fmt) : Nat :=
  match f.kind with
  | .ieee => (2 ^ f.ebits - 1) * 2 ^ f.mbits + 2 ^ (f.mbits - 1)
  | .e4m3 => 0x7F
  | .e2m1 => 0
/-- The encoding of the largest finite magnitude (R95). -/
def Fmt.maxFinite (f : Fmt) : Nat :=
  match f.kind with
  | .ieee => (2 ^ f.ebits - 1) * 2 ^ f.mbits - 1
  | .e4m3 => 0x7E
  | .e2m1 => 7
/-- The encoding of infinity, in formats that have one. -/
def Fmt.infinity (f : Fmt) : Nat := (2 ^ f.ebits - 1) * 2 ^ f.mbits
/-- The sign applied to an encoding. -/
def Fmt.withSign (f : Fmt) (neg : Bool) (x : Nat) : Nat := if neg then f.signBit + x else x

/-- An exact value: NaN, an infinity, or (-1)^neg m 2^e, with both signs of zero. -/
inductive Val where
  | nan
  | inf (neg : Bool)
  | fin (neg : Bool) (m : Nat) (e : Int)
  deriving DecidableEq, Repr

/-- The value of a float encoding; with FTZ a subnormal is read as a zero of its sign, but not in E2M1 (R95, R103). -/
def Fmt.val (f : Fmt) (ftz : Bool) (x : Nat) : Val :=
  let m := x % 2 ^ f.mbits
  let ex := x / 2 ^ f.mbits % 2 ^ f.ebits
  let neg := x / f.signBit % 2 == 1
  let top := 2 ^ f.ebits - 1
  match f.kind with
  | .ieee =>
    if ex = top then (if m = 0 then .inf neg else .nan)
    else if ex = 0 then (if ftz then .fin neg 0 0 else .fin neg m (1 - f.bias - f.mbits))
    else .fin neg (2 ^ f.mbits + m) ((ex : Int) - f.bias - f.mbits)
  | .e4m3 =>
    if ex = top ∧ m = 7 then .nan
    else if ex = 0 then (if ftz then .fin neg 0 0 else .fin neg m (1 - f.bias - f.mbits))
    else .fin neg (2 ^ f.mbits + m) ((ex : Int) - f.bias - f.mbits)
  | .e2m1 =>
    if ex = 0 then .fin neg m (1 - f.bias - f.mbits)
    else .fin neg (2 ^ f.mbits + m) ((ex : Int) - f.bias - f.mbits)

/-- An integer as a value; zero is +0. -/
def Val.ofInt (x : Int) : Val := .fin (decide (x < 0)) x.natAbs 0

/-- The value of an element of any format. -/
def Ty.val (t : Ty) (ftz : Bool) (x : Nat) : Val :=
  if t.isInt then .ofInt (t.int x) else t.fmt.val ftz x

/-- The rounding modes (R99, R101). -/
inductive RMode where
  | rne | rtz | rdn | rup | sr
  deriving DecidableEq, Repr

/-- The mode a rounding code names; 5 to 7 name none here (R101). -/
def RMode.ofCode (c : BitVec 3) : Option RMode :=
  match c.toNat with
  | 0 => some .rne | 1 => some .rtz | 2 => some .rdn | 3 => some .rup | 4 => some .sr | _ => none

/-- x 2^k for an integer k, exact for k at least 0 and truncated below. -/
def shiftInt (x : Nat) (k : Int) : Nat :=
  match k with
  | .ofNat n => x <<< n
  | .negSucc n => x >>> (n + 1)

/-- Round the magnitude m 2^e to a multiple of 2^q: the multiple, and whether it was rounded away from zero (R99,
R102). cut says that the magnitude exceeds m 2^e by less than one unit of m; u24 is bits [31:8] of SR's draw, whose
uniform is (u24 + 0.5) 2^-24 (R117). -/
def roundAt (mode : RMode) (u24 : Nat) (neg : Bool) (m : Nat) (e q : Int) (cut : Bool) : Nat × Bool :=
  if q ≤ e then (m <<< (e - q).toNat, false)
  else
    let n := (q - e).toNat
    let k := m >>> n
    let r := m - (k <<< n)
    if r = 0 ∧ cut = false then (k, false)
    else
      let up : Bool :=
        match mode with
        | .rne => decide ((1 <<< n) < 2 * r) || (decide (2 * r = 1 <<< n) && (cut || decide (k % 2 = 1)))
        | .rtz => false
        | .rdn => neg
        | .rup => !neg
        | .sr => decide ((2 * u24 + 1) <<< n < r <<< 25) || (cut && decide ((2 * u24 + 1) <<< n = r <<< 25))
      (if up then k + 1 else k, up)

/-- Round a nonzero or zero magnitude to a float format (R99, R103, R106 for formats without infinities).
(Log entry 54: DEDUCED.) -/
def Fmt.round (f : Fmt) (mode : RMode) (u24 : Nat) (ftz : Bool) (neg : Bool) (m : Nat) (e : Int) (cut : Bool) :
    Nat × Flags :=
  if m = 0 then (f.withSign neg 0, .zero)
  else
    let emin : Int := 1 - f.bias - f.mbits
    let q0 : Int := max ((Nat.log2 m : Int) + e - f.mbits) emin
    let r := roundAt mode u24 neg m e q0 cut
    let k := if r.1 = 2 ^ (f.mbits + 1) then 2 ^ f.mbits else r.1
    let q := if r.1 = 2 ^ (f.mbits + 1) then q0 + 1 else q0
    let code : Nat :=                                  -- the encoding the pair (k, q) would have
      if k < 2 ^ f.mbits then k
      else (q + f.bias + f.mbits).toNat * 2 ^ f.mbits + (k - 2 ^ f.mbits)
    if f.maxFinite < code then
      match f.kind with
      | .ieee =>
        let away : Bool :=
          match mode with
          | .rne => true
          | .rtz => false
          | .rdn => neg
          | .rup => !neg
          | .sr =>                                    -- the neighbours are max and max + ulp(max)
            let qm : Int := ((2 ^ f.ebits - 2 : Nat) : Int) - f.bias - f.mbits
            decide (2 ^ (f.mbits + 1) ≤ (roundAt .sr u24 neg m e qm cut).1)
        if away then (f.withSign neg f.infinity, .ofOvf) else (f.withSign neg f.maxFinite, .zero)
      | _ => (f.withSign neg f.maxFinite, .ofSat)
    else if k < 2 ^ f.mbits ∧ ftz = true ∧ f.kind ≠ .e2m1 then (f.withSign neg 0, .zero)
    else (f.withSign neg code, .zero)

/-- The encoding of an exact value in a float format (R106). -/
def Fmt.ofVal (f : Fmt) (mode : RMode) (u24 : Nat) (ftz : Bool) (v : Val) : Nat × Flags :=
  match v with
  | .nan => (f.nan, if f.kind = .e2m1 then .ofNv else .zero)
  | .inf neg =>
    if f.kind = .ieee then (f.withSign neg f.infinity, .zero) else (f.withSign neg f.maxFinite, .ofSat)
  | .fin neg m e => f.round mode u24 ftz neg m e false

/-- An exact value rounded to an integer of a format, saturating (R106). -/
def Ty.intOfVal (t : Ty) (mode : RMode) (u24 : Nat) (v : Val) : Nat × Flags :=
  match v with
  | .nan => (0, .ofNv)
  | .inf neg => (natOf t.width (if neg then t.minInt else t.maxInt), .ofSat)
  | .fin neg m e =>
    let k := (roundAt mode u24 neg m e 0 false).1
    t.clamp (if neg then -(k : Int) else k)

/-- A conversion between element formats (R106). -/
def convert (ts td : Ty) (mode : RMode) (u24 : Nat) (ftz : Bool) (x : Nat) : Nat × Flags :=
  let v := ts.val ftz x
  if td.isInt then td.intOfVal mode u24 v else td.fmt.ofVal mode u24 ftz v

/-- The exact sum of two values; an exact zero from operands of opposite sign is +0, or -0 in RDN (R99, R105). -/
def Val.add (mode : RMode) (x y : Val) : Val × Flags :=
  match x, y with
  | .nan, _ => (.nan, .zero)
  | _, .nan => (.nan, .zero)
  | .inf a, .inf b => if a = b then (.inf a, .zero) else (.nan, .ofNv)
  | .inf a, _ => (.inf a, .zero)
  | _, .inf b => (.inf b, .zero)
  | .fin a m e, .fin b n g =>
    let l := min e g
    let p : Int := ((m <<< (e - l).toNat : Nat) : Int) * (if a then -1 else 1)
    let r : Int := ((n <<< (g - l).toNat : Nat) : Int) * (if b then -1 else 1)
    let t := p + r
    if t = 0 then (.fin (if a = b then a else decide (mode = .rdn)) 0 0, .zero)
    else (.fin (decide (t < 0)) t.natAbs l, .zero)

/-- The value with its sign inverted. -/
def Val.neg : Val → Val
  | .nan => .nan
  | .inf a => .inf (!a)
  | .fin a m e => .fin (!a) m e

/-- The exact product of two values (R105). -/
def Val.mul (x y : Val) : Val × Flags :=
  match x, y with
  | .nan, _ => (.nan, .zero)
  | _, .nan => (.nan, .zero)
  | .inf a, .inf b => (.inf (a != b), .zero)
  | .inf a, .fin b m _ => if m = 0 then (.nan, .ofNv) else (.inf (a != b), .zero)
  | .fin a m _, .inf b => if m = 0 then (.nan, .ofNv) else (.inf (a != b), .zero)
  | .fin a m e, .fin b n g => (.fin (a != b) (m * n) (e + g), .zero)

/-- a b + c exactly (R105): infinity times zero is NaN with NV even when c is NaN. -/
def Val.fma (mode : RMode) (a b c : Val) : Val × Flags :=
  let p := Val.mul a b
  if p.2.nv then (.nan, .ofNv) else Val.add mode p.1 c

/-- A value rounded to a format, with the flags of the operation that made it. -/
def Fmt.finish (f : Fmt) (mode : RMode) (u24 : Nat) (ftz : Bool) (v : Val × Flags) : Nat × Flags :=
  let r := f.ofVal mode u24 ftz v.1
  (r.1, v.2.or r.2)

/-- Less than, on values that are not NaN. -/
def Val.ltb (x y : Val) : Bool :=
  match x, y with
  | .nan, _ => false
  | _, .nan => false
  | .inf a, .inf b => a && !b
  | .inf a, _ => a
  | _, .inf b => !b
  | .fin a m e, .fin b n g =>
    let l := min e g
    let p : Int := ((m <<< (e - l).toNat : Nat) : Int) * (if a then -1 else 1)
    let r : Int := ((n <<< (g - l).toNat : Nat) : Int) * (if b then -1 else 1)
    decide (p < r)

/-- Equality of values; both signs of zero are equal, and NaN equals nothing (R95, R105). -/
def Val.eqb (x y : Val) : Bool :=
  match x, y with
  | .nan, _ => false
  | _, .nan => false
  | .inf a, .inf b => a == b
  | .inf _, _ => false
  | _, .inf _ => false
  | .fin a m e, .fin b n g =>
    let l := min e g
    let p : Int := ((m <<< (e - l).toNat : Nat) : Int) * (if a then -1 else 1)
    let r : Int := ((n <<< (g - l).toNat : Nat) : Int) * (if b then -1 else 1)
    decide (p = r)

/-- NaN. -/
def Val.isNan : Val → Bool
  | .nan => true
  | _ => false

/-- The sign of a value; NaN has none. -/
def Val.isNeg : Val → Bool
  | .nan => false
  | .inf a => a
  | .fin a _ _ => a

/-- A zero of either sign. -/
def Val.isZero : Val → Bool
  | .fin _ m _ => m == 0
  | _ => false

/-- Neither infinite nor NaN. -/
def Val.isFinite : Val → Bool
  | .fin _ _ _ => true
  | _ => false

/-- Minimum and maximum (R105): one NaN gives the other operand, and -0 lies below +0. -/
def Val.minmax (wantMax : Bool) (x y : Val) : Val :=
  if x.isNan then y
  else if y.isNan then x
  else if Val.ltb x y then (if wantMax then y else x)
  else if Val.ltb y x then (if wantMax then x else y)
  else if x.isNeg = wantMax then y
  else x

/-- The exact quotient of two finite values, y nonzero: a truncated magnitude of at least 100 bits, its exponent, and
whether anything was cut off. -/
def quotient (m : Nat) (e : Int) (n : Nat) (g : Int) : Nat × Int × Bool :=
  let s := 128 + Nat.log2 n
  let p := m <<< s
  (p / n, e - g - s, p % n != 0)

/-- a divided by b (R105, R115) in F32. -/
def divF32 (mode : RMode) (u24 : Nat) (ftz : Bool) (a b : Val) : Nat × Flags :=
  match a, b with
  | .nan, _ => (Fmt.f32.nan, .zero)
  | _, .nan => (Fmt.f32.nan, .zero)
  | .inf _, .inf _ => (Fmt.f32.nan, .ofNv)
  | .inf s, .fin t _ _ => (Fmt.f32.withSign (s != t) Fmt.f32.infinity, .zero)
  | .fin s _ _, .inf t => (Fmt.f32.withSign (s != t) 0, .zero)
  | .fin s m e, .fin t n g =>
    if n = 0 then
      if m = 0 then (Fmt.f32.nan, .ofNv) else (Fmt.f32.withSign (s != t) Fmt.f32.infinity, .zero)
    else
      let q := quotient m e n g
      Fmt.f32.round mode u24 ftz (s != t) q.1 q.2.1 q.2.2

/-! Transcendentals: fixed point with 320 fraction bits. The exact result of each function is not representable, so
not a tie either, outside the exact cases that are taken apart below. -/

/-- Fraction bits of the fixed-point numbers below. -/
def fracBits : Nat := 320
/-- One, in fixed point. -/
def fxOne : Nat := 1 <<< 320

/-- The terms z^(2k+1)/(2k+1) of the inverse hyperbolic tangent, from the term with power p = z^(2k+1). -/
def atanhTerms (z2 : Nat) : Nat → Nat → Nat → Nat
  | 0, _, _ => 0
  | fuel + 1, p, k => p / (2 * k + 1) + atanhTerms z2 fuel ((p * z2) >>> 320) (k + 1)

/-- ln of num/den for 1 ≤ num/den ≤ 2, in fixed point: 2 artanh((num - den)/(num + den)). -/
def lnRatio (num den : Nat) : Nat :=
  let z := ((num - den) <<< 320) / (num + den)
  2 * atanhTerms ((z * z) >>> 320) 110 z 0

/-- ln 2 in fixed point. -/
def fxLn2 : Nat := lnRatio 2 1

/-- The exponential series from the term t of index k. -/
def expTerms (y : Nat) : Nat → Nat → Nat → Nat
  | 0, _, _ => 0
  | fuel + 1, t, k => t + expTerms y fuel (((t * y) >>> 320) / (k + 1)) (k + 1)

/-- e^y in fixed point, for a fixed-point y below 1. (Log entry 53: DEDUCED.) -/
def fxExp (y : Nat) : Nat := expTerms y 80 fxOne 0

/-- ln m for a positive m, as a signed fixed-point number: the exponent times ln 2 plus the log of the mantissa. -/
def fxLn (m : Nat) (e : Int) : Int :=
  let l := Nat.log2 m
  ((l : Int) + e) * (fxLn2 : Int) + (lnRatio m (2 ^ l) : Int)

/-- 2^x in F32 for a finite x = (-1)^s m 2^e below 128 in magnitude of 256 (R115). -/
def exp2Fin (neg : Bool) (m : Nat) (e : Int) (ftz : Bool) : Nat × Flags :=
  -- x in fixed point, floor and fraction; the fraction is exact because e is at least -149
  let fx : Nat := shiftInt m (e + 320)
  let x : Int := if neg then -(fx : Int) else fx
  let n : Int := x / (fxOne : Int)
  let r : Nat := (x % (fxOne : Int)).toNat
  if r = 0 then Fmt.f32.round .rne 0 ftz false 1 n false
  else Fmt.f32.round .rne 0 ftz false (fxExp ((r * fxLn2) >>> 320)) (n - 320) true

/-- VEXP2 (R115). -/
def fexp2 (ftz : Bool) (v : Val) : Nat × Flags :=
  match v with
  | .nan => (Fmt.f32.nan, .zero)
  | .inf neg => if neg then (0, .zero) else (Fmt.f32.infinity, .zero)
  | .fin neg m e =>
    if neg && Val.ltb (.fin false 150 0) (.fin false m e) then (0, .zero)
    else if !neg && !Val.ltb (.fin false m e) (.fin false 128 0) then (Fmt.f32.infinity, .ofOvf)
    else exp2Fin neg m e ftz

/-- VLOG2 (R115). -/
def flog2 (ftz : Bool) (v : Val) : Nat × Flags :=
  match v with
  | .nan => (Fmt.f32.nan, .zero)
  | .inf neg => if neg then (Fmt.f32.nan, .ofNv) else (Fmt.f32.infinity, .zero)
  | .fin neg m e =>
    if m = 0 then (Fmt.f32.withSign true Fmt.f32.infinity, .zero)
    else if neg then (Fmt.f32.nan, .ofNv)
    else
      let l := Nat.log2 m
      if m = 2 ^ l then
        let n : Int := (l : Int) + e
        Fmt.f32.round .rne 0 ftz (decide (n < 0)) n.natAbs 0 false
      else
        let y : Int := (fxLn m e * (fxOne : Int)) / (fxLn2 : Int)
        Fmt.f32.round .rne 0 ftz (decide (y < 0)) (if y < 0 then y.natAbs - 1 else y.natAbs) (-320) true

/-- VRCP (R115). -/
def frcp (ftz : Bool) (v : Val) : Nat × Flags :=
  match v with
  | .fin neg 0 _ => (Fmt.f32.withSign neg Fmt.f32.infinity, .zero)
  | _ => divF32 .rne 0 ftz (.fin false 1 0) v

/-- The bits of the square root of x from bit k downwards, above the root r found so far. -/
def sqrtBits (x : Nat) : Nat → Nat → Nat
  | 0, r => r
  | k + 1, r =>
    let t := r + 2 ^ k
    sqrtBits x k (if t * t ≤ x then t else r)

/-- VRSQ (R115). -/
def frsq (ftz : Bool) (v : Val) : Nat × Flags :=
  match v with
  | .nan => (Fmt.f32.nan, .zero)
  | .inf neg => if neg then (Fmt.f32.nan, .ofNv) else (0, .zero)
  | .fin neg m e =>
    if m = 0 then (Fmt.f32.withSign neg Fmt.f32.infinity, .zero)
    else if neg then (Fmt.f32.nan, .ofNv)
    else
      let m2 := if e % 2 = 0 then m else 2 * m
      let e2 := if e % 2 = 0 then e else e - 1
      let r := sqrtBits ((1 <<< 400) / m2) 201 0
      Fmt.f32.round .rne 0 ftz false r (-(e2 / 2) - 200) (r * r * m2 != 1 <<< 400)

/-- VTANH (R115). Below 2^-40 the result lies under x by less than one unit forty bits below x's last; from 32 on it
lies under 1 by less than 2^-90. -/
def ftanh (ftz : Bool) (v : Val) : Nat × Flags :=
  match v with
  | .nan => (Fmt.f32.nan, .zero)
  | .inf neg => (Fmt.f32.withSign neg 0x3F800000, .zero)
  | .fin neg m e =>
    if m = 0 then (Fmt.f32.withSign neg 0, .zero)
    else if Val.ltb (.fin false m e) (.fin false 1 (-40)) then
      Fmt.f32.round .rne 0 ftz neg ((m <<< 40) - 1) (e - 40) true
    else if !Val.ltb (.fin false m e) (.fin false 32 0) then
      Fmt.f32.round .rne 0 ftz neg ((1 <<< 90) - 1) (-90) true
    else
      let y := shiftInt m (e + 321)                       -- 2|x|
      let n := y / fxLn2
      let x := (fxExp (y - n * fxLn2)) <<< n              -- e^(2|x|)
      Fmt.f32.round .rne 0 ftz neg (((x - fxOne) <<< 320) / (x + fxOne)) (-320) true

/-! The counter generator. -/

/-- Rotate left within 32 bits. -/
def rotl32 (x : U32) (n : Nat) : U32 := x.rotateLeft n

/-- n rounds of gen on (x0, x1, x2, x3) with the round keys k0, k1 (R116). -/
def genRounds : Nat → U32 → U32 → U32 × U32 × U32 × U32 → U32 × U32 × U32 × U32
  | 0, _, _, x => x
  | n + 1, k0, k1, (x0, x1, x2, x3) =>
    let x0 := x0 + x1 + k0
    let x3 := rotl32 (x3 ^^^ x0) 16
    let x2 := x2 + x3 + k1
    let x1 := rotl32 (x1 ^^^ x2) 12
    let x0 := x0 + x1
    let x3 := rotl32 (x3 ^^^ x0) 8
    let x2 := x2 + x3
    let x1 := rotl32 (x1 ^^^ x2) 7
    genRounds n (k0 + 0x6C8E9CF5#32) (k1 + 0xF1357AEB#32) (x0, x1, x2, x3)

/-- The generator (R116). -/
def gen (k0 k1 c0 c1 c2 c3 : U32) : U32 × U32 × U32 × U32 :=
  let x := genRounds 12 k0 k1 (c0, c1, c2, c3)
  (x.1 ^^^ c0, x.2.1 ^^^ c1, x.2.2.1 ^^^ c2, x.2.2.2 ^^^ c3)

/-- The generator's registers, read at issue (R117). -/
structure Rng where
  key : U64 := 0
  stream : U32 := 0
  ctr : U32 := 0
  deriving DecidableEq, Repr

/-- The draw for a 64-bit value (R117). -/
def Rng.draw (r : Rng) (e : U64) : U32 × U32 × U32 × U32 :=
  gen (r.key.extractLsb' 0 32) (r.key.extractLsb' 32 32) (e.extractLsb' 0 32) (e.extractLsb' 32 32) r.stream r.ctr

/-- Bits [31:8] of the word SR draws for element j of cell n of the panel with TASKPANEL.INDEX index, by a command
that took counter c (R102). An MTOT of a narrow type has elements above 4,095, whose whole number is added in. (Log entry 84:
DESIGN CHOICE.) -/
def Rng.srDraw (r : Rng) (c : U32) (index n j : Nat) : Nat :=
  let d := gen (r.key.extractLsb' 0 32) (r.key.extractLsb' 32 32) c
    (BitVec.ofNat 32 (0x80000000 + index * 65536 + n * 4096 + j)) r.stream r.ctr
  d.1.toNat / 256

/-- The Gumbel value of a word (R118), F32 with RNE. -/
def gumbel (w : U32) : Nat :=
  let a := 2 * (w.toNat / 256) + 1                        -- u = a 2^-25
  let l : Int := -(fxLn a (-25))                          -- -ln u, positive
  let g : Int := -(fxLn l.toNat (-320))
  (Fmt.f32.round .rne 0 false (decide (g < 0)) g.natAbs (-320) true).1

/-! Plain F32 operations that other rules name. -/

/-- The F32 value of a word. -/
def f32Val (ftz : Bool) (x : Nat) : Val := Fmt.f32.val ftz x

/-- F32 addition with RNE. -/
def f32Add (ftz : Bool) (x y : Nat) : Nat × Flags :=
  Fmt.f32.finish .rne 0 ftz (Val.add .rne (f32Val ftz x) (f32Val ftz y))

/-- F32 multiplication with RNE. -/
def f32Mul (ftz : Bool) (x y : Nat) : Nat × Flags :=
  Fmt.f32.finish .rne 0 ftz (Val.mul (f32Val ftz x) (f32Val ftz y))

/-- F32 fused multiply and add with RNE. -/
def f32Fma (ftz : Bool) (x y z : Nat) : Nat × Flags :=
  Fmt.f32.finish .rne 0 ftz (Val.fma .rne (f32Val ftz x) (f32Val ftz y) (f32Val ftz z))

/-- Bits set in x, counted over n bits. -/
def popcountNat : Nat → Nat → Nat
  | 0, _ => 0
  | n + 1, x => x % 2 + popcountNat n (x / 2)

/-- Leading zeros of x within w bits. -/
def clzNat (w x : Nat) : Nat := if x % 2 ^ w = 0 then w else w - 1 - Nat.log2 (x % 2 ^ w)

/-- Trailing zeros of x, at most n. -/
def ctzNat : Nat → Nat → Nat
  | 0, _ => 0
  | n + 1, x => if x % 2 = 1 then 0 else 1 + ctzNat n (x / 2)

end Sys2Proof.Machine
end

