-- ==== Sys2Proof/Machine/Checks.lean ====
section
/-!
DEFINITION. The checks that look at an instruction alone, in the order of R139: reserved fields that depend on another
field (0x03), type codes (0x04), operand values (0x08) and the start value (0x05). What depends on the state (the
place of an instruction, a ring, a register's rights) is tested where the instruction is executed.
-/

namespace Sys2Proof

open Sys2Proof.Machine (Ty)

/-- Integer codes 0 to 5. -/
def tyInt (t : BitVec 4) : Bool := decide (t.toNat ≤ 5)
/-- I8, I16, I32. -/
def tySigned (t : BitVec 4) : Bool := t.toNat == 0 || t.toNat == 2 || t.toNat == 4
/-- I8, U8. -/
def tyByte (t : BitVec 4) : Bool := decide (t.toNat ≤ 1)
/-- F32, F16, BF16. -/
def tyFloat (t : BitVec 4) : Bool := t.toNat == 6 || t.toNat == 7 || t.toNat == 8
/-- Codes 0 to 13. -/
def tyAny (t : BitVec 4) : Bool := decide (t.toNat ≤ 13)
/-- Codes 0 to 5, 12 and 13. -/
def tyInt4 (t : BitVec 4) : Bool := decide (t.toNat ≤ 5) || t.toNat == 12 || t.toNat == 13
/-- I8, U8, I16, U16, I4, U4 (VPACK). -/
def tyPack (t : BitVec 4) : Bool := decide (t.toNat ≤ 3) || t.toNat == 12 || t.toNat == 13
/-- I8, U8, I4, U4 (VQNT, VDQNT). -/
def tyQuant (t : BitVec 4) : Bool := decide (t.toNat ≤ 1) || t.toNat == 12 || t.toNat == 13
/-- I32, U32. -/
def tyWord (t : BitVec 4) : Bool := t.toNat == 4 || t.toNat == 5
/-- F32. -/
def tyF32 (t : BitVec 4) : Bool := t.toNat == 8
/-- U32. -/
def tyU32 (t : BitVec 4) : Bool := t.toNat == 5

/-- The width in bits of a type code, 32 for codes that name none. -/
def codeWidth (t : BitVec 4) : Nat := match Machine.Ty.ofCode t with | some x => x.width | none => 32

/-- Type codes VCVT refuses: an unnamed one, or widths in the ratio 8 (R177). -/
def cvtTypeBad (td ts : BitVec 4) : Bool :=
  !(tyAny td && tyAny ts) ||
    decide (8 * Nat.min (codeWidth td) (codeWidth ts) ≤ Nat.max (codeWidth td) (codeWidth ts))

/-- A part of VCVT beyond the ratio of the widths (R177). -/
def cvtPartBad (td ts : BitVec 4) (h : BitVec 2) : Bool :=
  decide (Nat.max (codeWidth td) (codeWidth ts) ≤ h.toNat * Nat.min (codeWidth td) (codeWidth ts))

/-- Rounding codes 5 and 6 (R101). -/
def roundBad (rm : BitVec 3) : Bool := rm.toNat == 5 || rm.toNat == 6
/-- Scope codes 5 to 7 (R81). -/
def scopeBad (sc : BitVec 3) : Bool := decide (5 ≤ sc.toNat)
/-- Condition fields 8 to 31 (R32, R158). -/
def condBad (c : BitVec 5) : Bool := decide (8 ≤ c.toNat)
/-- Ring fields 8 to 31 (R240). -/
def ringBad (d : BitVec 5) : Bool := decide (8 ≤ d.toNat)
/-- Counts above 256 (R240). -/
def countBad (n : BitVec 9) : Bool := decide (256 < n.toNat)
/-- Start values 0xFFF0 to 0xFFFE (R35). -/
def startBad (s : BitVec 16) : Bool := decide (0xFFF0 ≤ s.toNat) && decide (s.toNat ≤ 0xFFFE)
/-- Strides VLDS and VSTS refuse (R196). -/
def strideBad (k : BitVec 5) : Bool := k.toNat % 8 == 0
/-- Rows of A (R133). -/
def rowsOf (m : BitVec 2) : Nat := 16 * 2 ^ m.toNat
/-- Columns of B (R133). -/
def colsOf (n : BitVec 6) : Nat := 16 * (n.toNat + 1)
/-- M = 0b11, or a block that passes the end of the accumulator store (R210). -/
def blockBad (t : BitVec 6) (m : BitVec 2) (n : BitVec 6) : Bool :=
  m.toNat == 3 || decide (262144 < 4096 * t.toNat + 4 * rowsOf m * colsOf n)

/-- Types of a reduction (R190, R192): AND, OR and XOR take codes 0 to 5, ADD every integer and F32, F16, BF16, and MIN and
MAX every code of R190; ops 6 and 7 are refused as operands, whatever accepted type they name. -/
def redTypeOk (op : BitVec 3) (ty : BitVec 4) : Bool :=
  if 3 ≤ op.toNat ∧ op.toNat ≤ 5 then tyInt ty else if op = 0#3 then tyInt4 ty || tyFloat ty else tyAny ty

/-- The subcode of the first of four conditions, in the order of R139. -/
def firstFault (reserved type operand start : Bool) : Option (BitVec 8) :=
  if reserved then some 0x03#8
  else if type then some 0x04#8
  else if operand then some 0x08#8
  else if start then some 0x05#8
  else none

/-- The subcode of ILLEGAL that an instruction raises by itself, whatever the state (R138, R139). BR and BRL with E = 0
are tested with the packet (R28); the start value of a command that names a ring or a group operand comes after those (R139). -/
def Instr.staticFault : Instr → Option (BitVec 8)
  | .add _ _ _ _ => none
  | .sub _ _ _ _ => none
  | .and _ _ _ _ => none
  | .or _ _ _ _ => none
  | .xor _ _ _ _ => none
  | .andn _ _ _ _ => none
  | .sll _ _ _ _ => none
  | .srl _ _ _ _ => none
  | .sra _ _ _ _ => none
  | .ror _ _ _ _ => none
  | .slt _ _ _ _ => none
  | .sltu _ _ _ _ => none
  | .min _ _ _ _ => none
  | .max _ _ _ _ => none
  | .minu _ _ _ _ => none
  | .maxu _ _ _ _ => none
  | .addw _ _ _ _ => none
  | .subw _ _ _ _ => none
  | .sllw _ _ _ _ => none
  | .srlw _ _ _ _ => none
  | .sraw _ _ _ _ => none
  | .clz _ _ _ => none
  | .ctz _ _ _ => none
  | .popc _ _ _ => none
  | .sextb _ _ _ => none
  | .sexth _ _ _ => none
  | .sextw _ _ _ => none
  | .zextw _ _ _ => none
  | .addi _ _ _ _ => none
  | .andi _ _ _ _ => none
  | .ori _ _ _ _ => none
  | .xori _ _ _ _ => none
  | .slli _ _ _ _ => none
  | .srli _ _ _ _ => none
  | .srai _ _ _ _ => none
  | .slti _ _ _ _ => none
  | .lih _ _ _ => none
  | .lipc _ _ _ => none
  | .ldb _ _ _ _ => none
  | .ldh _ _ _ _ => none
  | .ldw _ _ _ _ => none
  | .ldd _ _ _ _ => none
  | .ldbu _ _ _ _ => none
  | .ldhu _ _ _ _ => none
  | .ldwu _ _ _ _ => none
  | .ldacq _ _ _ sc _ => firstFault false false (scopeBad sc) false
  | .stb _ _ _ _ => none
  | .sth _ _ _ _ => none
  | .stw _ _ _ _ => none
  | .std _ _ _ _ => none
  | .strel _ _ _ sc _ => firstFault false false (scopeBad sc) false
  | .aadd _ _ _ _ sc _ _ => firstFault false false (scopeBad sc) false
  | .aand _ _ _ _ sc _ _ => firstFault false false (scopeBad sc) false
  | .aor _ _ _ _ sc _ _ => firstFault false false (scopeBad sc) false
  | .axor _ _ _ _ sc _ _ => firstFault false false (scopeBad sc) false
  | .amin _ _ _ _ sc _ _ => firstFault false false (scopeBad sc) false
  | .amax _ _ _ _ sc _ _ => firstFault false false (scopeBad sc) false
  | .aminu _ _ _ _ sc _ _ => firstFault false false (scopeBad sc) false
  | .amaxu _ _ _ _ sc _ _ => firstFault false false (scopeBad sc) false
  | .aswap _ _ _ _ sc _ _ => firstFault false false (scopeBad sc) false
  | .acas _ _ _ _ sc _ _ => firstFault false false (scopeBad sc) false
  | .ptgt _ _ _ => none
  | .ptgtr _ _ _ => none
  | .br _ _ _ _ => none
  | .brl _ _ _ _ => none
  | .cmpeq _ d _ _ => firstFault false false (condBad d) false
  | .cmpne _ d _ _ => firstFault false false (condBad d) false
  | .cmplt _ d _ _ => firstFault false false (condBad d) false
  | .cmpge _ d _ _ => firstFault false false (condBad d) false
  | .cmpltu _ d _ _ => firstFault false false (condBad d) false
  | .cmpgeu _ d _ _ => firstFault false false (condBad d) false
  | .cand _ d a b => firstFault false false (condBad d || condBad a || condBad b) false
  | .cor _ d a b => firstFault false false (condBad d || condBad a || condBad b) false
  | .cxor _ d a b => firstFault false false (condBad d || condBad a || condBad b) false
  | .cnot _ d a => firstFault false false (condBad d || condBad a) false
  | .sel _ _ _ _ => none
  | .ctos _ _ a => firstFault false false (condBad a) false
  | .loop e _ st _ => firstFault false false (st == 0#3 || !e) false
  | .lbreak _ c k => firstFault false false (condBad c || k == 0#3) false
  | .tstart _ => none
  | .twait _ _ _ => none
  | .tread _ _ _ => none
  | .srd _ _ _ => none
  | .swr _ _ _ => none
  | .fence _ sc k => firstFault false false (scopeBad sc || k == 0#5) false
  | .trap _ _ => none
  | .rft _ => none
  | .exit e => firstFault false false (!e) false
  | .yield _ => none
  | .waitev _ v => firstFault false false (v == 0#4) false
  | .qflush _ m => firstFault false false (m == 0#4) false
  | .qsync _ m => firstFault false false (m == 0#4) false
  | .qmark _ _ _ => none
  | .qdepth _ _ _ => none
  | .rcfg _ d _ _ => firstFault false false (ringBad d) false
  | .waitf _ d n => firstFault false false (ringBad d || countBad n) false
  | .waite _ d n => firstFault false false (ringBad d || countBad n) false
  | .rclaim _ d n => firstFault false false (ringBad d || countBad n) false
  | .rpub _ d n => firstFault false false (ringBad d || countBad n) false
  | .rpop _ d n => firstFault false false (ringBad d || countBad n) false
  | .rstat _ _ _ sl _ => firstFault false false (decide (9 ≤ sl.toNat)) false
  | .finc _ d _ sc _ => firstFault false false (scopeBad sc || (d != 0#5 && sc != 4#3)) false
  | .fwait _ _ sc _ => firstFault false false (scopeBad sc) false
  | .fset _ _ sc _ => firstFault false false (scopeBad sc) false
  | .fread _ _ sc _ => firstFault false false (scopeBad sc) false
  | .bar _ _ sc _ => firstFault false false (scopeBad sc) false
  | .admode _ m => firstFault false false (m == 3#2) false
  | .tapemk _ _ => none
  | .tapecut _ _ => none
  | .launch _ _ _ _ => none
  | .ncommit _ => none
  | .mul _ _ _ _ => none
  | .mulh _ _ _ _ => none
  | .mulhu _ _ _ _ => none
  | .div _ _ _ _ => none
  | .divu _ _ _ _ => none
  | .rem _ _ _ _ => none
  | .remu _ _ _ _ => none
  | .mulw _ _ _ _ => none
  | .divw _ _ _ _ => none
  | .fmt _ _ => none
  | .fmtclr _ => none
  | .mld _ _ _ => none
  | .mbind _ _ _ => none
  | .munbind _ _ => none
  | .mstat _ _ _ => none
  | .spmark _ m => firstFault false false (m == 0#8) false
  | .spaccept _ _ => none
  | .spdrop _ => none
  | .vadd h _ _ _ ty => firstFault false (!tyInt ty) (condBad h.c) (startBad h.start)
  | .vsub h _ _ _ ty => firstFault false (!tyInt ty) (condBad h.c) (startBad h.start)
  | .vmul h _ _ _ ty => firstFault false (!tyInt ty) (condBad h.c) (startBad h.start)
  | .vmulh h _ _ _ ty => firstFault false (!tyInt ty) (condBad h.c) (startBad h.start)
  | .vmin h _ _ _ ty => firstFault false (!tyInt ty) (condBad h.c) (startBad h.start)
  | .vmax h _ _ _ ty => firstFault false (!tyInt ty) (condBad h.c) (startBad h.start)
  | .vabs h _ _ ty => firstFault false (!tySigned ty) (condBad h.c) (startBad h.start)
  | .vneg h _ _ ty => firstFault false (!tySigned ty) (condBad h.c) (startBad h.start)
  | .vadds h _ _ _ ty => firstFault false (!tyInt ty) (condBad h.c) (startBad h.start)
  | .vsubs h _ _ _ ty => firstFault false (!tyInt ty) (condBad h.c) (startBad h.start)
  | .vavg h _ _ _ ty => firstFault false (!tyInt ty) (condBad h.c) (startBad h.start)
  | .vmad h _ _ _ ty => firstFault false (!tyInt ty) (condBad h.c) (startBad h.start)
  | .vdot4 h _ _ _ ty => firstFault false (!tyByte ty) (condBad h.c) (startBad h.start)
  | .vfadd h _ _ _ ty rm => firstFault false (!tyFloat ty) (condBad h.c || roundBad rm) (startBad h.start)
  | .vfsub h _ _ _ ty rm => firstFault false (!tyFloat ty) (condBad h.c || roundBad rm) (startBad h.start)
  | .vfmul h _ _ _ ty rm => firstFault false (!tyFloat ty) (condBad h.c || roundBad rm) (startBad h.start)
  | .vfma h _ _ _ ty rm => firstFault false (!tyFloat ty) (condBad h.c || roundBad rm) (startBad h.start)
  | .vfmin h _ _ _ ty => firstFault false (!tyFloat ty) (condBad h.c) (startBad h.start)
  | .vfmax h _ _ _ ty => firstFault false (!tyFloat ty) (condBad h.c) (startBad h.start)
  | .vfabs h _ _ ty => firstFault false (!tyFloat ty) (condBad h.c) (startBad h.start)
  | .vfneg h _ _ ty => firstFault false (!tyFloat ty) (condBad h.c) (startBad h.start)
  | .vfscl h _ _ _ ty rm => firstFault false (!tyFloat ty) (condBad h.c || roundBad rm) (startBad h.start)
  | .vfclass h _ _ ty => firstFault false (!tyFloat ty) (condBad h.c) (startBad h.start)
  | .vcvt h _ _ ts ty hp rm => firstFault false (cvtTypeBad ty ts) (condBad h.c || roundBad rm || cvtPartBad ty ts hp) (startBad h.start)
  | .vpack h _ _ _ ty => firstFault false (!tyPack ty) (condBad h.c) (startBad h.start)
  | .vunpk h _ _ ty _ => firstFault false (!tyInt ty) (condBad h.c) (startBad h.start)
  | .vqnt h _ _ _ ty rm => firstFault false (!tyQuant ty) (condBad h.c || roundBad rm) false
  | .vdqnt h _ _ _ ty => firstFault false (!tyQuant ty) (condBad h.c) false
  | .vand h _ _ _ ty => firstFault false (!tyInt4 ty) (condBad h.c) (startBad h.start)
  | .vor h _ _ _ ty => firstFault false (!tyInt4 ty) (condBad h.c) (startBad h.start)
  | .vxor h _ _ _ ty => firstFault false (!tyInt4 ty) (condBad h.c) (startBad h.start)
  | .vlop3 h _ _ _ _ _ => firstFault false false (condBad h.c) (startBad h.start)
  | .vshl h _ _ _ ty => firstFault false (!tyInt ty) (condBad h.c) (startBad h.start)
  | .vshr h _ _ _ ty => firstFault false (!tyInt ty) (condBad h.c) (startBad h.start)
  | .vsra h _ _ _ ty => firstFault false (!tyInt ty) (condBad h.c) (startBad h.start)
  | .vrot h _ _ _ ty => firstFault false (!tyInt ty) (condBad h.c) (startBad h.start)
  | .vfunl h _ _ _ ty n => firstFault false (!tyInt ty) (condBad h.c || decide (codeWidth ty ≤ n.toNat)) (startBad h.start)
  | .vfunr h _ _ _ ty n => firstFault false (!tyInt ty) (condBad h.c || decide (codeWidth ty ≤ n.toNat)) (startBad h.start)
  | .vpopc h _ _ ty => firstFault false (!tyInt4 ty) (condBad h.c) (startBad h.start)
  | .vclz h _ _ ty => firstFault false (!tyInt4 ty) (condBad h.c) (startBad h.start)
  | .vcmp h _ _ _ ty op => firstFault false (!tyInt ty) (condBad h.c || decide (6 ≤ op.toNat)) (startBad h.start)
  | .vfcmp h _ _ _ ty op => firstFault false (!tyFloat ty) (condBad h.c || op.toNat == 7) (startBad h.start)
  | .vsel h _ _ _ ty => firstFault false (!tyAny ty) (condBad h.c) (startBad h.start)
  | .vplog h _ _ b op => firstFault ((op.toNat == 5 || op.toNat == 6) && b != 0#5) false (condBad h.c || op.toNat == 7) (startBad h.start)
  | .vvote h d _ ty _ => firstFault false (!tyAny ty) (condBad h.c || condBad d) (startBad h.start)
  | .vpcnt h _ _ ty => firstFault false (!tyAny ty) (condBad h.c) (startBad h.start)
  | .vperm h _ _ _ ty => firstFault false (!tyAny ty) (condBad h.c) (startBad h.start)
  | .vbcast h _ _ ty => firstFault false (!tyAny ty) (condBad h.c) (startBad h.start)
  | .vlane h _ _ _ ty => firstFault false (!tyAny ty) (condBad h.c) (startBad h.start)
  | .vshuf h _ _ b ty op => firstFault (op.toNat == 4 && b != 0#5) (!tyAny ty) (condBad h.c || decide (5 ≤ op.toNat)) (startBad h.start)
  | .vred h _ _ ty op => firstFault false (!redTypeOk op ty) (condBad h.c || decide (6 ≤ op.toNat)) (startBad h.start)
  | .vscan h _ _ ty op => firstFault false (!redTypeOk op ty) (condBad h.c || decide (6 ≤ op.toNat)) (startBad h.start)
  | .vidx h _ _ ty => firstFault false (!tyInt ty) (condBad h.c) (startBad h.start)
  | .vcell h _ ty _ => firstFault false (!tyWord ty) (condBad h.c) (startBad h.start)
  | .vld h _ _ _ => firstFault false false (condBad h.c) (startBad h.start)
  | .vst h _ _ _ => firstFault false false (condBad h.c) (startBad h.start)
  | .vlds h _ _ _ k => firstFault false false (condBad h.c || strideBad k) (startBad h.start)
  | .vsts h _ _ _ k => firstFault false false (condBad h.c || strideBad k) (startBad h.start)
  | .vldx h _ _ _ _ => firstFault false false (condBad h.c) (startBad h.start)
  | .vstx h _ _ _ _ => firstFault false false (condBad h.c) (startBad h.start)
  | .vldr h _ _ _ _ _ => firstFault false false (condBad h.c) false
  | .vstr h _ _ _ _ => firstFault false false (condBad h.c) false
  | .vaadd h _ _ _ ty => firstFault false (!tyWord ty) (condBad h.c) (startBad h.start)
  | .vafadd h _ _ _ ty => firstFault false (!tyF32 ty) (condBad h.c) (startBad h.start)
  | .vamin h _ _ _ ty => firstFault false (!tyWord ty) (condBad h.c) (startBad h.start)
  | .vamax h _ _ _ ty => firstFault false (!tyWord ty) (condBad h.c) (startBad h.start)
  | .vaswap h _ _ _ ty => firstFault false (!(tyWord ty || tyF32 ty)) (condBad h.c) (startBad h.start)
  | .vexp2 h _ _ ty => firstFault false (!tyF32 ty) (condBad h.c) (startBad h.start)
  | .vlog2 h _ _ ty => firstFault false (!tyF32 ty) (condBad h.c) (startBad h.start)
  | .vrcp h _ _ ty => firstFault false (!tyF32 ty) (condBad h.c) (startBad h.start)
  | .vrsq h _ _ ty => firstFault false (!tyF32 ty) (condBad h.c) (startBad h.start)
  | .vtanh h _ _ ty => firstFault false (!tyF32 ty) (condBad h.c) (startBad h.start)
  | .vdiv h _ _ _ ty rm => firstFault false (!tyF32 ty) (condBad h.c || roundBad rm) (startBad h.start)
  | .vrnd h _ _ _ ty _ => firstFault false (!tyU32 ty) (condBad h.c) (startBad h.start)
  | .vgumb h _ _ _ ty => firstFault false (!tyF32 ty) (condBad h.c) (startBad h.start)
  | .vsamp h _ _ _ ty => firstFault false (!tyF32 ty) (condBad h.c) (startBad h.start)
  | .mot h _ _ _ _ _ _ _ => firstFault false false false (startBad h.start)
  | .vshift h _ _ _ eg tg => firstFault (eg.toNat != 2 && tg != 0#5) false (condBad h.c || eg.toNat == 3) (startBad h.start)
  | .vxsend h _ _ _ => firstFault false false (condBad h.c) (startBad h.start)
  | .vxrecv h _ _ _ => firstFault false false (condBad h.c) (startBad h.start)
  | .vbord h _ _ _ => firstFault false false (condBad h.c) (startBad h.start)
  | .vjoin h _ _ _ => firstFault false false (condBad h.c) (startBad h.start)
  | .mma h t _ _ n m _ _ _ _ => firstFault false false (condBad h.c || blockBad t m n) (startBad h.start)
  | .mmaq h t _ _ n m _ _ _ _ _ => firstFault false false (condBad h.c || blockBad t m n) (startBad h.start)
  | .mmab h t _ _ n m _ _ _ _ _ => firstFault false false (condBad h.c || blockBad t m n) (startBad h.start)
  | .mzero h t n => firstFault false false (condBad h.c || decide (64 < t.toNat + n.toNat + 1)) (startBad h.start)
  | .mtov h t _ l ty => firstFault false (!tyAny ty) (condBad h.c || decide (65536 < 1024 * t.toNat + 16 * l.toNat + 512 / codeWidth ty)) (startBad h.start)
  | .mtot h t _ n m _ _ => firstFault false false (condBad h.c || blockBad t m n) (startBad h.start)
  | .cfill h _ qc ax => firstFault false false (condBad h.c || decide (4 ≤ qc.toNat) || h.p != 0#5 || h.ps || ax != 0#5) (startBad h.start)
  | .cdrain h _ qc ax => firstFault false false (condBad h.c || decide (4 ≤ qc.toNat) || h.p != 0#5 || h.ps || ax != 0#5) (startBad h.start)
  | .cpair h _ qc ax => firstFault false false (condBad h.c || decide (4 ≤ qc.toNat) || h.p != 0#5 || h.ps || ax != 0#5) (startBad h.start)
  | .cgath h _ qc ax => firstFault false false (condBad h.c || decide (4 ≤ qc.toNat) || h.p != 0#5 || h.ps || ax != 0#5) (startBad h.start)
  | .ccopy h _ qc ax => firstFault false false (condBad h.c || decide (4 ≤ qc.toNat) || h.p != 0#5 || h.ps || ax != 0#5) (startBad h.start)
  | .cred h _ qc ax => firstFault false false (condBad h.c || decide (4 ≤ qc.toNat) || h.p != 0#5 || h.ps || ax != 0#5) (startBad h.start)
  | .queueEntryStart _ _ => none
  | .resultWriteback _ => none
  | .holdTimeout _ => none
  | .scalarDataReturn _ _ => none
  | .loopPass _ => none
  | .waitComplete _ => none
  | .ringFill _ _ _ => none
  | .expressArrival _ _ => none
  | .borderLanding _ => none
  | .columnJobStart _ _ => none
  | .columnChunk _ _ => none
  | .columnJobRetire _ _ => none
  | .columnJobFault _ _ => none
  | .refreshSweep _ => none
  | .forcedRefresh _ => none
  | .forcedRefreshEnd _ => none
  | .handlerFirstPacket _ => none
  | .graceWindowExpiry _ => none
  | .drainComplete _ => none
  | .gangSave _ => none
  | .contextFinish _ => none
  | .motifLoadEnd _ => none
  | .hostRegisterWrite _ _ _ => none
  | .kick _ _ => none
  | .deviceEnable => none
  | .deviceDisable => none
  | .packageReset => none
  | .queueEnable _ _ => none
  | .queueDisable _ _ => none
  | .qstatClear _ _ => none
  | .spancfgApply _ => none
  | .spanTableApplied => none
  | .queueHeaderRead _ => none
  | .launchPacket _ _ => none
  | .loadPacket _ _ => none
  | .unloadPacket _ _ => none
  | .barrierPacket _ _ => none
  | .copyPacket _ _ => none
  | .signalPacket _ _ => none
  | .waitvalPacket _ _ => none
  | .waitvalPoll _ _ => none
  | .waitvalTimeout _ _ => none
  | .bar2Read _ _ => none
  | .bar2Write _ _ => none
  | .bar2Atomic _ _ _ _ _ => none
  | .spanFlitReceive _ _ => none
  | .remoteFincArrival _ _ _ => none
  | .spanWriteArrival _ _ => none
  | .spanLinkDown _ => none
  | .matcherEligible _ => none
  | .dispatchStart _ => none
  | .dispatchRestore _ => none
  | .dispatchPreempt _ => none
  | .dispatchForce _ => none
  | .dispatchAbort _ => none
  | .bindComplete _ => none
  | .powerCheck => none
  | .supplyCutEnd _ => none
  | .pageWalk _ _ => none
  | .noticeReply _ => none
  | .faultlimExpiry _ => none
  | .tlbInvalidation => none
  | .thermalSample => none
  | .operatorRequest => none
  | .panelScreen _ => none
  | .captureControlPoll => none
  | .attest => none
  | .stage => none
  | .identity => none
  | .clearalt => none
  | .boot => none
  | .bootWatchdog => none
  | .unassignedEncoding _ _ _ => none
  | .writeAppliedToView _ _ => none
  | .spanLinkTrained _ => none
  | .spanLinkLost _ => none
  | .mailboxBadop => none
  | .doorbellInvalidOp _ => none

end Sys2Proof
end

