-- ==== Sys2Proof/Machine/Memory.lean ====
section
/-!
DEFINITION. Sparse stores: lists of (address, value) with strictly rising addresses and no zero value. An address that
is not listed reads as zero, so equal contents are equal lists. Byte order is decided here, once: least significant
byte first (R19, R153).
-/

namespace Sys2Proof.Machine

/-- A sparse store of n-bit values; with n = 8 it is a list of Host.Cell. -/
abbrev Store (n : Nat) := List (Nat × BitVec n)

/-- A store of bytes. -/
abbrev Bytes := Store 8

/-- The value at an address. (Log entry 2: DESIGN CHOICE.) -/
def Store.get {n : Nat} : Store n → Nat → BitVec n
  | [], _ => 0
  | (k, x) :: m, a => if k = a then x else Store.get m a

/-- Put an entry in front unless its value is what an unlisted address reads as. -/
def Store.push {n : Nat} (a : Nat) (x : BitVec n) (m : Store n) : Store n := if x = 0 then m else (a, x) :: m

/-- The store with the value x at address a. -/
def Store.set {n : Nat} : Store n → Nat → BitVec n → Store n
  | [], a, x => Store.push a x []
  | (k, y) :: m, a, x =>
    if a < k then Store.push a x ((k, y) :: m)
    else if a = k then Store.push a x m
    else (k, y) :: Store.set m a x

/-- Every address lies above a. -/
def Store.above {n : Nat} (a : Nat) : Store n → Bool
  | [] => true
  | (k, _) :: _ => decide (a < k)

/-- The canonical form: addresses strictly rising, no zero listed. -/
def Store.wf {n : Nat} : Store n → Bool
  | [] => true
  | (k, x) :: m => decide (x ≠ 0) && Store.above k m && Store.wf m

/-- A memory of bytes has its canonical form. -/
abbrev Memory.wf (m : Bytes) : Bool := Store.wf m

/-- The store with the values of a list from address a upwards. -/
def Store.setList {n : Nat} : Store n → Nat → List (BitVec n) → Store n
  | m, _, [] => m
  | m, a, x :: xs => Store.setList (Store.set m a x) (a + 1) xs

/-- The store with the values of a list from address a upwards, but for those at some places of the list, counted from k. -/
def Store.setHoles {n : Nat} : Store n → Nat → List (BitVec n) → List Nat → Nat → Store n
  | m, _, [], _, _ => m
  | m, a, x :: xs, hs, k => Store.setHoles (if hs.contains k then m else Store.set m a x) (a + 1) xs hs (k + 1)

/-- The n values from address a upwards. -/
def Store.getList {n : Nat} (m : Store n) (a : Nat) : Nat → List (BitVec n)
  | 0 => []
  | k + 1 => Store.get m a :: Store.getList m (a + 1) k

/-- The store with address a and k - 1 addresses after it at zero. -/
def Store.clear {n : Nat} : Store n → Nat → Nat → Store n
  | [], _, _ => []
  | (j, x) :: m, a, k => if a ≤ j ∧ j < a + k then Store.clear m a k else (j, x) :: Store.clear m a k

/-- A natural number from bytes, least significant first. -/
def natOfBytes : List Byte → Nat
  | [] => 0
  | b :: bs => b.toNat + 256 * natOfBytes bs

/-- The n low bytes of a number, least significant first. -/
def bytesOfNat : Nat → Nat → List Byte
  | 0, _ => []
  | n + 1, x => BitVec.ofNat 8 x :: bytesOfNat n (x / 256)

/-- The number in the n bytes from address a. -/
def Store.num (m : Bytes) (a n : Nat) : Nat := natOfBytes (Store.getList m a n)

/-- The store with the n low bytes of x from address a. -/
def Store.setNum (m : Bytes) (a n x : Nat) : Bytes := Store.setList m a (bytesOfNat n x)

/-- The 64-byte line at address a. -/
def Store.line (m : Bytes) (a : Nat) : Line := BitVec.ofNat 512 (Store.num m a 64)

/-- Write the bytes of a list whose mask bit is set, from address a; mask bit 0 belongs to the first. -/
def Store.setMasked : Bytes → Nat → List Byte → Nat → Bytes
  | m, _, [], _ => m
  | m, a, b :: bs, mask =>
    Store.setMasked (if mask % 2 = 1 then Store.set m a b else m) (a + 1) bs (mask / 2)

/-- Write the masked bytes of a line at address a. -/
def Store.setLine (m : Bytes) (a : Nat) (x : Line) (mask : BitVec 64) : Bytes :=
  Store.setMasked m a (bytesOfNat 64 x.toNat) mask.toNat

/-- The first n elements of a list, padded with zero bytes. -/
def padTo : Nat → List Byte → List Byte
  | 0, _ => []
  | n + 1, [] => 0#8 :: padTo n []
  | n + 1, b :: bs => b :: padTo n bs

end Sys2Proof.Machine
end

