-- ==== Sys2Proof/Machine/Panel.lean ====
section
/-!
DEFINITION. The state of one panel context: what a task's program on one panel can name, and what R271 to R289,
R403 to R408 say the context carries besides. Types and their values at a first bind, and nothing else.

Panel time counts the unheld cycles of the normal schedule (R34); the trap clock counts the unheld cycles spent in
trap context, where panel time stands still (R271, R278). A due cycle is a value of the clock its flag names.
-/

namespace Sys2Proof.Machine

/-- A bank of sequencer registers: s0 to s31, b0 to b3 and c0 to c7 (R18). Bit k of c is ck. -/
structure Bank where
  s : Vector U64 32 := Vector.replicate 32 0#64
  b : Vector U64 4 := Vector.replicate 4 0#64
  c : BitVec 8 := 0#8
  deriving DecidableEq, Repr

/-- Who the context is (R13, R23, R72), and which slot and task it belongs to. -/
structure Ident where
  /-- the physical position: 32 sheet + 8 py + px (R13) -/
  panel : Nat := 0
  /-- the slot of the slot table -/
  slot : Nat := 0
  taskId : U64 := 0#64
  taskPanel : U64 := 0#64
  taskShape : U64 := 0#64
  argPtr : U64 := 0#64
  flagBase : U64 := 0#64
  /-- the task is a re-executable node (R281) -/
  node : Bool := false
  deriving DecidableEq, Repr

/-- The instruction cache: the TEXT of the task's image (R146, R322). -/
structure Code where
  base : U64 := 0#64
  words : List U32 := []
  /-- false when the TEXT fill met a page without X (R392) -/
  executable : Bool := true
  deriving DecidableEq, Repr

/-- Adjoint mode (R247). -/
inductive AdMode where
  | off | fwd | rev
  deriving DecidableEq, Repr

/-- A value a command reads or writes, as R37 counts readiness and R283 pending bits. -/
inductive Ref where
  | s (r : Reg)
  | b (n : BitVec 2)
  | c (n : BitVec 3)
  | v (r : Reg)
  | p (r : Reg)
  /-- accumulator slots lo to lo + n - 1 of every cell -/
  | acc (lo n : Nat)
  deriving DecidableEq, Repr

/-- A change of a ring's descriptor made by an instruction or a command, in every cell (R68, R243, R263, R265). -/
inductive RingOp where
  | claim (n : Nat)
  | pub (n : Nat)
  | pop (n : Nat)
  | mark
  | accept (n : U32)
  deriving DecidableEq, Repr

/-- The counts of a ring of a cell, and the slot and tag, that a captured change alters (R407). -/
structure RingChange where
  head : Option U32 := none
  tail : Option U32 := none
  ttail : Option U32 := none
  claimed : Option U32 := none
  nexttag : Option U32 := none
  hslot : Option Nat := none
  tag : Option (Nat × U32) := none
  deriving DecidableEq, Repr

/-- One write that falls due at the end of a cycle (R26, R272). -/
inductive Write where
  | s (r : Reg) (x : U64)
  | b (n : BitVec 2) (x : U64)
  | c (n : BitVec 3) (x : Bool)
  /-- bytes of a vector register of a cell, under a byte mask -/
  | v (cell : Nat) (r : Reg) (x : Line) (mask : BitVec 64)
  | p (cell : Nat) (r : Reg) (x : BitVec 64)
  /-- consecutive accumulator slots of a cell -/
  | acc (cell lo : Nat) (xs : List U32)
  /-- n consecutive accumulator slots of a cell become zero -/
  | accZero (cell lo n : Nat)
  /-- a ring's change in every cell -/
  | ring (m : Nat) (op : RingOp)
  /-- the tag and counts of the oldest fill of a ring in a cell that this command began (R67, R199, R220) -/
  | fillDone (cell ring : Nat) (ord : Nat)
  /-- in a restored context, the change of a ring of a cell as its save area held it, and what it was a change of (R407) -/
  | ringTo (cell ring : Nat) (x : RingChange) (ord : Nat)
  /-- an express port of a cell becomes EMPTY (R227) -/
  | portEmpty (cell port : Nat)
  /-- a checksum fails: it is counted, and trapped with this TVAL unless its command's CHKTOL.MODE says to count only (R113) -/
  | checksum (tval : U64) (countOnly : Bool)
  /-- nothing; a placeholder whose flags alone are due -/
  | flagsOnly
  deriving DecidableEq, Repr

/-- The sequencer and the engines whose landing records R273 keeps apart. -/
inductive EngUnit where
  | seq | q0 | q1 | q2 | q3
  deriving DecidableEq, Repr

/-- A captured write: who made it in program order, when it is due, on which clock and into which bank, and the
sticky flags it sets (R272). -/
structure Landing where
  ord : Nat
  unit : EngUnit
  /-- due at the end of this cycle, of the trap clock when trap is true and of panel time otherwise -/
  due : Nat
  trap : Bool
  write : Write
  flags : Flags := .zero
  deriving DecidableEq, Repr

/-- Where the bytes of a tower read go. -/
inductive ReadTo where
  /-- bytes pos to pos + len - 1 of a vector register, under a byte mask, at the end of cycle due -/
  | vreg (r : Reg) (pos : Nat) (mask : BitVec 64) (due : Nat)
  /-- line index of operand which (0 A, 1 B, 2 A's or B's scales, 3 zero points or B's scales) of the matrix command
  with this program-order number -/
  | operand (which line : Nat)
  /-- the old contents that a store in FWD mode records (R200): a clash loses them, and the record of the command's write
  of this rank then holds zeros -/
  | old (rank : Nat)
  /-- only the bank cycle counts: its bytes are known already (R251, R272, R308) -/
  | none
  deriving DecidableEq, Repr

/-- What an access does in its bank cycle. -/
inductive TowerAct where
  /-- read len bytes at off, all in one line -/
  | read (len : Nat) (dest : ReadTo)
  /-- write the masked bytes of the line at off -/
  | write (x : Line) (mask : BitVec 64)
  /-- write the masked bytes of the line at off through the matrix write path (R309) -/
  | matrixWrite (x : Line) (mask : BitVec 64)
  /-- the write at the end of an atomic window, through the atomic path (R62) -/
  | atomicWrite (x : Line) (mask : BitVec 64)
  deriving DecidableEq, Repr

/-- A tower access that a started command has placed in a bank cycle (R308, R309). -/
structure TowerOp where
  /-- issue order of its command, and its place within the command (R311) -/
  ord : Nat
  rank : Nat
  cell : Nat
  cycle : Nat
  trap : Bool
  unit : EngUnit
  /-- tower offset; a line's offset for writes -/
  off : Nat
  act : TowerAct
  /-- a write whose old bytes go to the tape (R250): their tower offset there and their number -/
  keep : Option (Nat × Nat) := none
  deriving DecidableEq, Repr

/-- A bank reserved for the window of an atomic (R62). -/
structure Window where
  ord : Nat
  cell : Nat
  bank : Nat
  first : Nat
  last : Nat
  trap : Bool
  deriving DecidableEq, Repr

/-- A fill of a ring that has reserved its slot and not yet published its tag (R67, R199). -/
structure Fill where
  tag : U32
  slot : Nat
  /-- the program-order number of the VSTR or MTOT that makes it; none for a landing or a column transfer -/
  ord : Option Nat
  /-- lines still to be written: tower offset and data -/
  lines : List (Nat × Line)
  /-- the wall cycle in which its last line was written, once all are -/
  written : Option Nat
  /-- the descriptor changed under it: it writes its bytes and nothing else (R241, R265) -/
  discarded : Bool
  deriving DecidableEq, Repr

/-- A ring descriptor with its tags (R65, R199, R262). -/
structure Ring where
  conf : Bool := false
  base : Nat := 0
  size : Nat := 0
  count : Nat := 0
  explicit : Bool := false
  head : U32 := 0#32
  tail : U32 := 0#32
  ttail : U32 := 0#32
  claimed : U32 := 0#32
  nexttag : U32 := 0#32
  hslot : Nat := 0
  fslot : Nat := 0
  phase : Bool := false
  spec : Bool := false
  mark : U32 := 0#32
  mfslot : Nat := 0
  opened : Nat := 0
  /-- the program-order number of the VSTR that opened the open fill -/
  openOrd : Nat := 0
  /-- tag of slot s at index s -/
  tags : List U32 := []
  /-- fills under way, in the order they began -/
  fills : List Fill := []
  /-- the last wall cycle in which a command or an instruction popped it, and HEAD before (R243) -/
  popAt : Nat := 0
  popFrom : U32 := 0#32
  deriving DecidableEq, Repr

/-- A message in an express port. -/
structure PortMsg where
  data : Line
  tag : U32
  deriving DecidableEq, Repr

/-- A message in a send buffer: it stays there until it lands (R226, R407). -/
structure SendMsg where
  data : Line
  tag : U32
  dest : U32
  /-- the wall cycle in which it reaches its destination (R313) -/
  arrive : Nat
  deriving DecidableEq, Repr

/-- The ages of the 2,048 lines of a bank (R75, R76): lines that were written or refreshed since base, newest first
with the wall cycle; the others, in rising order from next, all date from base. -/
structure BankAge where
  base : Nat := 0
  next : Nat := 0
  young : List (Nat × Nat) := []
  deriving DecidableEq, Repr

/-- One cell (R8). -/
structure Cell where
  v : Vector Line 32 := Vector.replicate 32 0#512
  p : Vector U64 32 := Vector.replicate 32 0#64
  /-- the accumulator store: slot and value, slots rising, zeros not listed -/
  acc : Store 32 := []
  tower : Bytes := []
  rings : Vector Ring 8 := Vector.replicate 8 {}
  ports : Vector (Option PortMsg) 4 := Vector.replicate 4 none
  send : List SendMsg := []
  ages : List BankAge := List.replicate 64 {}
  /-- tower lines and accumulator slots that hold an uncorrectable error (R281) -/
  badLines : List Nat := []
  /-- those among them that the refresh sweep has found, and poisoned (R411) -/
  poisoned : List Nat := []
  badSlots : List Nat := []
  deriving DecidableEq, Repr

/-- A border buffer entry (R223). -/
structure Border where
  data : Line := 0#512
  tag : U32 := 0xFFFFFFFF#32
  deriving DecidableEq, Repr

/-- A command in a queue with every value it took at issue (R287, R405). -/
structure QEntry where
  instr : Instr
  seq : BitVec 16
  /-- place in program order -/
  ord : Nat
  /-- the cycle it issued in, of its own clock -/
  issued : Nat
  /-- due cycle in panel time; none for a ready command -/
  due : Option Nat
  /-- issued in trap context -/
  trap : Bool
  /-- iteration number inside a hardware loop (R45) -/
  iter : Option Int
  /-- the number of ADMODEs issued before its packet ended (R247) -/
  gen : Nat := 0
  /-- scalar operands in field order a, b, tag-sel, s-card, sE; 0 where unused -/
  scal : U64 × U64
  rng : Rng
  srctr : U32
  rmode : RMode
  ftz : Bool
  admode : AdMode
  /-- CHKTOL.TOL, and whether MODE counts only (R113, R162) -/
  chkTol : U32 := 0x3A800000#32
  chkMode : Bool := false
  /-- VLDR: the position, its slot and the tower offset of the line in each cell, fixed at issue (R198) -/
  ringPos : List (U32 × Nat × Nat)
  /-- the address of its packet, for the trap record of a fault raised while it starts -/
  pc : U64
  deriving DecidableEq, Repr

/-- A started matrix command (R212 to R217). -/
structure Flight where
  ord : Nat
  trap : Bool
  start : Nat
  entry : QEntry
  fmt : U64
  /-- per cell: active -/
  active : List Bool
  /-- operand lines read so far: cell, operand, line index, data -/
  lines : List (Nat × Nat × Nat × Line)
  /-- with the checksum on, the old values of the block in each cell (R113, R217) -/
  olds : List (List U32)
  deriving DecidableEq, Repr

/-- A hardware loop (R44 to R49). -/
structure LoopState where
  /-- address of the body, and its length in words -/
  body : U64
  len : Nat
  stages : Nat
  /-- iterations first to total - 1 start; passes first to passes - 1 run -/
  first : Nat
  total : Nat
  passes : Nat
  /-- the pass that is running, or the next one while a pass is about to begin -/
  pass : Nat
  /-- the next packet is the first of pass `pass` -/
  pending : Bool
  /-- N, kept through a graceful stop, and the first iteration it left unstarted -/
  whole : Nat
  leftAt : Nat
  /-- a graceful request drains the loop (R49) -/
  draining : Bool
  /-- an LBREAK of the pass that runs: commands of later iterations are discarded for the rest of the pass (R47) -/
  cut : Option Int := none
  deriving DecidableEq, Repr

/-- Why the sequencer issues no packet although the panel is not held. -/
inductive Wait where
  | none
  /-- a wait instruction whose condition is not yet true, with its two operands (R54) -/
  | waitev (sel : BitVec 4)
  | waitf (ring n : Nat)
  | waite (ring n : Nat)
  | flag (f : Nat) (target : U32) (scope : BitVec 3) (bar : Bool)
  /-- the condition became true; the next packet issues in cycle at -/
  | wake (at_ : Nat)
  /-- TWAIT: the next packet issues when TCYC reaches the target -/
  | twait (target : Int)
  /-- a trap or a return: the next packet issues when the wall clock reaches at (R277, R279) -/
  | until (at_ : Nat)
  deriving DecidableEq, Repr

/-- What the sequencer is about to issue. -/
structure Issue where
  /-- address of the next instruction -/
  pc : U64 := 0#64
  /-- address of the packet being issued -/
  packet : U64 := 0#64
  /-- instructions of the packet already issued in this cycle -/
  done : Nat := 0
  /-- the packet of this cycle has issued in full, or nothing may issue in it -/
  closed : Bool := true
  /-- packet limits and place rules have been checked for the packet at pc -/
  checked : Bool := false
  /-- delay slots that remain, whether the branch transfers, its target and its own address (R30) -/
  slots : Nat := 0
  taken : Bool := false
  target : U64 := 0#64
  branch : U64 := 0#64
  /-- the branch is a BRL -/
  link : Bool := false
  /-- b register the branch names -/
  breg : BitVec 2 := 0#2
  /-- EXIT has issued: nothing more issues (R51), and its address -/
  exited : Bool := false
  exitPc : U64 := 0#64
  wait : Wait := .none
  /-- a YIELD of this packet stops issue after it (R165) -/
  yields : Bool := false
  /-- an RFT has issued (R279) -/
  leaving : Bool := false
  /-- address of the wait instruction in progress, which issues again after a stop (R286), and the delay slots and the
  decision that stood when it issued (R30) -/
  waitPc : U64 := 0#64
  waitSlots : Nat := 0
  waitTaken : Bool := false
  /-- the address after the last packet that has issued in full, before any transfer -/
  after : U64 := 0#64
  /-- the instruction at pc is such a wait: what its packet held up to this address has issued, and whether that was
  the whole packet -/
  again : Option (U64 × Bool) := none
  deriving DecidableEq, Repr

/-- A trap that has been raised in the current cycle (R274, R277). -/
structure Raise where
  code : BitVec 8
  sub : BitVec 8
  tval : U64
  /-- none: the sequencer's; some q: an engine fault of queue q -/
  queue : Option Nat
  /-- TPC of a sequencer trap -/
  pc : U64
  /-- the entry has completed: CHECKSUM, or a fault of a column job (R277) -/
  after : Bool
  /-- raised at an access's due cycle: the access stays pending (R152) -/
  access : Option Nat
  /-- taken as of the cycle before the one it is raised in (R152) -/
  early : Bool
  deriving DecidableEq, Repr

/-- A fault that was deferred (R277). -/
structure Deferred where
  cause : U64
  tval : U64
  deriving DecidableEq, Repr

/-- The trap state and registers (R275 to R280). -/
structure TrapState where
  tctx : Bool := false
  cause : U64 := 0#64
  tpc : U64 := 0#64
  tval : U64 := 0#64
  tcut : U64 := 0#64
  /-- TRAPBASE.OFFSET -/
  offset : BitVec 7 := 0#7
  pacc : Bool := false
  dslot : BitVec 2 := 0#2
  barw : Bool := false
  deferred : Option Deferred := none
  /-- the access that PACC refers to, by its number -/
  access : Option Nat := none
  /-- UNCORRECTABLE was taken: RFT aborts the task (R281) -/
  fatal : Bool := false
  /-- PREEMPT was taken: RFT performs the stop (R279) -/
  preempts : Bool := false
  /-- double-fault halt, with the second trap (R278) -/
  halted : Option Raise := none
  /-- the normal context's place while a handler runs -/
  frozen : Issue := {}
  /-- first number of program order issued in this stay in trap context -/
  entryOrd : Nat := 0
  /-- the wall cycle in which the context first raised UNCORRECTABLE (R370) -/
  errorAt : Option Nat := none
  /-- the entry of the fault that was taken had completed (R277) -/
  completed : Bool := false
  deriving DecidableEq, Repr

/-- Pre-emption (R285 to R287). -/
inductive Stop where
  /-- no stop under way -/
  | none
  /-- a graceful stop: queues drain under R51 -/
  | draining
  /-- issue stopped at once: started commands finish -/
  | forced
  /-- stopped, to be aborted: nothing is saved -/
  | aborted
  /-- all that R287 asks for has happened -/
  | quiet
  /-- saved -/
  | saved
  /-- an uncorrectable error was consumed in an uncommitted re-executable node, which is to start afresh (R281) -/
  | reexec
  deriving DecidableEq, Repr

/-- Pre-emption registers and progress. -/
structure Preempt where
  req : Bool := false
  notify : Bool := false
  lastf : Bool := false
  grace : BitVec 16 := 20#16
  /-- wall cycle in which the grace window ends -/
  deadline : Option Nat := none
  stop : Stop := .none
  /-- PREEMPT was raised for this request; its RFT performs the stop -/
  notified : Bool := false
  deriving DecidableEq, Repr

/-- Clocks and holds (R34, R38 to R43). -/
structure Time where
  ptime : Nat := 0
  anchor : Nat := 0
  /-- the trap clock -/
  xtime : Nat := 0
  holdcnt : U64 := 0#64
  holdmax : U32 := 0x100000#32
  /-- counted cycles of the hold that is running -/
  held : Nat := 0
  /-- hold causes of the last wall cycle (R40): bit k for code k -/
  holding : BitVec 8 := 0#8
  /-- a forced refresh holds until this wall cycle, for these banks: cell and bank (R77) -/
  refreshUntil : Nat := 0
  refreshing : List (Nat × Nat) := []
  /-- queue heads that hold in the cycle under way: queue, and code of R40 -/
  heldQ : List (Nat × Nat) := []
  /-- banks of the present wall cycle, as cell and bank: those that the schedule or a window uses, and those that a landing
  used; and whether the cycle was unheld (R312) -/
  taken : List (Nat × Nat) := []
  landed : List (Nat × Nat) := []
  /-- the cell columns of the lines that the broadcast columns have moved in this cycle (R14) -/
  moved : List Nat := []
  ran : Bool := false
  deriving DecidableEq, Repr

/-- System registers that hold plain values (R100, R104, R112, R117, R78, R282). -/
structure SysRegs where
  rngkey : U64 := 0#64
  rngstr : U32 := 0#32
  rngctr : U32 := 0#32
  srctr : U32 := 0#32
  ftz : Bool := false
  round : BitVec 3 := 0#3
  aflags : Flags := .zero
  chkCount : BitVec 16 := 0#16
  chkMode : Bool := false
  chkTol : U32 := 0x3A800000#32
  deferlim : BitVec 16 := 0#16
  forced : U32 := 0#32
  debugCtl : U64 := 0#64
  deriving DecidableEq, Repr

/-- Adjoint registers (R245, R248, R249). -/
structure Adjoint where
  mode : AdMode := .off
  /-- ADMODEs that have issued -/
  gen : Nat := 0
  dregBase : Vector U64 8 := Vector.replicate 8 0#64
  dregCtl : Vector U64 8 := Vector.replicate 8 0#64
  tapeBase : BitVec 23 := 0#23
  tapeLim : BitVec 23 := 0#23
  tapePtr : BitVec 23 := 0#23
  tapeSpill : U32 := 0#32
  deriving DecidableEq, Repr

/-- A unit of a motif (R342). -/
structure MotifUnit where
  op : Nat
  sub : Nat
  ready : Nat
  src : Nat × Nat × Nat
  imm : U64
  deriving DecidableEq, Repr

/-- A validated motif image (R341). -/
structure Motif where
  nin : Nat
  ein : Bool
  nout : Nat
  lat : Nat
  y0 : Nat
  y1 : Nat
  units : List MotifUnit
  deriving DecidableEq, Repr

/-- A motif slot (R257 to R259). -/
inductive Slot where
  | empty
  | loading
  | loaded (m : Motif)
  | failed (error : Nat)
  deriving DecidableEq, Repr

/-- A motif load under way (R258). -/
structure Loading where
  slot : Nat
  addr : U64
  /-- unheld cycles that remain -/
  left : Nat
  /-- doublewords read so far: index and value -/
  got : List (Nat × U64) := []
  /-- doublewords asked for so far -/
  asked : Nat := 0
  failed : Bool := false
  /-- program order, place and context of the MLD -/
  ord : Nat
  pc : U64
  trap : Bool
  deriving DecidableEq, Repr

/-- Motif state of the panel: slots, bindings by code, and the load under way. -/
structure Motifs where
  slots : Vector Slot 8 := Vector.replicate 8 .empty
  bind : Vector (Option (BitVec 3)) 64 := Vector.replicate 64 none
  load : Option Loading := none
  /-- the cycle after the last in which outputs of a started MOT are due, of panel time and of the trap clock (R258) -/
  until_ : Nat := 0
  untilTrap : Nat := 0
  deriving DecidableEq, Repr

/-- The kinds of a global access of the sequencer. -/
inductive GKind where
  /-- a load of width bytes, sign-extended or not -/
  | load (signed : Bool)
  | store
  /-- op 0 to 9 of major 0x06 -/
  | atomic (op : Nat)
  /-- RCFG's descriptor read, for ring m -/
  | rcfg (m : Nat)
  /-- LAUNCH's packet read, for queue q -/
  | launch (q : Nat)
  /-- part of a motif image -/
  | image
  /-- flag operations: f is relative to the partition -/
  | finc (f : Nat)
  | fset (f : Nat)
  | fread (f : Nat)
  /-- a FINC on another package: the target word -/
  | remoteFinc (f : Nat) (target : U32)
  /-- a wait on a flag: an acquire when it completes -/
  | fwait (f : Nat)
  deriving DecidableEq, Repr

/-- How far a translation has come (R387, R393, R396, R397). -/
inductive Walk where
  /-- translated: physical address, host memory or not, and the leaf's SYSAT -/
  | done (pa : Nat) (host sysat : Bool)
  /-- the walk is under way -/
  | walking
  /-- V = 0 was found: waiting for the steward's notice k, or for room for one -/
  | notice (k : Nat)
  | posting
  /-- the access is refused: the trap's code -/
  | refused (code : BitVec 8)
  /-- a stop has abandoned the service of its miss: it walks afresh when its context goes on (R397) -/
  | abandoned
  deriving DecidableEq, Repr

/-- A global access or flag operation of the sequencer that has issued (R80, R151 to R155, R267). -/
structure GAccess where
  /-- a number unique in the package -/
  id : Nat
  ord : Nat
  trap : Bool
  kind : GKind
  va : U64
  width : Nat
  data : U64
  /-- ACAS: the expected value -/
  expect : U64
  dest : Option Reg
  acquire : Bool
  release : Bool
  scope : BitVec 3
  walk : Walk
  /-- wall cycle from which it may be performed -/
  ready : Nat
  /-- the cycle of its clock at whose end a result is due, or from which a miss holds (R40) -/
  due : Nat
  pc : U64
  performed : Bool
  /-- the value read, once performed; none when the data carried an uncorrectable error -/
  value : Option U64
  /-- the result has been handed to a landing -/
  returned : Bool
  /-- its translation was not finished in its due cycle: it holds under code 0x03 until it has finished (R40) -/
  missed : Bool := false
  deriving DecidableEq, Repr

/-- A fence that orders the accesses before it against those after it (R85). -/
structure FenceMark where
  ord : Nat
  scope : BitVec 3
  kinds : BitVec 5
  deriving DecidableEq, Repr

/-- An access of the context's past, for causal precedence (R86): whether it loads and stores, the writes it made or returned,
whether it was an acquire, and its scope. -/
structure Past where
  ord : Nat
  loads : Bool
  stores : Bool
  writes : List Nat
  acquire : Bool
  scope : BitVec 3
  /-- where: host memory or not, physical address, bytes -/
  onHost : Bool
  addr : Nat
  width : Nat
  deriving DecidableEq, Repr

/-- The memory side of the sequencer. -/
structure GlobalState where
  /-- accesses not yet finished with, in program order -/
  queue : List GAccess := []
  fences : List FenceMark := []
  past : List Past := []
  /-- writes that the context's column jobs have read (R86, R91) -/
  seen : List Nat := []
  deriving DecidableEq, Repr

/-- The four event latches of WAITEV (R166). -/
structure Latches where
  job : Bool := false
  xport : Bool := false
  ring : Bool := false
  preempt : Bool := false
  deriving DecidableEq, Repr

/-- Speculation (R262). -/
structure Specul where
  rings : BitVec 8 := 0#8
  active : Bool := false
  ctr : U32 := 0#32
  deriving DecidableEq, Repr

/-- Format queue and current format word (R206 to R209). -/
structure FormatState where
  queue : List U64 := []
  /-- words pushed in wall cycle pushAt, which an FMTCLR of that cycle leaves (R207) -/
  pushAt : Nat := 0
  pushed : Nat := 0
  word : U64 := 0x0080000000000000#64
  srctr : U32 := 0#32
  deriving DecidableEq, Repr

/-- The queues and engines (R31, R33). -/
structure Engines where
  q : Vector (List QEntry) 4 := Vector.replicate 4 []
  /-- next sequence number of each queue -/
  seq : Vector (BitVec 16) 4 := Vector.replicate 4 0#16
  /-- the cycle of panel time from which each engine is free again -/
  free : Vector Nat 4 := Vector.replicate 4 0
  /-- the same on the trap clock -/
  freeTrap : Vector Nat 4 := Vector.replicate 4 0
  /-- on the trap clock, the end of the occupancy of the last command that a handler started (R168, R278) -/
  ownTrap : Vector Nat 4 := Vector.replicate 4 0
  /-- a residue checker will disagree with the next command of a queue: queue, cell, unit (R114) -/
  residue : List (Nat × Nat × Nat) := []
  /-- the commands that Q1 started and whose writes are still due, newest first: their places in program order, for their landing
  records (R406) -/
  recent : List (Nat × Instr) := []
  deriving DecidableEq, Repr

/-- Messages that leave the panel in the current cycle: border writes (R222, R223). -/
structure BorderMsg where
  /-- logical position of the receiving panel -/
  tx : Nat
  ty : Nat
  /-- buffer of the receiving panel, and entry -/
  side : Nat
  entry : Nat
  data : Line
  tag : U32
  deriving DecidableEq, Repr

/-- Jobs handed to the column engine in the current cycle, and launches, that the package takes over (R229). -/
inductive Outbox where
  | border (m : BorderMsg)
  | job (e : QEntry)
  /-- a detected error: its class, the cell it concerns, and its detail (R411) -/
  | event (cls : Nat) (cell : Option Nat) (detail : U64)
  /-- the links and bridges that an express message passes, with the wall cycles in which it does (R14) -/
  | express (uses : List (Nat × Nat))
  deriving DecidableEq, Repr

/-- A panel context. Every field's default is its value at a first bind (R18, R289). -/
structure Ctx where
  id : Ident := {}
  code : Code := {}
  norm : Bank := {}
  trapBank : Bank := {}
  time : Time := {}
  issue : Issue := {}
  trap : TrapState := {}
  raised : List Raise := []
  preempt : Preempt := {}
  loop : Option LoopState := none
  sys : SysRegs := {}
  adj : Adjoint := {}
  motif : Motifs := {}
  spec : Specul := {}
  fmt : FormatState := {}
  latch : Latches := {}
  eng : Engines := {}
  landings : List Landing := []
  towerOps : List TowerOp := []
  windows : List Window := []
  flights : List Flight := []
  glob : GlobalState := {}
  outbox : List Outbox := []
  /-- borders N, E, S, W, four entries each -/
  borders : Vector (Vector Border 4) 4 := Vector.replicate 4 (Vector.replicate 4 {})
  cells : Vector Cell 16 := Vector.replicate 16 {}
  scratch : Bytes := []
  trapMem : Bytes := []
  /-- 8-byte units of scratch and trap memory that hold an uncorrectable error -/
  badScratch : List Nat := []
  badTrapMem : List Nat := []
  /-- jobs of the context that have started and not retired -/
  jobs : Nat := 0
  /-- of these, jobs that took REV mode (R247), and jobs issued in trap context (R278) -/
  revJobs : Nat := 0
  trapJobs : Nat := 0
  committed : Bool := false
  finished : Bool := false
  /-- next number of program order -/
  ord : Nat := 0
  /-- the model's own counter for free values -/
  fresh : Nat := 0
  deriving DecidableEq, Repr

end Sys2Proof.Machine
end

