-- ==== Sys2Proof/Machine/Ops.lean ====
section
/-!
DEFINITION. The named operations over a panel context: registers, landings, the towers' bank cycles, rings, the end of
an instruction and of a packet, raising and taking a trap, and the return from one.
-/

namespace Sys2Proof.Machine

/-! Vectors and lists. -/

/-- Element i of a vector, by a bounded index. -/
def vget {α : Type} {n : Nat} (d : α) (xs : Vector α n) (i : Nat) : α := xs.toList.getD i d

/-- The vector with element i replaced; an index out of range changes nothing. -/
def vset {α : Type} {n : Nat} (xs : Vector α n) (i : Nat) (x : α) : Vector α n :=
  ⟨⟨xs.toList.set i x⟩, by simp⟩

/-- Apply a function to every element of a list with its index, counted from k. -/
def mapFrom {α β : Type} (f : Nat → α → β) : Nat → List α → List β
  | _, [] => []
  | k, x :: xs => f k x :: mapFrom f (k + 1) xs

theorem mapFrom_length {α β : Type} (f : Nat → α → β) (k : Nat) (xs : List α) :
    (mapFrom f k xs).length = xs.length := by
  induction xs generalizing k with
  | nil => rfl
  | cons x xs ih => simp [mapFrom, ih]

/-- Apply a function to every element of a vector with its index. -/
def vmap {α β : Type} {n : Nat} (f : Nat → α → β) (xs : Vector α n) : Vector β n :=
  ⟨⟨mapFrom f 0 xs.toList⟩, by simp [mapFrom_length]⟩

/-- Bit i of a word. -/
def bit {w : Nat} (x : BitVec w) (i : Nat) : Bool := x.getLsbD i

/-- Sign extension of a field to 64 bits. -/
def sext {w : Nat} (x : BitVec w) : U64 := x.signExtend 64

/-- One as 64 bits when a condition holds, else zero. -/
def ofBool64 (b : Bool) : U64 := if b then 1#64 else 0#64

/-! Clocks and banks. -/

/-- The clock of the running context of execution: panel time, or the trap clock (R271, R278). -/
def Ctx.now (c : Ctx) : Nat := if c.trap.tctx then c.time.xtime else c.time.ptime

/-- The bank of the running context of execution (R278). -/
def Ctx.bank (c : Ctx) : Bank := if c.trap.tctx then c.trapBank else c.norm

/-- The context with a bank replaced. -/
def Ctx.setBank (c : Ctx) (trap : Bool) (b : Bank) : Ctx := if trap then { c with trapBank := b } else { c with norm := b }

/-- The value of a scalar register; s0 reads 0 (R18). -/
def Ctx.rs (c : Ctx) (r : Reg) : U64 := if r = 0#5 then 0#64 else vget 0#64 c.bank.s r.toNat

/-- The value of a branch-target register. -/
def Ctx.rb (c : Ctx) (n : BitVec 2) : U64 := vget 0#64 c.bank.b n.toNat

/-- A condition register; c0 reads 1 (R18). -/
def Ctx.rc (c : Ctx) (n : BitVec 3) : Bool := n == 0#3 || bit c.bank.c n.toNat

/-- A bank with a scalar written; a write to s0 is discarded (R18). -/
def Bank.putS (b : Bank) (r : Reg) (x : U64) : Bank := if r = 0#5 then b else { b with s := vset b.s r.toNat x }

/-- A bank with a branch target written. -/
def Bank.putB (b : Bank) (n : BitVec 2) (x : U64) : Bank := { b with b := vset b.b n.toNat x }

/-- A word with one bit replaced. -/
def setBit {w : Nat} (x : BitVec w) (n : Nat) (v : Bool) : BitVec w :=
  if v then x ||| BitVec.ofNat w (2 ^ n) else x &&& ~~~(BitVec.ofNat w (2 ^ n))

/-- A bank with a condition written; a write to c0 is discarded (R18). -/
def Bank.putC (b : Bank) (n : BitVec 3) (x : Bool) : Bank := if n = 0#3 then b else { b with c := setBit b.c n.toNat x }

/-- TCYC: panel time minus the anchor; its value at the stop in trap context (R34, R278). -/
def Ctx.tcyc (c : Ctx) : Nat := (if c.trap.tctx then c.time.ptime - 1 else c.time.ptime) - c.time.anchor

/-- A number no other use of this context shares, for free values. -/
def Ctx.freeNo (c : Ctx) : Nat := c.id.panel + 256 * c.fresh

/-- The context with the next number for free values. -/
def Ctx.tick (c : Ctx) : Ctx := { c with fresh := c.fresh + 1 }

/-! Cells. -/

/-- Cell n of the panel. -/
def Ctx.cell (c : Ctx) (n : Nat) : Cell := vget {} c.cells n

/-- The context with cell n replaced. -/
def Ctx.setCell (c : Ctx) (n : Nat) (x : Cell) : Ctx := { c with cells := vset c.cells n x }

/-- The context with a function applied to every cell. -/
def Ctx.mapCells (c : Ctx) (f : Nat → Cell → Cell) : Ctx := { c with cells := vmap f c.cells }

/-- A cell's vector register. -/
def Cell.rv (x : Cell) (r : Reg) : Line := vget 0#512 x.v r.toNat

/-- A cell's predicate; p0 reads all ones (R18). -/
def Cell.rp (x : Cell) (r : Reg) : U64 := if r = 0#5 then ~~~(0#64) else vget 0#64 x.p r.toNat

/-- A cell's predicate as a command selects it: bit j is 1 when byte j is active (R132, R194). -/
def Cell.active (x : Cell) (r : Reg) (sense : Bool) : U64 := if sense then ~~~(x.rp r) else x.rp r

/-- A cell's ring. -/
def Cell.ring (x : Cell) (m : Nat) : Ring := vget {} x.rings m

/-- A cell with a ring replaced. -/
def Cell.setRing (x : Cell) (m : Nat) (r : Ring) : Cell := { x with rings := vset x.rings m r }

/-- The bit mask with all eight bits of each byte whose mask bit is set. -/
def expandMask : Nat → Nat → Nat
  | 0, _ => 0
  | n + 1, m => m % 2 * 255 + 256 * expandMask n (m / 2)

/-- The line x with the masked bytes taken from y. -/
def mergeLine (x y : Line) (mask : BitVec 64) : Line :=
  let k : Line := BitVec.ofNat 512 (expandMask 64 mask.toNat)
  (x &&& ~~~k) ||| (y &&& k)

/-- A cell with masked bytes of a vector register written. -/
def Cell.putV (x : Cell) (r : Reg) (y : Line) (mask : BitVec 64) : Cell :=
  { x with v := vset x.v r.toNat (mergeLine (x.rv r) y mask) }

/-- A cell with a predicate written; a write to p0 is discarded (R18). -/
def Cell.putP (x : Cell) (r : Reg) (y : U64) : Cell := if r = 0#5 then x else { x with p := vset x.p r.toNat y }

/-! The towers: ages, reads and writes. -/

/-- Tower offsets wrap modulo 2^23 (R56). -/
def towerWrap (x : Nat) : Nat := x % 8388608
/-- The bank of an offset (R56). -/
def bankOf (off : Nat) : Nat := towerWrap off / 131072
/-- The line of an offset, as an offset. -/
def lineOf (off : Nat) : Nat := towerWrap off / 64 * 64

/-- A bank's ages after line l (0 to 2047) was written or refreshed at wall cycle g (R75). -/
def BankAge.touch (b : BankAge) (l g : Nat) : BankAge :=
  { b with young := (l, g) :: b.young.filter (fun e => e.1 != l) }

/-- The lowest line from k on, among n, that is not listed as young. -/
def BankAge.firstOld (b : BankAge) : Nat → Nat → Option Nat
  | 0, _ => none
  | n + 1, k =>
    if 2048 ≤ k then none
    else if b.young.any (fun e => e.1 == k) then b.firstOld n (k + 1) else some k

/-- The oldest line of a bank and the wall cycle it dates from (R76). -/
def BankAge.oldest (b : BankAge) : Nat × Nat :=
  match b.firstOld 2049 b.next with
  | some l => (l, b.base)
  | none => b.young.getLastD (0, b.base)

/-- The bank after the sweep has refreshed its oldest line (R76). -/
def BankAge.sweep (b : BankAge) (g : Nat) : BankAge :=
  match b.firstOld 2049 b.next with
  | some l => { b with next := l + 1, young := (l, g) :: b.young }
  | none =>
    match b.young.getLast? with
    | some e => { b with young := (e.1, g) :: b.young.dropLast }
    | none => b

/-- A cell whose line at off was written or refreshed at wall cycle g. -/
def Cell.touch (x : Cell) (off g : Nat) : Cell :=
  { x with ages := mapFrom (fun k b => if k = bankOf off then b.touch (off % 131072 / 64) g else b) 0 x.ages }

/-- A cell with masked bytes of the line at off written (R60). A whole-line write leaves no corrupt byte behind. A command's
write without an active byte in the line resets the line's age as any other. (Log entry 83: DESIGN CHOICE.) -/
def Cell.writeLine (x : Cell) (off : Nat) (y : Line) (mask : BitVec 64) (g : Nat) : Cell :=
  let x := { x with tower := Store.setLine x.tower (lineOf off) y mask }
  let x := if mask = ~~~(0#64) then
      { x with badLines := x.badLines.filter (fun l => l != lineOf off), poisoned := x.poisoned.filter (fun l => l != lineOf off) }
    else x
  x.touch (lineOf off) g

/-- Bytes len of a cell's tower from off, as a number; offsets wrap (R56). -/
def Cell.readTower (x : Cell) (off len : Nat) : Nat :=
  natOfBytes ((List.range len).map fun k => Store.get x.tower (towerWrap (off + k)))

/-- The line of a cell's tower at off. -/
def Cell.readLine (x : Cell) (off : Nat) : Line := Store.line x.tower (lineOf off)

/-! Rings (R65 to R70). -/

/-- The number of bytes of a slot. -/
def Ring.slotBytes (r : Ring) : Nat := 64 * r.size
/-- The tower offset of line l of slot s. -/
def Ring.lineAt (r : Ring) (s l : Nat) : Nat := towerWrap (r.base + r.slotBytes * s + 64 * l)
/-- The filled count (R69). -/
def Ring.filled (r : Ring) : Nat := (r.tail - r.head).toNat
/-- The free count (R69). -/
def Ring.free (r : Ring) : Nat := (BitVec.ofNat 32 r.count - (r.claimed - r.head)).toNat
/-- The tag of slot s. -/
def Ring.tag (r : Ring) (s : Nat) : U32 := r.tags.getD s 0#32
/-- The ring with the tag of slot s written. -/
def Ring.setTag (r : Ring) (s : Nat) (t : U32) : Ring := { r with tags := r.tags.set s t }

/-- What a tag says of position q (R68). -/
inductive TagState where
  | arrived | pending | mismatch
  deriving DecidableEq, Repr

/-- The decision of ring_read for position q in slot s (R68). -/
def Ring.check (r : Ring) (q : U32) (s : Nat) : TagState :=
  if r.tag s = q then .arrived
  else if r.tag s = q - BitVec.ofNat 32 r.count then .pending
  else .mismatch

/-- TVAL of a tag mismatch (R42, R68). -/
def tagTval (found expected : U32) : U64 := (found ++ expected : BitVec 64)

/-- Slot and position of entry i (R68). -/
def Ring.position (r : Ring) (i : Nat) : U32 × Nat :=
  (r.head + BitVec.ofNat 32 i, (r.hslot + i) % Nat.max 1 r.count)

/-- The ring after a pop of n: HEAD, HSLOT and PHASE (R68). -/
def Ring.pop (r : Ring) (n : Nat) : Ring :=
  let h := r.hslot + n
  { r with head := r.head + BitVec.ofNat 32 n, hslot := h % Nat.max 1 r.count,
           phase := r.phase != (h / Nat.max 1 r.count % 2 == 1) }

/-- The tags of n positions from q on, in slots from s on, each made the tag of the lap before (R265). -/
def Ring.unpublish (r : Ring) : Nat → U32 → Nat → Ring
  | 0, _, _ => r
  | n + 1, q, s =>
    (r.setTag (s % Nat.max 1 r.count) (q - BitVec.ofNat 32 r.count)).unpublish n (q + 1#32) (s + 1)

/-- The ring after the acceptance of n tentative fills (R265); one without SPEC is skipped. -/
def Ring.accept (r : Ring) (n : U32) : Ring :=
  if !r.spec then r
  else
    let k := r.mark + n
    let extra := r.nexttag - k
    let r :=
      if !extra.msb && extra != 0#32 then
        let r := r.unpublish extra.toNat k (r.mfslot + n.toNat)
        { r with claimed := r.claimed - extra, nexttag := k, fslot := (r.mfslot + n.toNat) % Nat.max 1 r.count,
                 ttail := if !(r.ttail - k).msb && r.ttail != k then k else r.ttail,
                 fills := r.fills.map (fun f => if !(f.tag - k).msb then { f with discarded := true } else f) }
      else r
    { r with tail := r.ttail, spec := false }

/-- The ring after a change (R68, R243, R263, R265). A pop stops at TAIL (R243). -/
def Ring.apply (r : Ring) : RingOp → Ring
  | .claim n => { r with claimed := r.claimed + BitVec.ofNat 32 n }
  | .pub n => { r with tail := r.tail + BitVec.ofNat 32 n }
  | .pop n => r.pop (Nat.min n r.filled)
  | .mark => { r with mark := r.nexttag, mfslot := r.fslot, spec := true }
  | .accept n => r.accept n

/-- The ring after a change at wall cycle g: what HEAD was before the first pop of that cycle stays known (R243). -/
def Ring.popped (r old : Ring) (op : RingOp) (g : Nat) : Ring :=
  match op with
  | .pop _ => if old.popAt = g then r else { r with popAt := g, popFrom := old.head }
  | _ => r

/-- A full ring keeps a fill waiting (R67). -/
def Ring.full (r : Ring) : Bool := decide (r.count ≤ (r.nexttag - r.head).toNat)

/-- The ring after a fill has reserved its slot (R67), with the fill's record at the end of those under way. -/
def Ring.reserve (r : Ring) (ord : Option Nat) (lines : Nat → List (Nat × Line)) : Ring :=
  let n := r.nexttag
  let s := r.fslot
  { r with claimed := if r.nexttag = r.claimed then r.claimed + 1#32 else r.claimed,
           nexttag := n + 1#32, fslot := (s + 1) % Nat.max 1 r.count,
           fills := r.fills ++ [⟨n, s, ord, lines s, none, false⟩] }

/-- The ring after the fill f has published its tag: the tag, TTAIL and TAIL (R67, R264). -/
def Ring.publish (r : Ring) (f : Fill) : Ring :=
  let r := r.setTag f.slot f.tag
  let t := f.tag + 1#32
  let keep : Bool := r.explicit || (r.spec && !(f.tag - r.mark).msb)
  { r with ttail := t, tail := if keep then r.tail else t }

/-- Publish, in the order they began, the leading fills that are complete by wall cycle g: their lines were written
before it (R67: the tag is written at the end of the cycle after the last byte). The second part says whether any
fill completed. -/
def Ring.settle (g : Nat) : Nat → Ring → Ring × Bool
  | 0, r => (r, false)
  | n + 1, r =>
    match r.fills with
    | [] => (r, false)
    | f :: fs =>
      match f.written with
      | some w =>
        if w < g then
          let r := { r with fills := fs }
          if f.discarded then Ring.settle g n r else ((Ring.settle g n (r.publish f)).1, true)
        else (r, false)
      | none => (r, false)

/-! Raising a trap. -/

/-- The context with a trap raised in this cycle; a sequencer trap closes the packet (R139, R277). -/
def Ctx.raise (c : Ctx) (r : Raise) : Ctx :=
  let c := { c with raised := c.raised ++ [r] }
  if r.queue.isNone then { c with issue := { c.issue with closed := true } } else c

/-- TPC of a sequencer trap: the instruction at pc, or in a delay slot the slot's first instruction (R274, R277).
(Log entry 72: DEDUCED.) -/
def Issue.trapPc (s : Issue) : U64 := if s.slots = 0 then s.pc else s.packet

/-- A sequencer trap, precise at the instruction at pc (R274). -/
def Ctx.trapAt (c : Ctx) (code sub : BitVec 8) (tval : U64) : Ctx :=
  c.raise { code := code, sub := sub, tval := tval, queue := none, pc := c.issue.trapPc, after := false, access := none,
            early := false }

/-- An engine fault of queue q, precise at the entry that is starting (R274). -/
def Ctx.faultAt (c : Ctx) (q : Nat) (code sub : BitVec 8) (tval : U64) : Ctx :=
  c.raise { code := code, sub := sub, tval := tval, queue := some q, pc := 0#64, after := false, access := none,
            early := false }

/-- Cause codes (R274). -/
def causeIllegal : BitVec 8 := 0x01#8
def causePrivileged : BitVec 8 := 0x02#8
def causeMisaligned : BitVec 8 := 0x03#8
def causeTranslation : BitVec 8 := 0x04#8
def causeProtection : BitVec 8 := 0x05#8
def causeSchedule : BitVec 8 := 0x06#8
def causeTiming : BitVec 8 := 0x07#8
def causeFmtqEmpty : BitVec 8 := 0x08#8
def causeTapeFull : BitVec 8 := 0x09#8
def causeTapeRefill : BitVec 8 := 0x0A#8
def causeMotifMiss : BitVec 8 := 0x0B#8
def causeEarlyRead : BitVec 8 := 0x0C#8
def causeRmwClash : BitVec 8 := 0x0D#8
def causeChecksum : BitVec 8 := 0x0E#8
def causeResidue : BitVec 8 := 0x0F#8
def causeUncorrectable : BitVec 8 := 0x10#8
def causePreempt : BitVec 8 := 0x11#8
def causeTrapinsn : BitVec 8 := 0x12#8
def causeWatch : BitVec 8 := 0x13#8
def causeDouble : BitVec 8 := 0x1F#8

/-- The context with a detected error to be counted and logged (R411, R412). -/
def Ctx.note (c : Ctx) (cls : Nat) (cell : Option Nat) (detail : U64) : Ctx :=
  { c with outbox := c.outbox ++ [.event cls cell detail] }

/-- The cell that TVAL of UNCORRECTABLE names, for a tower line or an accumulator slot (R281). -/
def uncorrectableCell (t : U64) : Option Nat :=
  if t.extractLsb' 62 2 = 1#2 ∨ t.extractLsb' 62 2 = 2#2 then some (t.extractLsb' 56 4).toNat else none

/-! Landings. -/

/-- The context with a result due at the end of a cycle of the running clock (R26). -/
def Ctx.land (c : Ctx) (u : EngUnit) (due : Nat) (w : Write) (fl : Flags := .zero) : Ctx :=
  { c with landings := c.landings ++ [⟨c.ord, u, due, c.trap.tctx, w, fl⟩] }

/-- A sequencer result of latency n; a result for s0 is discarded (R26, R145). -/
def Ctx.putS (c : Ctx) (d : Reg) (x : U64) (lat : Nat) : Ctx :=
  if d = 0#5 then c else c.land .seq (c.now + lat - 1) (.s d x)

/-- A branch target, latency 1 (R156). -/
def Ctx.putB (c : Ctx) (n : BitVec 2) (x : U64) : Ctx := c.land .seq c.now (.b n x)

/-- A condition, latency 1 (R158). -/
def Ctx.putC (c : Ctx) (n : BitVec 3) (x : Bool) : Ctx := if n = 0#3 then c else c.land .seq c.now (.c n x)

/-- The context with sticky flags set (R104). -/
def Ctx.setFlags (c : Ctx) (f : Flags) : Ctx := { c with sys := { c.sys with aflags := c.sys.aflags.or f } }

/-- Consecutive slots of an accumulator store written. -/
def Cell.putAcc (x : Cell) (lo : Nat) (xs : List U32) : Cell :=
  { x with acc := Store.setList x.acc lo xs,
           badSlots := x.badSlots.filter (fun s => !(decide (lo ≤ s) && decide (s < lo + xs.length))) }

/-- The record of the fill of ring m that the command numbered ord began. -/
def Ring.completeOrd (r : Ring) (ord g : Nat) : Ring :=
  { r with fills := r.fills.map (fun f => if f.ord = some ord then { f with written := some g, lines := [] } else f) }

/-- A ring after a captured change that a save area held (R407); a fill that the change completes is under way no more. -/
def Ring.take (r : Ring) (x : RingChange) (ord : Nat) : Ring :=
  let r := match x.tag with | some t => r.setTag t.1 t.2 | none => r
  { r with head := x.head.getD r.head, tail := x.tail.getD r.tail, ttail := x.ttail.getD r.ttail, claimed := x.claimed.getD r.claimed,
           nexttag := x.nexttag.getD r.nexttag, hslot := x.hslot.getD r.hslot, fills := r.fills.filter fun f => f.ord != some ord }

/-- Perform one write (R26, R272). g is the wall cycle. -/
def Ctx.write (c : Ctx) (trap : Bool) (g : Nat) : Write → Ctx
  | .s r x => c.setBank trap (if trap then c.trapBank.putS r x else c.norm.putS r x)
  | .b n x => c.setBank trap (if trap then c.trapBank.putB n x else c.norm.putB n x)
  | .c n x => c.setBank trap (if trap then c.trapBank.putC n x else c.norm.putC n x)
  | .v n r x mask => c.setCell n ((c.cell n).putV r x mask)
  | .p n r x => c.setCell n ((c.cell n).putP r x)
  | .acc n lo xs => c.setCell n ((c.cell n).putAcc lo xs)
  | .accZero n lo k =>
    let x := c.cell n
    c.setCell n { x with acc := Store.clear x.acc lo k,
                         badSlots := x.badSlots.filter (fun s => !(decide (lo ≤ s) && decide (s < lo + k))) }
  | .ring m op => c.mapCells (fun _ x => x.setRing m (((x.ring m).apply op).popped (x.ring m) op g))
  | .fillDone n m ord =>
    let x := c.cell n
    let r := (x.ring m).completeOrd ord (g - 1)
    let s := Ring.settle g r.fills.length r
    let c := c.setCell n (x.setRing m s.1)
    if s.2 then { c with latch := { c.latch with ring := true } } else c
  | .ringTo n m x ord =>
    let y := c.cell n
    let r := (y.ring m).take x ord
    let c := c.setCell n (y.setRing m (Ring.settle g r.fills.length r).1)
    if x.ttail.isSome then { c with latch := { c.latch with ring := true } } else c
  | .portEmpty n k => let x := c.cell n; c.setCell n { x with ports := vset x.ports k none }
  | .checksum t countOnly =>
    let c := c.note 1 none t
    let c := { c with sys := { c.sys with chkCount := if c.sys.chkCount = 0xFFFF#16 then c.sys.chkCount else c.sys.chkCount + 1#16 } }
    if countOnly then c
    else c.raise { code := causeChecksum, sub := 0#8, tval := t, queue := some 1, pc := 0#64, after := true, access := none, early := false }
  | .flagsOnly => c

/-- A landing that falls due by the end of a cycle of its clock. -/
def Landing.isDue (l : Landing) (trap : Bool) (t : Nat) : Bool := l.trap == trap && decide (l.due ≤ t)

/-- Perform landings in a given order. -/
def Ctx.writeAll (c : Ctx) (g : Nat) : List Landing → Ctx
  | [] => c
  | l :: ls => Ctx.writeAll ((c.write l.trap g l.write).setFlags l.flags) g ls

/-- Insert a landing after those of no later program order. -/
def insertLanding (l : Landing) : List Landing → List Landing
  | [] => [l]
  | k :: ks => if l.ord < k.ord then l :: k :: ks else k :: insertLanding l ks

/-- Landings in program order: at the end of one cycle the later instruction's result is kept (R26). -/
def sortLandings : List Landing → List Landing
  | [] => []
  | l :: ls => insertLanding l (sortLandings ls)

/-- Perform the results due by the end of cycle t of a clock (R26). -/
def Ctx.writeDue (c : Ctx) (trap : Bool) (t g : Nat) : Ctx :=
  let due := c.landings.filter (fun l => l.isDue trap t)
  Ctx.writeAll { c with landings := c.landings.filter (fun l => !l.isDue trap t) } g (sortLandings due.reverse)

/-! Tower accesses of a cycle (R60 to R62, R308 to R311). -/

/-- The number of lines an access counts for (R310): atomic paths use none. -/
def TowerAct.lines : TowerAct → Nat
  | .atomicWrite _ _ => 0
  | _ => 1

/-- A read of the bank. -/
def TowerAct.isRead : TowerAct → Bool
  | .read _ _ => true
  | _ => false

/-- Whether an access lies in a bank inside another command's window (R62). -/
def Window.covers (w : Window) (o : TowerOp) : Bool :=
  w.trap == o.trap && w.cell == o.cell && w.bank == bankOf o.off && decide (w.first ≤ o.cycle) &&
    decide (o.cycle ≤ w.last) && w.ord != o.ord

/-- Program order, then the order of the tables of R308 and R309. -/
def TowerOp.before (x y : TowerOp) : Bool := decide (x.ord < y.ord) || (x.ord == y.ord && decide (x.rank ≤ y.rank))

/-- Insert an access by rank. -/
def insertOp (o : TowerOp) : List TowerOp → List TowerOp
  | [] => [o]
  | k :: ks => if k.before o then k :: insertOp o ks else o :: k :: ks

/-- Accesses by rank (R311). -/
def sortOps : List TowerOp → List TowerOp
  | [] => []
  | o :: os => insertOp o (sortOps os)

/-- Whether two accesses of one cycle are written as one by the matrix write path (R309). -/
def TowerOp.joins (x y : TowerOp) : Bool :=
  match x.act, y.act with
  | .matrixWrite _ _, .matrixWrite _ _ => x.ord == y.ord
  | _, _ => false

/-- Whether an access fits beside those already taken in its cell and cycle (R310). -/
def TowerOp.fits (o : TowerOp) (taken : List TowerOp) : Bool :=
  match o.act with
  | .atomicWrite _ _ => true
  | _ =>
    decide ((taken.map fun t => t.act.lines).sum < 8) &&
      taken.all (fun t => t.act.lines == 0 || bankOf t.off != bankOf o.off || t.act.isRead != o.act.isRead || t.joins o)

/-- An access that a window lets through: nothing passes into another's window, but an access performed through the
atomic path is judged when its command starts (R62). -/
def Ctx.windowed (c : Ctx) (o : TowerOp) : Bool :=
  match o.act with
  | .atomicWrite _ _ => false
  | _ => c.windows.any (fun w => w.covers o)

/-- The outcome of an access in its bank cycle. -/
inductive Outcome1 where
  /-- performed -/
  | ok
  /-- a bank clash (R311) -/
  | clash
  /-- inside another command's window (R62) -/
  | window
  deriving DecidableEq, Repr

/-- Judge the accesses of one cell and cycle in rank order (R311). -/
def judge (c : Ctx) : List TowerOp → List TowerOp → List (TowerOp × Outcome1)
  | _, [] => []
  | taken, o :: os =>
    if c.windowed o then (o, .window) :: judge c taken os
    else if o.fits taken then (o, .ok) :: judge c (o :: taken) os
    else (o, .clash) :: judge c taken os

/-- The context with the bytes an access read delivered: to a register landing or to a matrix command. -/
def Ctx.deliver (c : Ctx) (o : TowerOp) (x : Nat) (len : Nat) : ReadTo → Ctx
  | .vreg r pos mask due =>
    let y : Line := BitVec.ofNat 512 (x * 256 ^ pos)
    let m : BitVec 64 := mask &&& BitVec.ofNat 64 ((2 ^ len - 1) * 2 ^ pos)
    { c with landings := c.landings ++ [⟨o.ord, o.unit, due, o.trap, .v o.cell r y m, .zero⟩] }
  | .operand which l =>
    { c with flights := c.flights.map (fun f =>
        if f.ord = o.ord then { f with lines := (o.cell, which, l, BitVec.ofNat 512 x) :: f.lines } else f) }
  | .old _ | .none => c

/-- The access numbered like this one, of a given rank, no longer records old bytes (R200). -/
def TowerOp.loses (o : TowerOp) (dest : ReadTo) (x : TowerOp) : TowerOp :=
  match dest with
  | .old rank => if x.ord = o.ord ∧ x.cell = o.cell ∧ x.rank = rank then { x with keep := none } else x
  | _ => x

/-- Perform one judged read: a window lets it return the bytes before the atomic's write, a bank clash returns zeros
and sets RMWCLASH (R62, R311). -/
def Ctx.doRead (c : Ctx) (o : TowerOp) (v : Outcome1) : Ctx :=
  match o.act with
  | .read len dest =>
    match v with
    | .clash => (({ c with towerOps := c.towerOps.map (o.loses dest) }).deliver o 0 len dest).setFlags .ofClash
    | _ => c.deliver o ((c.cell o.cell).readTower o.off len) len dest
  | _ => c

/-- Perform one judged write; one that clashes is discarded and sets RMWCLASH (R62, R311). -/
def Ctx.doWrite (c : Ctx) (g : Nat) (o : TowerOp) (v : Outcome1) : Ctx :=
  match o.act with
  | .read _ _ => c
  | .write x mask | .matrixWrite x mask | .atomicWrite x mask =>
    match v with
    | .ok => c.setCell o.cell ((c.cell o.cell).writeLine o.off x mask g)
    | _ => c.setFlags .ofClash

/-- Old bytes for the tape (R250): the command and cell they belong to, their place and number, and the bytes. -/
structure OldBytes where
  ord : Nat
  cell : Nat
  place : Nat
  len : Nat
  bytes : Nat
  deriving DecidableEq, Repr

/-- The old bytes that a write replaces, as they stand now. -/
def Ctx.oldOf (c : Ctx) (o : TowerOp) : Option OldBytes :=
  o.keep.map fun k => ⟨o.ord, o.cell, k.1, k.2, (c.cell o.cell).readTower o.off k.2⟩

/-- A write of the same command to the line that the old bytes begin or end in. -/
def OldBytes.meets (r : OldBytes) (o : TowerOp) : Bool :=
  o.ord == r.ord && o.cell == r.cell && o.keep.isNone &&
    (lineOf o.off == lineOf r.place || lineOf o.off == lineOf (r.place + r.len - 1)) &&
    match o.act with | .write _ _ => true | _ => false

/-- A tape write with the old bytes put in. -/
def TowerOp.fill (o : TowerOp) (r : OldBytes) : TowerOp :=
  if r.meets o then
    match o.act with
    | .write x mask =>
      let base := lineOf o.off
      let shift (v k : Nat) : Nat := if base ≤ r.place then v <<< (k * (r.place - base)) else v >>> (k * (base - r.place))
      { o with act := .write (mergeLine x (BitVec.ofNat 512 (shift r.bytes 8)) (mask &&& BitVec.ofNat 64 (shift (2 ^ r.len - 1) 1))) mask }
    | _ => o
  else o

/-- Perform all reads of a list, then all writes: reads see the bytes before the cycle's writes (R61), and a record's old bytes
are those before its store's write (R250): they go to the lines of the tape that are still to be written. -/
def Ctx.doOps (c : Ctx) (g : Nat) (js : List (TowerOp × Outcome1)) : Ctx :=
  let c := js.foldl (fun c j => c.doRead j.1 j.2) c
  let olds := js.filterMap fun j => c.oldOf j.1
  let put (o : TowerOp) : TowerOp := olds.foldl TowerOp.fill o
  let c := { c with towerOps := c.towerOps.map put }
  (js.map fun j => (put j.1, j.2)).foldl (fun c j => c.doWrite g j.1 j.2) c

/-- The accesses of cycle t of a clock, judged cell by cell. -/
def Ctx.judged (c : Ctx) (trap : Bool) (t : Nat) : List (TowerOp × Outcome1) :=
  let now := sortOps (c.towerOps.filter fun o => o.trap == trap && o.cycle == t)
  (List.range 16).flatMap fun n => judge c [] (now.filter fun o => o.cell == n)

/-- The cycles of a clock from t on in which accesses are still to be made, in order. -/
def Ctx.opCycles (c : Ctx) (trap : Bool) (t : Nat) : List Nat :=
  let last := (c.towerOps.filter fun o => o.trap == trap).foldl (fun n o => Nat.max n o.cycle) t
  (List.range (last + 1 - t)).map (t + ·)

/-- What the accesses placed so far will bring about from cycle t of a clock on: the context after them, and the old bytes that stand
before each write that keeps them. -/
def Ctx.foresee (c : Ctx) (trap : Bool) (t g : Nat) : Ctx × List OldBytes :=
  (c.opCycles trap t).foldl (fun (d : Ctx × List OldBytes) t =>
    let js := d.1.judged trap t
    let d1 := js.foldl (fun x j => x.doRead j.1 j.2) d.1
    (d.1.doOps g js, d.2 ++ js.filterMap fun j => d1.oldOf j.1)) (c, [])

/-- The accesses of cycle t with the old bytes in the tape lines among them: those of a word whose own write is still to come are
what will stand there (R250, R251). (Log entry 59: DESIGN CHOICE.) -/
def Ctx.withOld (c : Ctx) (trap : Bool) (t g : Nat) (js : List (TowerOp × Outcome1)) : List (TowerOp × Outcome1) :=
  if c.towerOps.any (fun o => o.keep.isSome && js.any fun j => j.1.ord == o.ord && j.1.keep.isNone && !j.1.act.isRead) then
    let olds := (c.foresee trap t g).2
    js.map fun j => (olds.foldl TowerOp.fill j.1, j.2)
  else js

/-- Perform the tower accesses of cycle t of a clock, and close the windows that end with it (R61, R62, R311). -/
def Ctx.towerCycle (c : Ctx) (trap : Bool) (t g : Nat) : Ctx :=
  let js := c.withOld trap t g (c.judged trap t)
  let c := { c with towerOps := c.towerOps.filter fun o => !(o.trap == trap && o.cycle == t) }
  let c := c.doOps g js
  { c with windows := c.windows.filter fun w => !(w.trap == trap && decide (w.last ≤ t)) }

/-! The end of an instruction and of a packet. -/

/-- The end of a loop pass, when issue has come to the end of the body (R44). -/
def Ctx.endPass (c : Ctx) : Ctx :=
  match c.loop with
  | some l =>
    if !c.trap.tctx && c.issue.pc == l.body + BitVec.ofNat 64 (4 * l.len) && !l.pending then
      { c with loop := some { l with pending := true, pass := l.pass + 1, cut := none } }
    else c
  | none => c

/-- The context with its delay slots and its loop pass advanced at the end of a packet: one delay slot fewer where slots
remain, the transfer after the second, and the end of a loop pass at the end of the body (R28, R44). -/
def Ctx.turnPacket (c : Ctx) : Ctx :=
  let s := { c.issue with closed := true, checked := false, done := 0, after := c.issue.pc }
  let s :=
    if s.slots = 1 then { s with slots := 0, taken := false, pc := if s.taken then s.target else s.pc }
    else { s with slots := s.slots - 1 }
  ({ c with issue := s }).endPass

/-- The address of the first packet that has not issued, between two packets: between two passes of a loop that is the first of the body
when another pass is to come, and what stands after the body when none is (R44, R49, R274). -/
def Ctx.nextPc (c : Ctx) : U64 :=
  match c.loop with
  | some l =>
    if !l.pending || c.trap.tctx || c.issue.again.isSome then c.issue.pc
    else if l.pass < l.passes ∨ (l.draining = true ∧ l.leftAt < l.whole) then l.body
    else l.body + BitVec.ofNat 64 (4 * l.len)
  | none => c.issue.pc

/-- A stop point of a graceful request: with NOTIFY it raises PREEMPT, with the address that issue resumes at, and
otherwise the context drains (R286, R287). -/
def Ctx.stopPoint (c : Ctx) (pc : U64) : Ctx :=
  if c.preempt.notify && !c.preempt.notified then
    ({ c with preempt := { c.preempt with notified := true } }).raise
      { code := causePreempt, sub := 0#8, tval := 0#64, queue := none, pc := pc, after := false, access := none, early := false }
  else { c with preempt := { c.preempt with stop := .draining } }

/-- The context after its packet has issued in full. -/
def Ctx.endPacket (c : Ctx) : Ctx :=
  let c := c.turnPacket
  if c.issue.yields then ({ c with issue := { c.issue with yields := false } }).stopPoint c.nextPc else c

/-- The context after an instruction of n words whose E bit is e has taken effect. A wait that issues again is followed by
what its packet still held (R286). -/
def Ctx.advance (c : Ctx) (e : Bool) (n : Nat) : Ctx :=
  let next : U64 × Bool := c.issue.again.getD (c.issue.pc + BitVec.ofNat 64 (4 * n), e)
  let c := { c with ord := c.ord + 1, issue := { c.issue with pc := next.1, done := c.issue.done + 1, again := none } }
  if next.2 then c.endPacket else c

/-- The context when its sequencer stalls: nothing more issues in this cycle, and the instruction has not issued. -/
def Ctx.stall (c : Ctx) : Ctx := { c with issue := { c.issue with closed := true } }

/-- ILLEGAL at an instruction, with its words (R138). -/
def Ctx.illegal (c : Ctx) (i : Instr) (sub : BitVec 8) : Ctx := c.trapAt causeIllegal sub i.tvalWords

/-- Run an instruction's meaning after the checks that look at it alone (R139). -/
def Ctx.checked (c : Ctx) (i : Instr) (f : Ctx → Ctx) : Ctx :=
  match i.staticFault with
  | some sub => c.illegal i sub
  | none => f c

/-! Taking a trap, and the return (R271 to R279). -/

/-- The sequence number of the first entry of a queue that has not started, or the queue's next number (R275). -/
def Ctx.cutOf (c : Ctx) (q : Nat) : BitVec 16 :=
  match (vget [] c.eng.q q).find? (fun e => !e.trap) with
  | some e => e.seq
  | none => vget 0#16 c.eng.seq q

/-- TCUT (R275): Q3 in the top field. -/
def Ctx.cuts (c : Ctx) : U64 := (c.cutOf 3 ++ c.cutOf 2 : BitVec 32) ++ (c.cutOf 1 ++ c.cutOf 0 : BitVec 32)

/-- CAUSE of a trap (R275). -/
def Raise.cause (r : Raise) : U64 :=
  let q : Nat := r.queue.getD 0
  BitVec.ofNat 64 ((if r.queue.isSome then 2 ^ 20 else 0) + q * 2 ^ 16 + r.sub.toNat * 256 + r.code.toNat)

/-- The bytes of the entry record (R276): the normal bank's images, the branch's decision and target, the resume
address. -/
def entryRecord (b : Bank) (taken : Bool) (target resume : U64) : List Byte :=
  (b.s.toList.set 0 0#64).flatMap (fun x => bytesOfNat 8 x.toNat)
    ++ b.b.toList.flatMap (fun x => bytesOfNat 8 x.toNat)
    ++ [(b.c ||| 1#8 : BitVec 8), if taken then 1#8 else 0#8]
    ++ List.replicate 6 0#8
    ++ bytesOfNat 8 target.toNat
    ++ bytesOfNat 8 resume.toNat
    ++ List.replicate 200 0#8

/-- A read whose value reaches a register. -/
def TowerOp.toRegister (o : TowerOp) : Bool := match o.act with | .read _ (.vreg _ _ _ _) => true | _ => false

/-- A read as it stands once its value is known: its bank cycle remains. -/
def TowerOp.spent (o : TowerOp) : TowerOp :=
  match o.act with
  | .read len (.vreg _ _ _ _) => { o with act := .read len .none }
  | _ => o

/-- The results of the reads that a stop leaves to be made, captured at the stop (R272), and the old bytes that a tape push
still lacks: what an uninterrupted run would have found. -/
def Ctx.captureReads (c : Ctx) (g : Nat) : Ctx :=
  if c.towerOps.any fun o => o.trap == c.trap.tctx && (o.toRegister || o.keep.isSome) then
    let sim := c.foresee c.trap.tctx c.now g
    { c with
      landings := sim.1.landings
      towerOps := c.towerOps.map fun o => if o.trap == c.trap.tctx then (sim.2.foldl TowerOp.fill o).spent else o }
  else c

/-- What a stop does to accesses under way: a matrix command finishes reading its operands, what other reads will find is
captured (R272), an access in a window meets its outcome and the atomic completes, so that no window is open when the
context comes back (R62). -/
def Ctx.settleStop (c : Ctx) (g : Nat) : Ctx :=
  let c := c.captureReads g
  let isOperand (o : TowerOp) : Bool := match o.act with | .read _ (.operand _ _) => true | _ => false
  let isAtomic (o : TowerOp) : Bool := match o.act with | .atomicWrite _ _ => true | _ => false
  let mine := sortOps (c.towerOps.filter fun o => o.trap == c.trap.tctx)
  let met := mine.filter fun o => !isAtomic o && c.windowed o
  let rest := mine.filter fun o => !isAtomic o && !c.windowed o
  let ops := rest.filter isOperand
  let c1 := { c with towerOps := c.towerOps.filter (fun (o : TowerOp) => o.trap != c.trap.tctx) ++ rest.filter (fun (o : TowerOp) => !isOperand o) }
  let c2 := c1.doOps g (met.map (fun o => (o, Outcome1.window)) ++ ops.map (fun o => (o, Outcome1.ok)))
  let c3 := c2.doOps g ((mine.filter isAtomic).map (fun o => (o, Outcome1.ok)))
  { c3 with windows := c3.windows.filter fun w => w.trap != c.trap.tctx }

/-- The sequencer's place when a stop freezes it: a wait in progress issues again, whatever stopped it, with the delay slots
that stood before it (R30, R286), an EXIT issues again (R51), a stalled instruction has not issued; a wait whose condition
is true has completed. (Log entry 73: DESIGN CHOICE.) -/
def Issue.frozen (s : Issue) : Issue :=
  let again := some (if s.done = 0 then s.after else s.pc, decide (s.done = 0))
  let s := { s with closed := true, checked := false, done := 0 }
  if s.exited then { s with exited := false, pc := s.exitPc, wait := .none }
  else
    match s.wait with
    | .waitev _ | .waitf _ _ | .waite _ _ | .flag _ _ _ _ | .twait _ =>
      { s with wait := .none, again := again, pc := s.waitPc, slots := s.waitSlots, taken := s.waitTaken }
    | _ => { s with wait := .none }

/-- The access of a wait on a flag. -/
def GAccess.isWait (a : GAccess) : Bool := match a.kind with | .fwait _ => true | _ => false

/-- While a handler runs, a wait on a flag that the normal context has in progress, or an access behind it in its packet: it stands until
the return, after which the wait goes on (R84, R286). (Log entry 74: DESIGN CHOICE.) -/
def Ctx.standing (c : Ctx) (a : GAccess) : Bool :=
  c.trap.tctx && !a.trap && c.glob.queue.any fun w => w.isWait && !w.trap && !w.performed && (w.id == a.id || decide (w.ord < a.ord))

/-- An access that is performed after the return: one that a trap record marks as pending (R152), one whose service a stop has abandoned
(R397), or one that stands behind a wait. -/
def Ctx.isPending (c : Ctx) (a : GAccess) : Bool :=
  (decide (some a.ord = c.trap.access) && !a.trap) || a.walk == .abandoned || c.standing a

/-- The context without its waits on flags: what stood behind them is performed. -/
def Ctx.dropWaits (c : Ctx) : Ctx := { c with glob := { c.glob with queue := c.glob.queue.filter fun a => !a.isWait } }

/-- An access at a stop of its context: the service of a miss is abandoned (R397). -/
def GAccess.abandon (a : GAccess) : GAccess :=
  match a.walk with
  | .notice _ | .posting => { a with walk := .abandoned }
  | .walking => if a.missed then { a with walk := .abandoned } else a
  | _ => a

/-- An access as its context goes on: one whose service was abandoned walks afresh in wall cycle g (R397). -/
def GAccess.goOn (a : GAccess) (g : Nat) : GAccess := if a.walk = .abandoned then { a with walk := .walking, ready := g } else a

/-- A wait of a BAR. -/
def Wait.ofBar : Wait → Bool
  | .flag _ _ _ bar => bar
  | _ => false

/-- The context with its sequencer frozen: a wait that issues again takes back the end of the loop pass that its packet
made (R46, R286), a stopped BAR of the normal context has made its increment (R275), and no miss of the context is served any more
(R397). -/
def Ctx.freeze (c : Ctx) : Ctx :=
  let fz := c.issue.frozen
  let undo : Bool := fz.again.isSome && c.issue.again.isNone
  { c with
    issue := fz
    time := { c.time with holding := 0#8 }
    trap := { c.trap with barw := c.trap.barw || (c.issue.wait.ofBar && !c.trap.tctx) }
    glob := { c.glob with queue := c.glob.queue.map fun a => if a.trap = c.trap.tctx then a.abandon else a }
    loop := if undo then c.loop.map (fun l => if l.pending then { l with pending := false, pass := l.pass - 1 } else l)
            else c.loop }

/-- The trap record of a stop: CAUSE, TPC, TVAL, TCUT, DSLOT, PACC, the entry record, and the handler's first packet 16
wall cycles after the stop cycle, which is wall cycle g (R277). The panel's clock stands at the cycle that follows the
stop cycle. (Log entry 57: DEDUCED.) What is left of an engine's occupancy passes in wall cycles during the stop.
(Log entry 88: DEDUCED.) -/
def Ctx.enterTrap (c : Ctx) (r : Raise) (g : Nat) : Ctx :=
  let c := c.freeze
  let fz := c.issue
  let tpc := if r.queue.isSome then c.nextPc else r.pc
  let resume := if r.access.isSome then c.nextPc else 0#64
  let showTarget := fz.slots ≠ 0 ∧ fz.taken = true
  let rec1 := entryRecord c.norm (decide (fz.slots ≠ 0) && fz.taken) (if showTarget then fz.target else 0#64) resume
  let vector := 0x00FF000000100000#64 + BitVec.ofNat 64 (64 * (c.trap.offset.toNat + r.code.toNat))
  let left : Nat := (c.eng.free.toList.map fun t => t - c.time.ptime).foldl Nat.max 0
  { c with
    raised := []
    trapMem := Store.setList c.trapMem 0x1E00 rec1
    eng := { c.eng with freeTrap := Vector.replicate 4 (c.time.xtime + (left - 15)) }
    trap := { c.trap with tctx := true, cause := r.cause, tpc := tpc, tval := r.tval, tcut := c.cuts,
                          pacc := r.access.isSome, access := r.access, dslot := BitVec.ofNat 2 fz.slots,
                          barw := c.trap.barw, fatal := r.code == causeUncorrectable, preempts := r.code == causePreempt,
                          frozen := fz, entryOrd := c.ord, completed := r.after }
    issue := { pc := vector, wait := .until (g + 16) } }

/-- The normal context that a trap has frozen, as it stood at the stop. -/
def Ctx.unfrozen (c : Ctx) : Ctx := { c with trap := { c.trap with tctx := false }, issue := c.trap.frozen }

/-- The context takes note of when it first raises UNCORRECTABLE (R370). -/
def Ctx.seeError (c : Ctx) (r : Raise) (g : Nat) : Ctx :=
  if r.code = causeUncorrectable ∧ c.trap.errorAt = none then { c with trap := { c.trap with errorAt := some g } } else c

/-- Taking a trap: the one shared operation (R277). g is the wall cycle of the stop. A trap raised in trap context
enters the double-fault halt instead (R278); an uncorrectable error in an uncommitted re-executable node enters no
handler (R281). -/
def Ctx.takeTrap (c : Ctx) (r : Raise) (g : Nat) : Ctx :=
  let c := (if r.code == causeUncorrectable then c.note 3 (uncorrectableCell r.tval) r.tval else c).seeError r g
  if r.code == causeUncorrectable && c.id.node then
    { c with raised := [], preempt := { c.preempt with stop := .reexec } }
  else if c.trap.tctx then ({ c with raised := [], trap := { c.trap with halted := some r } }).note 7 none 0#64
  else (c.settleStop g).enterTrap r g

/-- Which of the traps raised in one cycle is taken: UNCORRECTABLE, then the sequencer's, then engine faults by
ascending queue (R277). -/
def Raise.rank (r : Raise) : Nat :=
  if r.code = causeUncorrectable then 0 else match r.queue with | none => 1 | some q => 2 + q

/-- The first of the highest rank. -/
def pickRaise : List Raise → Option Raise
  | [] => none
  | r :: rs =>
    match pickRaise rs with
    | some s => if s.rank < r.rank then some s else some r
    | none => some r

/-- The deferred fault after some of a cycle's faults were not taken: only a fault whose entry has completed is kept,
and of several that of the lowest queue, the earliest (R277). -/
def Ctx.defer (c : Ctx) (r : Raise) : Ctx :=
  if !r.after then c
  else
    let queueOf (x : U64) : Nat := (x.extractLsb' 16 4).toNat
    match c.trap.deferred with
    | some d =>
      if (r.queue.getD 0) < queueOf d.cause then
        { c with trap := { c.trap with deferred := some ⟨r.cause, r.tval⟩ } }
      else c
    | none => { c with trap := { c.trap with deferred := some ⟨r.cause, r.tval⟩ } }

/-- The bank whose images stand in the entry record (R276, R279); the image of s0 and bit 0 of the conditions are
ignored. -/
def Ctx.imagesOf (c : Ctx) : Bank :=
  let word (a : Nat) : U64 := BitVec.ofNat 64 (Store.num c.trapMem a 8)
  { s := vmap (fun k _ => if k = 0 then 0#64 else word (0x1E00 + 8 * k)) c.norm.s
    b := vmap (fun k _ => word (0x1F00 + 8 * k)) c.norm.b
    c := Store.get c.trapMem 0x1F20 }

/-- A kind of access to memory. -/
def GKind.memory : GKind → Bool
  | .finc _ | .fset _ | .fread _ | .remoteFinc _ _ | .fwait _ => false
  | _ => true

/-- An access that the trap record marks as pending, performed afresh from the cycle t on (R152). -/
def GAccess.afresh (a : GAccess) (t g : Nat) : GAccess :=
  { a with walk := if a.kind.memory then .walking else a.walk, ready := g, due := t + 11, performed := false, value := none, returned := false }

/-- The return from a trap, the third step of R279: s, b and c reload from the entry record and the first normal packet
issues 16 wall cycles after g. Results of the handler's sequencer instructions that are still in flight are written
to the trap bank. -/
def Ctx.leaveTrap (c : Ctx) (g : Nat) : Ctx :=
  let late := c.landings.filter (fun l => l.trap)
  let c := Ctx.writeAll { c with landings := c.landings.filter (fun l => !l.trap) } g (sortLandings late.reverse)
  let fz := c.trap.frozen
  let resume : U64 := BitVec.ofNat 64 (Store.num c.trapMem 0x1F30 8)
  let pc := if c.trap.pacc then resume else c.trap.tpc
  let taken := bit (Store.get c.trapMem 0x1F21) 0
  let target : U64 := BitVec.ofNat 64 (Store.num c.trapMem 0x1F28 8)
  let slots := c.trap.dslot.toNat
  let again := if pc = fz.pc then fz.again else none
  let kept (a : GAccess) : List GAccess :=
    if decide (some a.ord = c.trap.access) && !a.trap then
      (if c.trap.pacc then [a.afresh c.time.ptime g] else [])
    else if a.isWait && again.isNone then []
    else [if a.trap then a else a.goOn g]
  -- a read of an image that the handler has skipped is a fetch that is not completed (R258)
  let skipped (l : Loading) : Loading := if !c.trap.pacc && some l.ord == c.trap.access && !l.trap then { l with failed := true } else l
  let c :=
    { c with
      norm := c.imagesOf
      trap := { c.trap with tctx := false, pacc := false, access := none, dslot := 0#2,
                            barw := c.trap.barw && again.isSome }
      glob := { c.glob with queue := c.glob.queue.flatMap kept }
      motif := { c.motif with load := c.motif.load.map skipped }
      issue := { fz with pc := pc, slots := slots, taken := taken && decide (slots ≠ 0), target := target, again := again,
                         done := 0, closed := true, checked := false, wait := .until (g + 16) } }
  if again.isSome then c else c.endPass

end Sys2Proof.Machine
end

