-- ==== Sys2Proof/Machine/State.lean ====
section
/-!
DEFINITION. The state of the package: the panel contexts and what they share (global memory with its views, flag files,
translation units, column engines), the host interface, the matcher, the slot table, the steward, the fleet page's
figures, and the agenda, plain data that says which agent acts next. State.reset is the package right after reset.
-/

namespace Sys2Proof.Machine

/-- Reasons for which the machine stops. -/
inductive Fault where
  /-- Raised by the meaning of every panel instruction when no context is bound to the panel that it would issue on;
  no program can bring this about, since only bound contexts issue (R289). Safe. -/
  | noContext (panel : Nat)
  deriving DecidableEq, Repr

/-- Reasons for which an instruction is rejected. -/
inductive Refusal where
  /-- Raised by an arm of the dispatcher whose instruction has no meaning in this model. Safe. -/
  | notModelled (mnemonic : String)
  deriving DecidableEq, Repr

/-! Global memory. -/

/-- An agent of the consistency model (R80); the steward writes as the host does, at system scope. -/
inductive Agent where
  /-- a context: its TASKPANEL.INDEX and its TASKID, which it keeps on other panels -/
  | panel (p serial : Nat)
  /-- a column job, with the TASKID of its context and its TASKPANEL.INDEX, 0 for a COPY -/
  | job (id task index : Nat)
  | host
  | span
  | steward
  deriving DecidableEq, Repr

/-- A write that has been performed at its home and that some view has not applied (R86). Its place in the list is its
place in the coherence order of every byte it writes (R83). -/
structure GWrite where
  id : Nat
  agent : Agent
  /-- the wall cycle in which it was performed -/
  born : Nat
  /-- host memory, not HBM -/
  onHost : Bool
  addr : Nat
  data : List Byte
  /-- places of the data that it leaves as they are (R82) -/
  holes : List Nat := []
  /-- the views that hold it: bits 0 to 3 the dies', bit 4 the host's -/
  views : BitVec 5
  /-- the writes that causally precede it, with the views each precedence binds -/
  needs : List (Nat × BitVec 5)
  /-- a release: the views it is applied to at one instant (R88) -/
  together : BitVec 5
  deriving DecidableEq, Repr

/-- An entry of a translation unit (R393). -/
structure TlbEntry where
  /-- of the span table (R399) -/
  span : Bool
  va : Nat
  size : Nat
  pa : Nat
  leaf : U64
  deriving DecidableEq, Repr

/-- A translation miss that the steward was asked to serve (R396, R398). -/
structure Notice where
  number : Nat
  va : U64
  access : Nat
  panel : Nat
  sheet : Nat
  level : Nat
  /-- the wall cycle in which FAULTLIM passes -/
  deadline : Nat
  /-- it stands in the notice ring; otherwise it waits for room there -/
  posted : Bool
  /-- FAULTLIM has passed without a reply -/
  expired : Bool := false
  deriving DecidableEq, Repr

/-- How far a column job has come. -/
inductive JobPhase where
  /-- in its stream; no byte of the card has been read -/
  | waiting
  /-- reading the card (R230) -/
  | card
  /-- the card has been read and the footprint found; waiting for conflicting jobs (R239) -/
  | matched
  | running
  /-- all accesses made; targets on other packages may still have to acknowledge (R237, R374) -/
  | draining
  /-- retired; its completion action is on its way (R237) -/
  | action
  deriving DecidableEq, Repr

/-- A region of a footprint (R91, R239, R367): rights 1 read, 2 write, 3 reduce. -/
structure Region where
  rights : Nat
  start : Nat
  len : Nat
  deriving DecidableEq, Repr

/-- Bytes that a column job has to write into one aligned piece (R82): host memory or not, the piece's address, its bytes. -/
structure OutPiece where
  host : Bool
  base : Nat
  bytes : List (Option Byte)
  deriving DecidableEq, Repr

/-- A column job (R229 to R239). -/
structure Job where
  id : Nat
  /-- the issuing context; none for a COPY packet -/
  panel : Option Nat
  /-- its command's place in program order -/
  ord : Nat := 0
  /-- the accepted packet of a COPY -/
  packet : Option Nat := none
  /-- CFILL 0, CDRAIN 1, CPAIR 2, CGATH 3, CCOPY 4, CRED 5 -/
  form : Nat
  stream : Nat
  /-- issued in REV mode (R247, R255) -/
  rev : Bool := false
  /-- issued in trap context (R278) -/
  trap : Bool := false
  cardAddr : U64
  card : List Byte := []
  phase : JobPhase := .waiting
  foot : List Region := []
  /-- the first element of the chunk in hand -/
  pos : Nat := 0
  /-- cells of the chunk in hand that are done with -/
  part : Nat := 0
  /-- elements of the chunk in hand, or of the cell in hand, that are done with -/
  sub : Nat := 0
  /-- a fill: the elements read so far of the chunk in hand; none for one whose adjoint is added instead (R255) -/
  chunk : List (Option Nat) := []
  /-- a fill: its place in the cell in hand has been taken, and the lines that are still to be written there -/
  placed : Bool := false
  lines : List (Nat × Line × BitVec 64) := []
  /-- a drain: the bytes read so far of the cell in hand, and the ring position and slot that it reads -/
  got : List Byte := []
  ringAt : Option (U32 × Nat) := none
  /-- pieces that are not full yet (R82), and writes of others that the job has read (R86) -/
  run : List OutPiece := []
  seen : List Nat := []
  walk : Walk := .walking
  /-- the address whose page was asked for, and whether the walk is the one after the steward's reply (R396) -/
  asked : U64 := 0#64
  again : Bool := false
  /-- a fault that is about to be raised: code, subcode and TVAL (R238) -/
  fault : Option (BitVec 8 × BitVec 8 × U64) := none
  /-- wall cycle of its next step -/
  ready : Nat
  /-- remote writes still to be acknowledged (R374) -/
  acks : Nat := 0
  deriving DecidableEq, Repr

/-- One sheet (R9). -/
structure Sheet where
  /-- the flag file: 256 counters, zeros not listed (R72, R73) -/
  flags : Store 32 := []
  tlb : List TlbEntry := []
  /-- the lines that the sheet cache holds, as place and line number (R9, R10) -/
  lines : List (Bool × Nat) := []
  /-- jobs handed to the column engine and not retired, in the order their entries reached it -/
  jobs : List Job := []
  deriving DecidableEq, Repr

/-! The host interface. -/

/-- What the reader of a queue is doing (R360). -/
inductive Reader where
  | asleep
  /-- header reads made of the packet at QHEAD, and the wall cycle of the next -/
  | reading (tries at_ : Nat)
  deriving DecidableEq, Repr

/-- A submission queue's registers and reader (R356, R358 to R360). -/
structure HostQueue where
  base : U64 := 0#64
  ctl : U64 := 0#64
  head : U32 := 0#32
  tail : U32 := 0#32
  stat : BitVec 4 := 0#4
  stalecnt : U32 := 0#32
  reader : Reader := .asleep
  /-- the notice of a page that the reader waits for, and the page (R396) -/
  asked : Option (Nat × Nat) := none
  /-- the packet whose header has matched, while its footprint list is awaited (R360, R367) -/
  matched : Option (List Byte) := none
  /-- packets that tasks have enqueued and the reader has not accepted: running count and TASKID -/
  launchers : List (U32 × U64) := []
  deriving DecidableEq, Repr

/-- How far an accepted packet has come (R364 to R368). -/
inductive PacketPhase where
  /-- accepted, not started (R365) -/
  | accepted
  /-- a LAUNCH that waits for the LOAD of its object (R366) -/
  | object
  /-- in the matcher, or otherwise at work -/
  | started
  deriving DecidableEq, Repr

/-- A packet that has been accepted and has not completed. -/
structure Packet where
  /-- its place in the order of acceptance -/
  id : Nat
  queue : Nat
  count : U32
  bytes : List Byte
  foot : List Region := []
  phase : PacketPhase := .accepted
  /-- its place in the matcher's arrival order (R376) -/
  arrival : Option Nat := none
  posted : Bool := false
  /-- its rights count as retired: its task has committed (R270) -/
  retired : Bool := false
  /-- TASKID of the task whose LAUNCH enqueued it, 0 for the host -/
  launcher : U64 := 0#64
  /-- WAITVAL: wall cycles of the next poll and of the time limit -/
  poll : Nat := 0
  limit : Option Nat := none
  /-- wall cycle from which its work may be done -/
  ready : Nat := 0
  /-- its effect is complete: status, code, detail and serial of the record that is still to be written (R369) -/
  result : Option (Nat × Nat × Nat × Nat) := none
  /-- the notice of a page that it waits for, and the page (R396) -/
  asked : Option (Nat × Nat) := none
  /-- the base of the image that a LAUNCH names -/
  image : Option U64 := none
  /-- the steward has read its notice in the eligible ring (R377) -/
  taken : Bool := false
  /-- its launch is captured, and the digests of its regions at its start (R417, R418) -/
  captured : Bool := false
  digests : Option (List Line) := none
  /-- of a task that has ended: its bind record at its first start, its re-executions, and each panel's generators (R418) -/
  firstBind : List U64 := []
  reexecs : Nat := 0
  finals : List (List U64) := []
  deriving DecidableEq, Repr

/-- A notice of the eligible ring (R377): the packet it is for, and the 16 bytes that it holds. -/
structure RingNotice where
  packet : Nat
  queue : Nat
  count : U32
  prio : Nat
  shape : Nat
  budget : Nat
  deriving DecidableEq, Repr

/-- A span link (R371 to R374). -/
structure Link where
  up : Bool := false
  /-- the wall cycle since which it has been down with feature 4 in force, until that has counted as a link down (R411) -/
  downSince : Option Nat := none
  /-- while it is down: the wall cycle since which it is -/
  since : Nat := 0
  deriving DecidableEq, Repr

/-- The span table in force (R372). -/
structure SpanTable where
  self : Nat
  route : List Nat
  member : List Nat
  deriving DecidableEq, Repr

/-- Traffic that leaves over a span link (R371). -/
inductive SpanMsg where
  | finc (pkg grant f : Nat) (inc : U32)
  | write (peer : Nat) (group : Bool) (job : Nat) (addr : U64) (data : List Byte)
  deriving DecidableEq, Repr

/-- BAR0 registers and what stands behind them (R356). -/
structure Bar0 where
  featacc0 : U64 := 0#64
  featacc1 : U64 := 0#64
  /-- the features in force since the last EN (R363) -/
  feats : U64 := 0#64
  en : Bool := false
  dropfinc : U32 := 0#32
  halt : Bool := false
  featerr : Bool := false
  ready : Bool := false
  spanTable : U64 := 0#64
  applying : Bool := false
  hwin : U64 := 0#64
  /-- silicon stepping (R356) -/
  step : BitVec 16 := 0#16
  /-- log2 of the size of BAR2 (R354) -/
  bar2Log : Nat := 28
  deriving DecidableEq, Repr

/-! Objects. -/

/-- A loaded object (R333, R368). -/
structure Image where
  handle : U32
  base : U64
  size : Nat
  refs : Nat
  textSize : Nat
  trapBytes : List Byte
  /-- TEXT offsets of its kernel symbols -/
  kernels : List Nat
  /-- HBM pages that hold it -/
  pages : List Nat
  deriving DecidableEq, Repr

/-! Dispatch and the steward. -/

/-- A gang that has been saved: its contexts and its flags, and what re-injection needs (R288). -/
structure Saved where
  ctxs : List Ctx
  flags : Store 32
  forced : Bool
  deriving DecidableEq, Repr

/-- The task in an occupied slot. -/
structure Task where
  /-- the bind record as dispatch last read it at a doorbell (R378): of a running task, that of its START or RESTORE, with SAVE as the
  doorbell that stops it gives it -/
  bind : List U64
  packet : Option Nat
  /-- the panels of the gang by TASKPANEL.INDEX -/
  panels : List Nat
  /-- wall cycle in which the load ends, while it is loading -/
  loaded : Option Nat := none
  restoring : Bool := false
  /-- when its present run began, and the cycles of its earlier runs (R381) -/
  since : Nat := 0
  ran : Nat := 0
  /-- it received PREEMPT for overrun once (R381) -/
  overran : Bool := false
  committed : Bool := false
  /-- consumed errors so far (R383) -/
  consumed : Nat := 0
  /-- its reduce regions have been copied into the reserve, or do not fit (R383) -/
  kept : Bool := false
  /-- contents of its reduce regions before its first start (R383); none when they exceed the reserve -/
  reserve : Option (List (Nat × List Byte)) := some []
  grant : Nat := 0
  /-- set while the task is saved -/
  saved : Option Saved := none
  /-- its bind record as its first START left it (R418) -/
  firstBind : List U64 := []
  /-- it has ended, and its slot takes this STATE once its completion record is written (R379, R380) -/
  ending : Option Nat := none
  /-- the notice of a page that its load waits for, and the page (R396) -/
  asked : Option (Nat × Nat) := none
  /-- its save area as it was written, and then as a RESTORE found it (R400, R409) -/
  area : Bytes := []
  deriving DecidableEq, Repr

/-- One slot: the eight words of its bind record, and its task. -/
structure BindSlot where
  words : Vector U64 8 := Vector.replicate 8 0#64
  /-- the steward's note of the packet that its record is for, and of the HBM range of its save area -/
  packet : Option Nat := none
  hold : Option (Nat × Nat) := none
  task : Option Task := none
  deriving DecidableEq, Repr

/-- The default policy's figures (R381): deficits in µs, of queue q in class c at 64 c + q, and pointers by class. -/
structure Policy where
  deficit : Vector Int 256 := Vector.replicate 256 0
  pointer : Vector Nat 4 := Vector.replicate 4 0
  /-- the class's pointer has made its first arrival -/
  arrived : Vector Bool 4 := Vector.replicate 4 false
  /-- default budget of each queue in µs -/
  quantum : Vector Nat 64 := Vector.replicate 64 1000
  serial : Nat := 0
  deriving DecidableEq, Repr

/-- What the signed configuration image may set (R381, R383, R396). (Log entry 42: DESIGN CHOICE.) -/
structure Settings where
  /-- FAULTLIM in wall cycles: 100 ms -/
  faultlim : Nat := 105000000
  /-- the re-execution reserve in bytes -/
  reserve : Nat := 268435456
  deriving DecidableEq, Repr

/-- A voltage and frequency island (R12, R78, R384, R416). -/
structure Island where
  fbase : BitVec 16 := 3004#16
  margin : BitVec 16 := 65535#16
  band : Nat := 0
  /-- temperature in 1/16 degree Celsius -/
  temp : Int := 0
  /-- the wall cycle since which it has been at or below 75 degrees -/
  coolSince : Option Nat := none
  /-- slices cut since boot, and the wall cycle in which the present slice ends -/
  slices : Nat := 0
  cutUntil : Nat := 0
  /-- FORECAST LOAD and HORIZON -/
  load : BitVec 8 := 0#8
  horizon : BitVec 8 := 8#8
  deriving DecidableEq, Repr

/-! The fleet. -/

/-- A panel's survey record (R413). -/
structure Survey where
  /-- 0 IN_SERVICE, 1 SUSPECT, 2 SCREENING, 3 OUT, 4 HELD -/
  state : Nat := 0
  bypass : Vector Nat 4 := Vector.replicate 4 4
  suspect : BitVec 16 := 0#16
  uc : Nat := 0
  res : Nat := 0
  chk : Nat := 0
  corr : Nat := 0
  screens : Nat := 0
  /-- the wall cycle in which a screen under way ends -/
  screenEnd : Nat := 0
  /-- failed banks and failed logic by physical cell, 20 of them: bank A, bank B, CELLFAIL -/
  cells : List (Option Nat × Option Nat × Bool) := List.replicate 20 (none, none, false)
  deriving DecidableEq, Repr

/-- A detected error (R411, R412). -/
structure ErrorEvent where
  cls : Nat
  scope : Nat
  /-- sheet, panel within the sheet, logical cell and bank; a link or island number stands in cell -/
  sheet : Nat := 0
  panel : Nat := 0
  cell : Nat := 0
  bank : Nat := 0
  detail : U64 := 0#64
  taskId : U64 := 0#64
  /-- WHERE of its log entry (R412), with the physical cell at detection -/
  place : Nat := 0
  deriving DecidableEq, Repr

/-- A mailbox request, as the steward has read it (R421). -/
structure MailRequest where
  seq : Nat
  op : Nat
  arg0 : Nat
  arg1 : Nat
  deriving DecidableEq, Repr

/-- The fleet's figures (R410 to R417). -/
structure Fleet where
  /-- HBM address of the fleet page -/
  page : Nat := 0x2000000000
  gen : Nat := 0
  counters : Vector Nat 16 := Vector.replicate 16 0
  logTail : Nat := 0
  survey : Vector Survey 256 := Vector.replicate 256 {}
  /-- events of classes 0, 1 and 2 of the last 24 hours: wall cycle and event -/
  recent : List (Nat × ErrorEvent) := []
  /-- the next sample time of the thermal loop, and of the controls polled every 2 µs -/
  thermalAt : Nat := 0
  pollAt : Nat := 0
  powerAt : Nat := 0
  operatorSeq : Nat := 0
  /-- operator requests taken up whose panels are still bound: panel and action, oldest first (R415) -/
  operatorWaits : List (Nat × Nat) := []
  captureEn : Bool := false
  captureState : Nat := 0
  captureUsed : Nat := 0
  captureMask : U64 := 0#64
  captureBuf : U64 := 0#64
  captureSize : Nat := 0
  /-- the notice of a page that a mailbox operation waits for, and the page -/
  mailAsked : Option (Nat × Nat) := none
  /-- the mailbox request under way, with the values that the steward read (R421) -/
  mail : Option MailRequest := none
  ntail : Nat := 0
  notices : List Notice := []
  /-- the last number that the steward has completed (R395) -/
  doneSeq : U64 := 0#64
  /-- an invalidation that has dropped its entries: its number, and the accesses that it still waits for (R395) -/
  inval : Option (U64 × List Nat) := none
  /-- events that the steward has still to judge, and those to be written to the event log: wall cycle and event (R412) -/
  log : List (Nat × ErrorEvent) := []
  toLog : List (Nat × ErrorEvent) := []
  /-- the last logged event of class 0 of each bank -/
  lastCorr : List (Nat × ErrorEvent) := []
  deriving DecidableEq, Repr

/-- An entry of the boot journal (R422). -/
structure JournalEntry where
  bootno : Nat
  step : Nat
  /-- 1 BEGIN, 2 END_OK, 3 END_FAIL, 4 ALT_BEGIN, 5 SKIPPED -/
  kind : Nat
  code : Nat := 0
  detail : Nat := 0
  deriving DecidableEq, Repr

/-- Serial flash (R415, R420 to R422). -/
structure Flash where
  slotA : List Byte := []
  slotB : List Byte := []
  /-- slot B is preferred at the next start -/
  preferB : Bool := false
  configA : List Byte := []
  configB : List Byte := []
  configPreferB : Bool := false
  /-- the sparing overlay: the survey words it carries, and its signature under the identity key (R415, R420) -/
  overlay : List (Nat × Survey) := []
  overlaySig : List Byte := []
  journal : List JournalEntry := []
  /-- steps that CLEARALT has named since they last took the alternate -/
  cleared : List Nat := []
  deriving DecidableEq, Repr

/-- A start of the package (R422, R423). -/
structure Boot where
  bootno : Nat := 0
  /-- the step in hand, whether by its alternate, and its BEGIN's wall cycle; none once boot has finished -/
  step : Option (Nat × Bool × Nat) := some (0, false, 0)
  /-- its BEGIN stands in the journal and it runs -/
  running : Bool := false
  /-- the running firmware came from slot B, and the configuration image in force -/
  fromB : Bool := false
  configB : Bool := false
  /-- span links were left down (R423) -/
  noSpan : Bool := false
  deriving DecidableEq, Repr

/-- The events of the opcode table, as data of the agenda: each stands for the constructor of Instr of the same name, and
what it does is that constructor's meaning. -/
inductive Ev where
  | queueEntryStart (p q : Nat)
  | resultWriteback (p : Nat)
  | holdTimeout (p : Nat)
  | scalarDataReturn (p k : Nat)
  | loopPass (p : Nat)
  | waitComplete (p : Nat)
  | ringFill (p cell ring : Nat)
  | expressArrival (p cell : Nat)
  | borderLanding (p : Nat)
  | columnJobStart (p k : Nat)
  | columnChunk (p k : Nat)
  | columnJobRetire (p k : Nat)
  | columnJobFault (p k : Nat)
  | refreshSweep (p : Nat)
  | forcedRefresh (p : Nat)
  | forcedRefreshEnd (p : Nat)
  | handlerFirstPacket (p : Nat)
  | graceWindowExpiry (p : Nat)
  | drainComplete (p : Nat)
  | gangSave (slot : Nat)
  | contextFinish (p : Nat)
  | motifLoadEnd (p : Nat)
  | hostRegisterWrite (off size : Nat) (v : BitVec 64)
  | kick (q : Nat) (v : BitVec 32)
  | deviceEnable
  | deviceDisable
  | packageReset
  | queueEnable (q : Nat) (v : BitVec 64)
  | queueDisable (q : Nat) (v : BitVec 64)
  | qstatClear (q : Nat) (v : BitVec 64)
  | spancfgApply (v : BitVec 64)
  | spanTableApplied
  | queueHeaderRead (q : Nat)
  | launchPacket (q k : Nat)
  | loadPacket (q k : Nat)
  | unloadPacket (q k : Nat)
  | barrierPacket (q k : Nat)
  | copyPacket (q k : Nat)
  | signalPacket (q k : Nat)
  | waitvalPacket (q k : Nat)
  | waitvalPoll (q k : Nat)
  | waitvalTimeout (q k : Nat)
  | bar2Read (off n : Nat)
  | bar2Write (off : Nat) (data : List (BitVec 8))
  | bar2Atomic (off width op : Nat) (x y : BitVec 64)
  | spanFlitReceive (link : Nat) (crcOk : Bool)
  | remoteFincArrival (grant f : Nat) (inc : BitVec 32)
  | spanWriteArrival (addr : BitVec 64) (data : List (BitVec 8))
  | spanLinkDown (link : Nat)
  | matcherEligible (k : Nat)
  | dispatchStart (slot : Nat)
  | dispatchRestore (slot : Nat)
  | dispatchPreempt (slot : Nat)
  | dispatchForce (slot : Nat)
  | dispatchAbort (slot : Nat)
  | bindComplete (slot : Nat)
  | powerCheck
  | supplyCutEnd (island : Nat)
  | pageWalk (p k : Nat)
  | noticeReply (k : Nat)
  | faultlimExpiry (k : Nat)
  | tlbInvalidation
  | thermalSample
  | operatorRequest
  | panelScreen (p : Nat)
  | captureControlPoll
  | attest
  | stage
  | identity
  | clearalt
  | boot
  | bootWatchdog
  | writeAppliedToView (w view : Nat)
  | spanLinkTrained (link : Nat)
  | spanLinkLost (link : Nat)
  | mailboxBadop
  | doorbellInvalidOp (slot : Nat)
  deriving DecidableEq, Repr

/-- What the outside world does, besides the events of the opcode table. -/
inductive Input where
  | event (e : Ev)
  /-- a host read of BAR0 -/
  | regRead (off size : Nat)
  /-- the host stores to its own memory -/
  | hostStore (addr : Nat) (data : List Byte)
  /-- a detected error -/
  | error (e : ErrorEvent)
  /-- corrupt data: a tower line, an accumulator slot, scratch, trap memory, or global memory -/
  | corruptLine (p cell off : Nat)
  | corruptSlot (p cell slot : Nat)
  | corruptScratch (p off : Nat)
  | corruptTrapMem (p off : Nat)
  | corruptGlobal (addr : Nat)
  /-- a residue check fails on the command of queue q that starts next on a panel -/
  | residue (p q cell unit : Nat)
  /-- traffic of other packages comes on a link, for packages beyond this one and, with here, for this one too (R372, R373) -/
  | transit (link : Nat) (m : SpanMsg) (here : Bool)
  /-- a target refused the oldest remote write that left on a link (R374) -/
  | refusal (link : Nat)
  /-- the PCI configuration selects a BAR2 size, as its log2 (R354) -/
  | bar2Size (log : Nat)
  /-- a boot step ends, well or not -/
  | stepEnd (ok : Bool) (code detail : Nat)
  deriving DecidableEq, Repr

/-- What the package shows the outside world. -/
inductive Output where
  | msix (vector : Nat)
  | regData (off : Nat) (x : U64)
  /-- BAR2: data of a read, or Unsupported Request -/
  | bar2Data (off : Nat) (xs : List Byte)
  | unsupported (off : Nat)
  | span (m : SpanMsg)
  /-- traffic of another package, sent on over a link (R372, R373) -/
  | forward (link : Nat) (m : SpanMsg)
  /-- the reply to a remote write: applied, or refused (R374, R399) -/
  | spanReply (ok : Bool) (addr : U64)
  | doubleRecord (panel : Nat) (cause1 cause2 tpc tval : U64)
  deriving DecidableEq, Repr

/-! The agenda. -/

/-- What happens next within the present wall cycle. -/
inductive Item where
  /-- an event of the opcode table -/
  | ev (e : Ev)
  /-- the cycle of a panel begins: arrivals have landed, and whether it is held is decided -/
  | begin_ (p : Nat)
  /-- the sequencer of a panel issues the next instruction of its packet -/
  | issue (p : Nat)
  /-- what a panel put in its outbox leaves it -/
  | leave (p : Nat)
  /-- an input of the outside world -/
  | input (i : Input)
  /-- the memory system, the jobs, the readers and the steward take their turns -/
  | outside
  deriving DecidableEq, Repr

/-- The package. (Log entry 3: DESIGN CHOICE.) -/
structure State where
  /-- GCYC (R38) -/
  gcyc : Nat
  agenda : List Item
  /-- the panel whose instruction executes -/
  cur : Nat
  /-- the model's own counter, for free values and for identities -/
  fresh : Nat
  ctxs : List Ctx
  hbm : Bytes
  hostMem : Bytes
  writes : List GWrite
  /-- the 64-byte lines of HBM that hold an uncorrectable error -/
  badHbm : List Nat
  sheets : Vector Sheet 8
  bar0 : Bar0
  queues : Vector HostQueue 64
  /-- packets accepted and not completed, in order of acceptance -/
  packets : List Packet
  /-- the eligible ring: the notices that the steward has not read, oldest first (R377) -/
  ring : List RingNotice
  /-- next number of acceptance and of arrival in the matcher -/
  accepted : Nat
  arrivals : Nat
  images : List Image
  slots : Vector BindSlot 64
  policy : Policy
  settings : Settings
  islands : Vector Island 64
  /-- free ranges of the steward's HBM pool -/
  pool : List (Nat × Nat)
  links : Vector Link 18
  spanTable : Option SpanTable
  /-- border writes on their way: wall cycle of the landing, receiving panel, message (R223) -/
  borderFlight : List (Nat × Nat × BorderMsg)
  /-- express links and die bridges that messages have taken: number, and the time until which it is taken, in 1/2500 of a wall cycle
  (R14) -/
  net : List (Nat × Nat)
  /-- remote traffic in flight -/
  remote : List SpanMsg
  fleet : Fleet
  flash : Flash
  boot : Boot
  inputs : List (Nat × Input)
  outputs : List Output
  deriving DecidableEq, Repr

/-- The package right after reset: nothing bound, memory as power-up leaves it, and boot about to run (R289, R356,
R363, R423). (Log entry 1: DESIGN CHOICE.) (Log entry 5: DESIGN CHOICE.) -/
def State.reset : State :=
  { gcyc := 0, agenda := [.ev .boot], cur := 0, fresh := 0, ctxs := [], hbm := [], hostMem := [], writes := [],
    badHbm := [], sheets := Vector.replicate 8 {}, bar0 := {}, queues := Vector.replicate 64 {}, packets := [], ring := [],
    accepted := 0, arrivals := 0, images := [], slots := Vector.replicate 64 {}, policy := {}, settings := {},
    islands := Vector.replicate 64 {}, pool := [(0x2000100000, 0x1000000000)], links := Vector.replicate 18 {},
    spanTable := none, borderFlight := [], net := [], remote := [], fleet := {}, flash := {}, boot := {}, inputs := [], outputs := [] }

end Sys2Proof.Machine
end

