-- ==== Sys2Proof/Machine/Package.lean ====
section
/-!
DEFINITION. A panel context within the package: finding it, what it sees of the package, and how an instruction of a
panel acts on the package. Every instruction's meaning is a function from the context to the context.
-/

namespace Sys2Proof.Machine

/-- What a context sees of the package in a cycle. -/
structure Env where
  gcyc : Nat
  fbase : BitVec 16
  margin : BitVec 16
  tlb : List TlbEntry
  /-- writes that some view has not applied -/
  writes : List GWrite
  /-- the cell columns of the lines moved in this cycle by the panel's broadcast columns, for the other panels on them (R14) -/
  moved : List Nat
  /-- express links and die bridges that are taken, and until when -/
  net : List (Nat × Nat)
  deriving DecidableEq, Repr

/-- The context bound to a panel. -/
def State.ctx? (s : State) (p : Nat) : Option Ctx := s.ctxs.find? (fun c => c.id.panel == p)

/-- The package with a context replaced. -/
def State.putCtx (s : State) (c : Ctx) : State :=
  { s with ctxs := s.ctxs.map (fun d => if d.id.panel == c.id.panel then c else d) }

/-- Sheet of a physical panel position (R13). -/
def sheetOf (p : Nat) : Nat := p / 32
/-- Die of a physical panel position (R13). -/
def dieOf (p : Nat) : Nat := p / 64
/-- Die row and column of a panel (R11). -/
def dieRow (p : Nat) : Nat := 4 * (p / 32 % 2) + p / 8 % 4
def dieCol (p : Nat) : Nat := p % 8
/-- The island of a panel (R12). -/
def islandOf (p : Nat) : Nat := 16 * dieOf p + 4 * (dieRow p / 2) + dieCol p / 2
/-- Row and column of a panel in the package grid (R22). -/
def gridRow (p : Nat) : Nat := 8 * (dieOf p / 2) + dieRow p
def gridCol (p : Nat) : Nat := 8 * (dieOf p % 2) + dieCol p
/-- The panel at a place of the package grid (R11, R22). -/
def panelAt (row col : Nat) : Nat :=
  let die := 2 * (row / 8) + col / 8
  32 * (2 * die + row % 8 / 4) + 8 * (row % 4) + col % 8

/-- A sheet of the package. -/
def State.sheet (s : State) (k : Nat) : Sheet := vget {} s.sheets k
/-- The package with a sheet replaced. -/
def State.putSheet (s : State) (k : Nat) (x : Sheet) : State := { s with sheets := vset s.sheets k x }
/-- An island of the package. -/
def State.island (s : State) (k : Nat) : Island := vget {} s.islands k
/-- The package with an island replaced. -/
def State.putIsland (s : State) (k : Nat) (x : Island) : State := { s with islands := vset s.islands k x }

/-- Lines moved in this cycle for the other panels that share a panel's broadcast columns: those of its sheet in its grid column
(R13, R14). -/
def State.movedFor (s : State) (p : Nat) : List Nat :=
  (s.ctxs.filter fun d => d.id.panel != p && sheetOf d.id.panel == sheetOf p && dieCol d.id.panel == dieCol p).flatMap (·.time.moved)

/-- What the context of a panel sees. -/
def State.env (s : State) (p : Nat) : Env :=
  let i := s.island (islandOf p)
  { gcyc := s.gcyc, fbase := i.fbase, margin := i.margin, tlb := (s.sheet (sheetOf p)).tlb, writes := s.writes,
    moved := s.movedFor p, net := s.net }

/-- Apply a function to the context of panel p, where one is bound. -/
def State.mapCtx (s : State) (p : Nat) (f : Env → Ctx → Ctx) : State :=
  match s.ctx? p with
  | some c => s.putCtx (f (s.env p) c)
  | none => s

/-- An instruction of the panel at work: its meaning acts on that panel's context. -/
def onCtx (s : State) (f : Env → Ctx → Ctx) : Host.Outcome State Fault Refusal :=
  match s.ctx? s.cur with
  | some c => .next (s.putCtx (f (s.env s.cur) c))
  | none => .fault (.noContext s.cur)

/-! Identity (R13, R23, R72). -/

/-- TASKPANEL.INDEX. -/
def Ctx.index (c : Ctx) : Nat := (c.id.taskPanel.extractLsb' 8 8).toNat
/-- The logical position within the task. -/
def Ctx.tx (c : Ctx) : Nat := (c.id.taskPanel.extractLsb' 0 4).toNat
def Ctx.ty (c : Ctx) : Nat := (c.id.taskPanel.extractLsb' 4 4).toNat
/-- The task's shape. -/
def Ctx.width (c : Ctx) : Nat := (c.id.taskShape.extractLsb' 0 4).toNat + 1
def Ctx.height (c : Ctx) : Nat := (c.id.taskShape.extractLsb' 4 4).toNat + 1
/-- FLAGBASE's fields. -/
def Ctx.flagHome (c : Ctx) : Nat := (c.id.flagBase.extractLsb' 16 3).toNat
def Ctx.flagSize (c : Ctx) : Nat := (c.id.flagBase.extractLsb' 8 8).toNat + 1
def Ctx.flagFirst (c : Ctx) : Nat := (c.id.flagBase.extractLsb' 0 8).toNat

/-- The counter that flag f of the context's partition is (R72). -/
def State.flag (s : State) (c : Ctx) (f : Nat) : U32 := Store.get (s.sheet c.flagHome).flags (c.flagFirst + f)

/-- The context as an agent of the consistency model (R80): it stays the same agent on other panels. -/
def Ctx.agent (c : Ctx) : Agent := .panel c.index c.id.taskId.toNat

/-! Errors (R411). -/

/-- The panel of an error of scope panel or cell. -/
def ErrorEvent.panelNo (e : ErrorEvent) : Nat := 32 * e.sheet + e.panel

/-- The physical cell of a logical one (R15, R413). -/
def Survey.physical (v : Survey) (n : Nat) : Nat :=
  let k := vget 4 v.bypass (n / 4)
  5 * (n / 4) + (if n % 4 < k then n % 4 else n % 4 + 1)

/-- A panel's survey record. -/
def State.survey (s : State) (p : Nat) : Survey := vget {} s.fleet.survey p

/-- WHERE of an event that is detected now (R412). -/
def State.whereOf (s : State) (e : ErrorEvent) : Nat :=
  let cell := (s.survey e.panelNo).physical e.cell
  match e.scope with
  | 1 => e.sheet * 2 ^ 24
  | 2 => e.sheet * 2 ^ 24 + e.panel * 2 ^ 16
  | 3 => e.sheet * 2 ^ 24 + e.panel * 2 ^ 16 + cell * 2 ^ 8 + e.bank
  | 4 | 5 => e.cell
  | _ => 0

/-- A detected error (R411, R412): its class's counter counts it, saturating, and it is to be logged, with the cycle and the place of
its detection. -/
def State.noteError (s : State) (e : ErrorEvent) : State :=
  let n := vget 0 s.fleet.counters e.cls
  { s with fleet := { s.fleet with counters := vset s.fleet.counters e.cls (Nat.min (n + 1) (2 ^ 64 - 1)),
                                   log := s.fleet.log ++ [(s.gcyc, { e with place := s.whereOf e })] } }

/-! Early reads (R27, R283, R284). -/

/-- TVAL of EARLY_READ (R284). -/
def earlyTval (file index word cell : Nat) : U64 := BitVec.ofNat 64 (file + 8 * index + 8192 * word + 131072 * cell)

/-- The lowest word w of n from k on whose four bytes meet a mask. -/
def firstWord (mask : Nat) : Nat → Nat → Option Nat
  | 0, _ => none
  | n + 1, k => if mask / 16 ^ k % 16 ≠ 0 then some k else firstWord mask n (k + 1)

/-- The pending bits that a write sets on a value that is read: TVAL of the early read (R283, R284). -/
def Write.pends (w : Write) (r : Ref) : Option U64 :=
  match w, r with
  | .s x _, .s y => if x = y ∧ x ≠ 0#5 then some (earlyTval 0 y.toNat 0 0) else none
  | .b x _, .b y => if x = y then some (earlyTval 1 y.toNat 0 0) else none
  | .c x _, .c y => if x = y ∧ x ≠ 0#3 then some (earlyTval 2 y.toNat 0 0) else none
  | .v n x _ mask, .v y =>
    if x = y then (firstWord mask.toNat 16 0).map (fun w => earlyTval 3 y.toNat w n) else none
  | .p n x _, .p y => if x = y ∧ x ≠ 0#5 then some (earlyTval 4 y.toNat 0 n) else none
  | .acc n lo xs, .acc lo' k =>
    if lo < lo' + k ∧ lo' < lo + xs.length then some (earlyTval 5 (Nat.max lo lo' % 1024) 0 n) else none
  | .accZero n lo m, .acc lo' k =>
    if lo < lo' + k ∧ lo' < lo + m then some (earlyTval 5 (Nat.max lo lo' % 1024) 0 n) else none
  | _, _ => none

/-- Registers of a bank, as opposed to what both contexts of execution share (R278). -/
def Ref.banked : Ref → Bool
  | .s _ | .b _ | .c _ => true
  | _ => false

/-- A load, atomic or FREAD whose result for register r is outstanding. -/
def GAccess.owes (a : GAccess) (trap : Bool) (r : Ref) : Bool :=
  match r with
  | .s x => a.trap == trap && !a.returned && a.dest == some x && x != 0#5
  | _ => false

/-- TVAL of the early read of a value, when one of its pending bits is set: by a captured or due write, by an access that
is out, or by a tower read that is still to be made into the register (R283). -/
def Ctx.pending (c : Ctx) (r : Ref) : Option U64 :=
  let mine := c.landings.filter (fun l => !r.banked || l.trap == c.trap.tctx)
  match mine.findSome? (fun l => l.write.pends r) with
  | some t => some t
  | none =>
    if c.glob.queue.any (fun a => a.owes c.trap.tctx r) then
      match r with | .s x => some (earlyTval 0 x.toNat 0 0) | _ => none
    else
      c.towerOps.findSome? (fun o =>
        match o.act, r with
        | .read len (.vreg x pos mask _), .v y =>
          if x = y then
            (firstWord (mask.toNat % 2 ^ (pos + len) / 2 ^ pos * 2 ^ pos) 16 0).map (fun w => earlyTval 3 y.toNat w o.cell)
          else none
        | _, _ => none)

/-- With DEBUGCTL.PEND, the first early read among some values. -/
def Ctx.early (c : Ctx) (rs : List Ref) : Option U64 := if bit c.sys.debugCtl 0 then rs.findSome? c.pending else none

/-! Results that are late (R40, R424). -/

/-- An outstanding access of the running context of execution past its due cycle. -/
def Ctx.overdue (c : Ctx) (a : GAccess) : Bool := a.trap == c.trap.tctx && decide (a.due < c.now)

/-- A value that should have been written and has not: a load, atomic or FREAD owes it. An instruction that reads it does not
issue in a cycle that a trap makes unheld (R424). (Log entry 76: DEDUCED.) -/
def Ctx.late (c : Ctx) (rs : List Ref) : Bool := c.glob.queue.any fun a => c.overdue a && rs.any fun r => a.owes c.trap.tctx r

/-- A descriptor of ring m should have been read and has not (R241). -/
def Ctx.lateRing (c : Ctx) (m : Nat) : Bool :=
  c.glob.queue.any fun a => c.overdue a && !a.performed && (match a.kind with | .rcfg k => k == m | _ => false)

/-! The frame of a sequencer instruction. -/

/-- The sequencer's results in flight (R273). -/
def Ctx.inFlight (c : Ctx) : Nat :=
  (c.landings.filter (fun l => l.unit == .seq && l.trap == c.trap.tctx)).length
    + (c.glob.queue.filter (fun a => a.trap == c.trap.tctx && a.dest.isSome && !a.returned)).length

/-- A sequencer instruction: the checks that look at it alone, values that are late, the early reads, the stall of R273 for
one with a result, and then its effect, with the checks that look at the state. (Log entry 105: DESIGN CHOICE.) -/
def Ctx.seq (c : Ctx) (i : Instr) (reads : List Ref) (result : Bool) (f : Ctx → Ctx) : Ctx :=
  c.checked i fun c =>
    if c.late reads then c.stall
    else
      match c.early reads with
      | some t => c.trapAt causeEarlyRead 0#8 t
      | none => if result && decide (48 ≤ c.inFlight) then c.stall else f c

/-- A sequencer instruction that writes one scalar register with a latency and does nothing else. -/
def Ctx.alu (c : Ctx) (i : Instr) (e : Bool) (d : Reg) (reads : List Ref) (lat : Nat) (x : Ctx → U64) : Ctx :=
  c.seq i reads (d != 0#5) fun c => (c.putS d (x c) lat).advance e 1

end Sys2Proof.Machine
end

