-- ==== Sys2Proof/Machine/Operands.lean ====
section
/-!
DEFINITION. Engine commands: what a command reads and writes, its issue (R27, R31, R32, R45, R101, R102), the elements
of registers under a predicate (R20, R170 to R172), and a command's tower accesses with the checks made on them in its
start cycle (R62, R281, R284).
-/

namespace Sys2Proof.Machine

/-- What comes of a command in its start cycle. -/
inductive Started where
  /-- it starts -/
  | done (c : Ctx)
  /-- an engine fault, precise at its queue entry; it has no effect -/
  | fault (code sub : BitVec 8) (tval : U64)
  /-- an engine fault, precise at its queue entry, whose one effect is the context given: a format word consumed (R207) -/
  | spoilt (c : Ctx) (code sub : BitVec 8) (tval : U64)
  /-- it holds the panel, under a code of R40 -/
  | hold (code : Nat)

/-- An engine command. -/
structure Engine where
  /-- the queue its major selects (R31) -/
  queue : Nat
  /-- issue occupancy (R307) -/
  occ : Nat := 1
  /-- the values it reads in its start cycle, and those it writes (R27, R37) -/
  reads : Ctx → List Ref := fun _ => []
  writes : Ctx → List Ref := fun _ => []
  /-- scalar operands, read at issue (R27) -/
  sa : Option Reg := none
  sb : Option Reg := none
  /-- its rounding field (R101) -/
  round : Option (BitVec 3) := none
  /-- it takes a value of SRCTR whatever its rounding (R102) -/
  counts : Bool := false
  /-- an operand value is outside its limits: ILLEGAL 0x08 at issue -/
  limit : Ctx → Bool := fun _ => false
  /-- another trap at issue: its code, subcode and TVAL -/
  check : Ctx → Option (BitVec 8 × BitVec 8 × U64) := fun _ => none
  /-- the rings it names -/
  rings : List Nat := []
  /-- the values whose pending bits count when it starts, where they are not all that it reads (R217, R260, R283) -/
  sees : Option (Ctx → List Ref) := none
  /-- ring positions fixed at issue, by cell (R198) -/
  ringAt : Ctx → List (U32 × Nat × Nat) := fun _ => []
  /-- its effect in its start cycle -/
  start : Env → Ctx → QEntry → Started

/-! Issue. -/

/-- The iteration number of a command guarded by ck that issues now (R45); a motif call, which has no guard, counts as
guarded by c0. -/
def Ctx.iterOf (c : Ctx) (k : Nat) : Option Int :=
  match c.loop with
  | some l => if c.trap.tctx then none else some (if 1 ≤ k ∧ k ≤ l.stages then (l.pass : Int) - k + 1 else l.pass)
  | none => none

/-- An LBREAK of this pass discards the command (R47). -/
def Ctx.cutIter (c : Ctx) (k : Nat) : Bool :=
  match c.loop, c.iterOf k with
  | some l, some i => match l.cut with | some m => decide (m < i) | none => false
  | _, _ => false

/-- The resolved rounding mode of a command with a rounding field (R101). -/
def Ctx.roundMode (c : Ctx) (rm : Option (BitVec 3)) : RMode :=
  let dyn := (RMode.ofCode c.sys.round).getD .rne
  match rm with
  | some k => (RMode.ofCode k).getD dyn
  | none => .rne

/-- The command takes a value of SRCTR (R102). -/
def Ctx.takesCtr (c : Ctx) (g : Engine) : Bool := g.counts || (g.round.isSome && c.roundMode g.round == .sr)

/-- The entry a command enters its queue with. -/
def Ctx.entryOf (c : Ctx) (i : Instr) (start : BitVec 16) (k : Nat) (g : Engine) : QEntry :=
  { instr := i, seq := vget 0#16 c.eng.seq g.queue, ord := c.ord, issued := c.now,
    due := if start = 0xFFFF#16 then none else some (c.time.anchor + start.toNat),
    trap := c.trap.tctx, iter := c.iterOf k,
    scal := ((g.sa.map c.rs).getD 0#64, (g.sb.map c.rs).getD 0#64),
    rng := ⟨c.sys.rngkey, c.sys.rngstr, c.sys.rngctr⟩, srctr := c.sys.srctr, rmode := c.roundMode g.round,
    ftz := c.sys.ftz, admode := c.adj.mode, chkTol := c.sys.chkTol, chkMode := c.sys.chkMode,
    gen := c.adj.gen, ringPos := g.ringAt c, pc := c.issue.packet }

/-- The command enters its queue, with the queue's next sequence number, and SRCTR advances where it takes a value. -/
def Ctx.enqueue (c : Ctx) (g : Engine) (e : QEntry) : Ctx :=
  { c with
    eng := { c.eng with q := vset c.eng.q g.queue (vget [] c.eng.q g.queue ++ [e]),
                        seq := vset c.eng.seq g.queue (e.seq + 1#16) }
    sys := { c.sys with srctr := if c.takesCtr g then c.sys.srctr + 1#32 else c.sys.srctr } }

/-- The scalars a command reads at issue. -/
def Engine.scalars (g : Engine) : List Ref := (g.sa.toList ++ g.sb.toList).map Ref.s

/-- The issue of an engine command whose guard is k (R31, R32): the checks of R139, the guard, the traps at issue, the
full queue, and the entry. A command that its guard discards is checked for what its words alone show, and not for a ring
or an operand value. (Log entry 75: DESIGN CHOICE.) -/
def Ctx.command (c : Ctx) (i : Instr) (e : Bool) (start : BitVec 16) (k : BitVec 5) (g : Engine) : Ctx :=
  c.checked i fun c =>
    let guard : BitVec 3 := k.setWidth 3
    match c.early [.c guard] with
    | some t => c.trapAt causeEarlyRead 0#8 t
    | none =>
      let kept := c.rc guard && !c.cutIter guard.toNat
      let late : Bool := kept && (c.late g.scalars || g.rings.any c.lateRing)
      if kept && !late && g.limit c then c.illegal i 0x08#8
      else if startBad start then c.illegal i 0x05#8
      else if c.trap.tctx && start != 0xFFFF#16 then c.illegal i 0x09#8
      else if !kept then c.advance e 2
      else if late then c.stall
      else
        match c.early g.scalars with
        | some t => c.trapAt causeEarlyRead 0#8 t
        | none =>
          match g.check c with
          | some (code, sub, t) => c.trapAt code sub t
          | none =>
            if 64 ≤ (vget [] c.eng.q g.queue).length then c.stall
            else (c.enqueue g (c.entryOf i start guard.toNat g)).advance e 2

/-! Results. -/

/-- A result of the command of an entry, due at the end of a cycle of the running clock. -/
def Ctx.landE (c : Ctx) (e : QEntry) (u : EngUnit) (due : Nat) (w : Write) (fl : Flags := .zero) : Ctx :=
  { c with landings := c.landings ++ [⟨e.ord, u, due, c.trap.tctx, w, fl⟩] }

/-- A result in every cell, due at the end of a cycle. -/
def Ctx.landCells (c : Ctx) (e : QEntry) (u : EngUnit) (due : Nat) (f : Nat → Cell → Write × Flags) : Ctx :=
  { c with landings := c.landings ++
      (List.range 16).map fun n => let r := f n (c.cell n); ⟨e.ord, u, due, c.trap.tctx, r.1, r.2⟩ }

/-! Elements under a predicate. -/

/-- Element i of width w of a line. -/
def elem (w : Nat) (x : Line) (i : Nat) : Nat := x.toNat >>> (w * i) % 2 ^ w

/-- A cell's element i of format t of a register. -/
def Cell.el (x : Cell) (t : Ty) (r : Reg) (i : Nat) : Nat := elem t.width (x.rv r) i

/-- Element i of width w is active under the byte predicate (R171). -/
def actAt (w : Nat) (act : U64) (i : Nat) : Bool := bit act (i * w / 8)

/-- Elements lo to lo + n - 1 of width w that are active take the values of f; the sum of their places, and the flags. -/
def elemsFrom (w : Nat) (act : Nat → Bool) (f : Nat → Nat × Flags) (lo : Nat) : Nat → Nat × Flags
  | 0 => (0, .zero)
  | n + 1 =>
    let r := elemsFrom w act f lo n
    let i := lo + n
    if act i then
      let y := f i
      (r.1 + (y.1 % 2 ^ w) <<< (w * i), r.2.or y.2)
    else r

/-- The byte mask of the active elements lo to lo + n - 1 of width w. -/
def elemMask (w : Nat) (act : Nat → Bool) (lo n : Nat) : BitVec 64 :=
  BitVec.ofNat 64 (((List.range 64).filter fun j => decide (lo ≤ 8 * j / w) && decide (8 * j / w < lo + n) && act (8 * j / w)).map
    fun j => 2 ^ j).sum

/-- A register write of active elements lo to lo + n - 1 (R171). -/
def elemWrite (cell : Nat) (r : Reg) (w : Nat) (act : Nat → Bool) (lo n : Nat) (f : Nat → Nat × Flags) : Write × Flags :=
  let y := elemsFrom w act f lo n
  (.v cell r (BitVec.ofNat 512 y.1) (elemMask w act lo n), y.2)

/-- A predicate write: every bit of the bytes of an active element takes its value, and the others become 0 (R171). -/
def predWrite (cell : Nat) (r : Reg) (w : Nat) (act : Nat → Bool) (f : Nat → Bool) : Write :=
  .p cell r (elemMask w (fun i => act i && f i) 0 (512 / w))

/-- How a command rounds element j of a cell: its mode, the draw of SR, and FTZ (R101 to R103). -/
structure Rounding where
  mode : RMode
  u24 : Nat
  ftz : Bool
  deriving DecidableEq, Repr

/-- How the command of an entry rounds element j of cell n (R102). -/
def QEntry.rounding (e : QEntry) (c : Ctx) (n j : Nat) : Rounding :=
  ⟨e.rmode, if e.rmode = .sr then e.rng.srDraw e.srctr c.index n j else 0, e.ftz⟩

/-- The predicate of a two-word command: bit j is 1 when byte j is active (R132). -/
def Cell.act (x : Cell) (h : Ex) : U64 := x.active h.p h.ps

/-- The values every predicated command reads: its predicate, and some vector registers. -/
def predReads (p : Reg) (rs : List Reg) : List Ref := .p p :: rs.map Ref.v

/-- A type code as a format; the checks have refused codes that name none. -/
def tyOf (ty : BitVec 4) : Ty := (Ty.ofCode ty).getD .i8

/-- A Q0 command that writes each active element of register d with latency lat: f of the rounding, the cell, its number
and the element's index. -/
def elemEngine (h : Ex) (d : Reg) (srcs : List Reg) (t : Ty) (lat : Nat) (rm : Option (BitVec 3))
    (f : QEntry → Rounding → Nat → Cell → Nat → Nat × Flags) : Engine :=
  { queue := 0, reads := fun _ => predReads h.p srcs, writes := fun _ => [.v d], round := rm,
    start := fun _ c e => .done (c.landCells e .q0 (c.now + lat - 1) fun n x =>
      elemWrite n d t.width (actAt t.width (x.act h)) 0 t.count fun i => f e (e.rounding c n i) n x i) }

/-- Two sources, no flags. -/
def binEngine (h : Ex) (d a b : Reg) (t : Ty) (lat : Nat) (f : Nat → Nat → Nat) : Engine :=
  elemEngine h d [a, b] t lat none fun _ _ _ x i => (f (x.el t a i) (x.el t b i), .zero)

/-- One source, no flags. -/
def unEngine (h : Ex) (d a : Reg) (t : Ty) (lat : Nat) (f : Nat → Nat) : Engine :=
  elemEngine h d [a] t lat none fun _ _ _ x i => (f (x.el t a i), .zero)

/-- Two F32, F16 or BF16 sources, rounded once (R176). -/
def floatEngine (h : Ex) (d a b : Reg) (t : Ty) (lat : Nat) (rm : BitVec 3) (f : RMode → Val → Val → Val × Flags) : Engine :=
  elemEngine h d [a, b] t lat (some rm) fun _ r _ x i =>
    t.fmt.finish r.mode r.u24 r.ftz (f r.mode (t.val r.ftz (x.el t a i)) (t.val r.ftz (x.el t b i)))

/-- A Q0 command that writes a predicate with latency 2. -/
def predEngine (h : Ex) (d : Reg) (srcs : List Reg) (t : Ty) (f : Cell → Nat → Bool) : Engine :=
  { queue := 0, reads := fun _ => predReads h.p srcs, writes := fun _ => [.p d],
    start := fun _ c e => .done (c.landCells e .q0 (c.now + 1) fun n x =>
      (predWrite n d t.width (actAt t.width (x.act h)) fun i => f x i, .zero)) }

/-! Tower accesses of a command. -/

/-- The accesses, windows and operand checks of a command that is about to start. -/
structure Plan where
  ops : List TowerOp := []
  wins : List Window := []
  /-- offsets of an access, for WATCH: cell, offset, whether it is a write -/
  watch : List (Nat × Nat × Bool) := []
  /-- lines it reads: cell and offset -/
  lines : List (Nat × Nat) := []

/-- Two plans as one. -/
def Plan.and (x y : Plan) : Plan := ⟨x.ops ++ y.ops, x.wins ++ y.wins, x.watch ++ y.watch, x.lines ++ y.lines⟩

/-- Plans as one. -/
def Plan.all (xs : List Plan) : Plan := xs.foldl Plan.and {}

/-- The context with the accesses of a plan placed. -/
def Ctx.place (c : Ctx) (p : Plan) : Ctx := { c with towerOps := c.towerOps ++ p.ops, windows := c.windows ++ p.wins }

/-- TVAL of a tower offset in a cell (R274, R281). -/
def cellTval (top cell off : Nat) : U64 := BitVec.ofNat 64 (top * 2 ^ 62 + cell * 2 ^ 56 + off)

/-- The first line read that holds an uncorrectable error (R281). -/
def Ctx.badLine (c : Ctx) (lines : List (Nat × Nat)) : Option U64 :=
  lines.findSome? fun l => if (c.cell l.1).badLines.contains (lineOf l.2) then some (cellTval 1 l.1 (lineOf l.2)) else none

/-- The first access that reaches the watched tower line in a watched direction (R282, R284). -/
def Ctx.watched? (c : Ctx) (xs : List (Nat × Nat × Bool)) : Option U64 :=
  let d := c.sys.debugCtl
  if !bit d 5 then none
  else
    xs.findSome? fun x =>
      if lineOf x.2.1 / 64 = (d.extractLsb' 6 17).toNat ∧ bit d (if x.2.2 then 4 else 3) then some (BitVec.ofNat 64 x.2.1)
      else none

/-- The accesses that clash among those of a clock, cell and cycle. -/
def Ctx.clashes (c : Ctx) (trap : Bool) (cell t : Nat) : List TowerOp :=
  ((judge c [] (sortOps (c.towerOps.filter fun o => o.trap == trap && o.cycle == t && o.cell == cell))).filter
    fun j => j.2 != .ok).map (·.1)

/-- With DEBUGCTL.CLASH, the clash a plan would bring about (R62, R311): cell in [63:60] and the clashing offset. A
window is tested in each of its cycles, and against a window on the same bank. (Log entry 60: DEDUCED.) -/
def Ctx.planClash (c : Ctx) (p : Plan) : Option U64 :=
  if !bit c.sys.debugCtl 1 then none
  else
    let d := c.place p
    let trap := c.trap.tctx
    let at_ (cell t : Nat) : Option U64 :=
      let old := c.clashes trap cell t
      ((d.clashes trap cell t).find? fun o => !old.contains o).map fun o => BitVec.ofNat 64 (cell * 2 ^ 60 + o.off)
    match p.ops.findSome? fun o => at_ o.cell o.cycle with
    | some t => some t
    | none =>
      p.wins.findSome? fun w =>
        match (List.range (w.last + 1 - w.first)).findSome? fun k => at_ w.cell (w.first + k) with
        | some t => some t
        | none =>
          if c.windows.any fun u => u.trap == trap && u.cell == w.cell && u.bank == w.bank && decide (w.first ≤ u.last) then
            some (BitVec.ofNat 64 (w.cell * 2 ^ 60 + w.bank * 131072))
          else none

/-- A command with tower accesses starts: the checks of its start cycle, and then its effect on the context in which its
accesses stand. -/
def Ctx.startPlan (c : Ctx) (p : Plan) (f : Ctx → Started) : Started :=
  match c.badLine p.lines with
  | some t => .fault causeUncorrectable 0#8 t
  | none =>
    match c.watched? p.watch with
    | some t => .fault causeWatch 0#8 t
    | none =>
      match c.planClash p with
      | some t => .fault causeRmwClash 0#8 t
      | none => f (c.place p)

/-- One access. -/
def Ctx.op (c : Ctx) (e : QEntry) (u : EngUnit) (rank cell cycle off : Nat) (act : TowerAct) : TowerOp :=
  { ord := e.ord, rank := rank, cell := cell, cycle := cycle, trap := c.trap.tctx, unit := u, off := off, act := act }

/-- A read of len bytes at off. -/
def Ctx.readPlan (c : Ctx) (e : QEntry) (u : EngUnit) (rank cell cycle off len : Nat) (dest : ReadTo) : Plan :=
  { ops := [c.op e u rank cell cycle off (.read len dest)], watch := [(cell, off, false)], lines := [(cell, off)] }

/-- A write of the masked bytes of the line at off; keep says where on the tape its old bytes go (R250). -/
def Ctx.writePlan (c : Ctx) (e : QEntry) (u : EngUnit) (rank cell cycle off : Nat) (x : Line) (mask : BitVec 64)
    (keep : Option (Nat × Nat) := none) : Plan :=
  { ops := [{ c.op e u rank cell cycle off (.write x mask) with keep := keep }], watch := [(cell, off, true)] }

/-- The word whose low bit lies at off, placed in its line; and the masked bytes of it, of four. -/
def wordInLine (off x : Nat) : Line := BitVec.ofNat 512 (x <<< (8 * (off % 64)))
def maskInLine (off mask : Nat) : BitVec 64 := BitVec.ofNat 64 (mask <<< (off % 64))

end Sys2Proof.Machine
end

