-- ==== Sys2Proof/Machine/Column.lean ====
section
/-!
DEFINITION. The column commands, major 0x3C, as far as the panel carries them out (R229). What the column engine does with
a job is in Jobs.lean.
-/

namespace Sys2Proof.Machine

/-- A column command (R229): its card is checked at issue, and its start hands a job to the sheet's column engine. -/
def columnEngine (sc : Reg) : Engine :=
  { queue := 3, sa := some sc
    check := fun c =>
      let a := c.rs sc
      if a.toNat % 64 ≠ 0 then some (causeMisaligned, 0#8, a)
      else if a.extractLsb' 48 8 = 0xFF#8 then some (causeProtection, 0#8, a)
      else none
    start := fun _ c e =>
      .done { c with outbox := c.outbox ++ [.job e], jobs := c.jobs + 1, trapJobs := if e.trap then c.trapJobs + 1 else c.trapJobs,
                     revJobs := if e.admode == .rev then c.revJobs + 1 else c.revJobs } }

/-- CFILL (R229, R234): towers filled from global memory. -/
def engCfill (_h : Ex) (a : BitVec 5) (_qc : BitVec 3) (_ax : BitVec 5) : Engine :=
  columnEngine a

/-- CFILL (R229, R234): its issue. -/
def execCfill (h : Ex) (a : BitVec 5) (qc : BitVec 3) (ax : BitVec 5) (s : State) : Host.Outcome State Fault Refusal :=
  onCtx s fun _ c' => c'.command (.cfill h a qc ax) h.e h.start h.c (engCfill h a qc ax)

/-- CDRAIN (R229, R234, R236): towers written to global memory. -/
def engCdrain (_h : Ex) (a : BitVec 5) (_qc : BitVec 3) (_ax : BitVec 5) : Engine :=
  columnEngine a

/-- CDRAIN (R229, R234, R236): its issue. -/
def execCdrain (h : Ex) (a : BitVec 5) (qc : BitVec 3) (ax : BitVec 5) (s : State) : Host.Outcome State Fault Refusal :=
  onCtx s fun _ c' => c'.command (.cdrain h a qc ax) h.e h.start h.c (engCdrain h a qc ax)

/-- CPAIR (R229, R234): towers written to two layouts. -/
def engCpair (_h : Ex) (a : BitVec 5) (_qc : BitVec 3) (_ax : BitVec 5) : Engine :=
  columnEngine a

/-- CPAIR (R229, R234): its issue. -/
def execCpair (h : Ex) (a : BitVec 5) (qc : BitVec 3) (ax : BitVec 5) (s : State) : Host.Outcome State Fault Refusal :=
  onCtx s fun _ c' => c'.command (.cpair h a qc ax) h.e h.start h.c (engCpair h a qc ax)

/-- CGATH (R229, R234): towers filled from the rows of a table. -/
def engCgath (_h : Ex) (a : BitVec 5) (_qc : BitVec 3) (_ax : BitVec 5) : Engine :=
  columnEngine a

/-- CGATH (R229, R234): its issue. -/
def execCgath (h : Ex) (a : BitVec 5) (qc : BitVec 3) (ax : BitVec 5) (s : State) : Host.Outcome State Fault Refusal :=
  onCtx s fun _ c' => c'.command (.cgath h a qc ax) h.e h.start h.c (engCgath h a qc ax)

/-- CCOPY (R229, R234): global memory copied. -/
def engCcopy (_h : Ex) (a : BitVec 5) (_qc : BitVec 3) (_ax : BitVec 5) : Engine :=
  columnEngine a

/-- CCOPY (R229, R234): its issue. -/
def execCcopy (h : Ex) (a : BitVec 5) (qc : BitVec 3) (ax : BitVec 5) (s : State) : Host.Outcome State Fault Refusal :=
  onCtx s fun _ c' => c'.command (.ccopy h a qc ax) h.e h.start h.c (engCcopy h a qc ax)

/-- CRED (R229, R235): towers reduced into global memory. -/
def engCred (_h : Ex) (a : BitVec 5) (_qc : BitVec 3) (_ax : BitVec 5) : Engine :=
  columnEngine a

/-- CRED (R229, R235): its issue. -/
def execCred (h : Ex) (a : BitVec 5) (qc : BitVec 3) (ax : BitVec 5) (s : State) : Host.Outcome State Fault Refusal :=
  onCtx s fun _ c' => c'.command (.cred h a qc ax) h.e h.start h.c (engCred h a qc ax)

end Sys2Proof.Machine
end

