-- ==== Sys2Proof/Config.lean ====
section
/-!
DEFINITION. What the spec leaves to the device: values it does not state, times it gives no figure for, and the
outside world's physics. Each is an opaque constant applied to a plain counter of the state or to the operands it
depends on, so no proof can see its value. The assumption log names each one.
-/

namespace Sys2Proof.Config

/-- Wall cycles from the issue of a global access of a sequencer to its performance, beyond none (R14, R87). -/
opaque memDelay : Nat → Nat
/-- Wall cycles a flag operation takes to reach its home (R73, R267). -/
opaque flagDelay : Nat → Nat
/-- Wall cycles from the performance of a write to its application in a view (R86). -/
opaque viewDelay : Nat → Nat
/-- Wall cycles of a page walk (R393). -/
opaque walkDelay : Nat → Nat
/-- Which entry a full TLB evicts, and whether it evicts one at all (R393). -/
opaque evict : Nat → Nat
/-- Wall cycles between the steps of a column job (R14). -/
opaque jobDelay : Nat → Nat
/-- Wall cycles that loading a task's contents takes at a bind (R379). -/
opaque bindDelay : Nat → Nat
/-- Wall cycles between the steps of a queue reader and the steward (R360, R377). -/
opaque readerDelay : Nat → Nat
/-- SHA3-512 of a list of bytes (R401, R420). -/
opaque sha3 : List Byte → BitVec 512
/-- SHA3-512 of a number of bytes, of which those that are not zero are listed with their places (R401). -/
opaque digest : List (Nat × Byte) → Nat → BitVec 512
/-- ML-DSA-87 signatures: under the identity key, and under the attestation key that a firmware digest gives (R420, R421). -/
opaque signIdentity : List Byte → List Byte
opaque signAttest : BitVec 512 → List Byte → List Byte
/-- The public keys, and the vendor's certificate of the identity key (R420, R421). -/
opaque identityKey : List Byte
opaque attestKey : BitVec 512 → List Byte
opaque certificate : List Byte
/-- Whether an image carries the vendor's signature, and whether it is a configuration image and no firmware (R420, R421). -/
opaque vendorSigned : List Byte → Bool
opaque isConfig : List Byte → Bool
/-- The contents of the boot ROM (R420). -/
opaque rom : List Byte
/-- Sensors: power of an island over a microsecond in mW, under the voltage that is set so many microseconds ahead of its forecast
(R384), and the temperature of an island in 1/16 degree Celsius (R416). -/
opaque power : Nat → Nat → Nat → Nat
opaque temperature : Nat → Nat → Int
/-- What the default firmware expects of an island's activity (R384). -/
opaque forecast : Nat → Nat → Nat
/-- What a screen finds in a physical cell: the numbers of failed banks, and whether its logic failed; and how long it takes
(R414). -/
opaque screenBanks : Nat → Nat → List Nat
opaque screenLogic : Nat → Nat → Bool
opaque screenTime : Nat → Nat
/-- A bit, byte or word the spec gives no value for. -/
opaque freeBits : Nat → Nat

end Sys2Proof.Config
end

