-- ==== Sys2Proof/Machine/ScalarMem.lean ====
section
/-!
DEFINITION. Majors 0x04 to 0x06: the sequencer's loads, stores and atomics (R151 to R155), and the issue of a global
access, which the memory system performs later (R80 to R87).
-/

namespace Sys2Proof.Machine

/-! Leaves (R389, R392). -/

/-- Bits of a leaf. -/
def leafWritable (x : U64) : Bool := bit x 2
def leafExecutable (x : U64) : Bool := bit x 3
def leafHost (x : U64) : Bool := bit x 4
def leafSysat (x : U64) : Bool := bit x 6
def leafDiff (x : U64) : Bool := bit x 7

/-- The entry of a translation unit that covers an address. -/
def tlbFind (tlb : List TlbEntry) (span : Bool) (va : Nat) : Option TlbEntry :=
  tlb.find? (fun t => t.span == span && decide (t.va ≤ va) && decide (va < t.va + t.size))

/-- The kinds of access that need write permission (R392). -/
def GKind.writes : GKind → Bool
  | .store | .atomic _ => true
  | _ => false

/-- Whether a leaf refuses an access (R92, R392): write permission, and an atomic's placement, where a host page takes
only AADD, ASWAP and ACAS, and only when it is system-atomic. -/
def leafRefuses (leaf : U64) (k : GKind) : Bool :=
  (k.writes && !leafWritable leaf) ||
  match k with
  | .atomic op => leafHost leaf && !(leafSysat leaf && (op == 0 || op == 8 || op == 9))
  | _ => false

/-! Values. -/

/-- A loaded value extended to 64 bits (R153). -/
def loadValue (width : Nat) (signed : Bool) (x : Nat) : U64 :=
  BitVec.ofNat 64 (natOf 64 (intOf signed (8 * width) x))

/-- The value an atomic writes, if it writes one (R155). Ops in the order of R136. -/
def atomicNew (op w old x expect : Nat) : Option Nat :=
  let i (y : Nat) : Int := intOf true w y
  match op with
  | 0 => some ((old + x) % 2 ^ w)
  | 1 => some (Nat.land old x)
  | 2 => some (Nat.lor old x)
  | 3 => some (Nat.xor old x)
  | 4 => some (if i x < i old then x else old)
  | 5 => some (if i old < i x then x else old)
  | 6 => some (Nat.min old x)
  | 7 => some (Nat.max old x)
  | 8 => some x
  | _ => if old = expect then some x else none

/-! The local window (R57, R58). -/

/-- A place in the local window: trap memory or not, and the offset in it. -/
def localPlace (x : U64) : Option (Bool × Nat) :=
  let o := (x.extractLsb' 0 48).toNat
  if o < 0x20000 then some (false, o)
  else if 0x100000 ≤ o ∧ o < 0x102000 then some (true, o - 0x100000)
  else none

/-- An address in the local window. -/
def isLocal (x : U64) : Bool := x.extractLsb' 48 8 == 0xFF#8

/-- The bytes of scratch or of trap memory. -/
def Ctx.localMem (c : Ctx) (trapMem : Bool) : Bytes := if trapMem then c.trapMem else c.scratch
/-- The 8-byte units there that hold an uncorrectable error. -/
def Ctx.localBad (c : Ctx) (trapMem : Bool) : List Nat := if trapMem then c.badTrapMem else c.badScratch

/-- The context after a store of width bytes in the local window; a store of a whole 8-byte unit leaves no corrupt data
there. -/
def Ctx.localStore (c : Ctx) (trapMem : Bool) (off width x : Nat) : Ctx :=
  let clean (bad : List Nat) : List Nat := if width = 8 then bad.filter (fun u => u != off / 8) else bad
  if trapMem then { c with trapMem := Store.setNum c.trapMem off width x, badTrapMem := clean c.badTrapMem }
  else { c with scratch := Store.setNum c.scratch off width x, badScratch := clean c.badScratch }

/-- DEBUGCTL watches the line of an address in this direction (R282, R284). -/
def Ctx.watches (c : Ctx) (tower : Bool) (addr : Nat) (write : Bool) : Bool :=
  let d := c.sys.debugCtl
  bit d 5 == tower && (if write then bit d 4 else bit d 3) && addr / 64 == (d.extractLsb' 6 50).toNat

/-! An access (R151). -/

/-- What an access asks for. -/
structure Request where
  kind : GKind
  addr : U64
  width : Nat
  data : U64 := 0#64
  expect : U64 := 0#64
  dest : Option Reg := none
  acquire : Bool := false
  release : Bool := false
  scope : BitVec 3 := 0#3
  deriving DecidableEq, Repr

/-- DEBUGCTL watches the access: an atomic both reads and writes. -/
def Ctx.watched (c : Ctx) (q : Request) : Bool :=
  (q.kind != .store && c.watches false q.addr.toNat false) || (q.kind.writes && c.watches false q.addr.toNat true)

/-- A read of a line of a motif image behind the header's, which DEBUGCTL watches: it raises WATCH, as a load of the sequencer does, and is
not performed (R258, R284). (Log entry 93: DESIGN CHOICE.) -/
def Ctx.imageWatched (c : Ctx) (a : GAccess) : Bool :=
  a.kind == .image && decide (8 ≤ a.expect.toNat) && c.watches false a.va.toNat false

/-- The record of an access, with the walk it needs. (Log entry 13: DEDUCED.) -/
def Request.record (q : Request) (c : Ctx) (w : Walk) (ready lat : Nat) : GAccess :=
  { id := c.freeNo, ord := c.ord, trap := c.trap.tctx, kind := q.kind, va := q.addr, width := q.width, data := q.data,
    expect := q.expect, dest := q.dest, acquire := q.acquire, release := q.release, scope := q.scope, walk := w,
    ready := ready, due := c.now + lat - 1, pc := c.issue.pc, performed := false, value := none, returned := false }

/-- The context with an access on its way. -/
def Ctx.push (c : Ctx) (a : GAccess) : Ctx := ({ c with glob := { c.glob with queue := c.glob.queue ++ [a] } }).tick

/-- An access to scratch or trap memory (R58): its value is fixed at issue and reaches the register with latency 4. One
that finds corrupt data has no effect, and traps in its due cycle (R281). (Log entry 14: DEDUCED.) -/
def Ctx.localAccess (c : Ctx) (q : Request) (trapMem : Bool) (off : Nat) : Ctx :=
  let old := Store.num (c.localMem trapMem) off q.width
  let bad := (c.localBad trapMem).contains (off / 8)
  let whole (value : Option U64) : Ctx :=
    c.push { q.record c (.done off false false) 0 4 with performed := true, value := value }
  match q.kind with
  | .load signed =>
    if bad then whole none
    else match q.dest with | some d => c.putS d (loadValue q.width signed old) 4 | none => c
  | .store => c.localStore trapMem off q.width q.data.toNat
  | .atomic op =>
    if bad then whole none
    else
      let c := match q.dest with | some d => c.putS d (BitVec.ofNat 64 old) 4 | none => c
      match atomicNew op (8 * q.width) old (q.data.toNat % 256 ^ q.width) (q.expect.toNat % 256 ^ q.width) with
      | some x => c.localStore trapMem off q.width x
      | none => c
  | _ => whole (if bad then none else some (BitVec.ofNat 64 old))

/-- An access outside the window (R151, checks 4 and 5): with a translation at hand the leaf decides at issue, and
otherwise a walk does. A committed context writes no global memory (R270). (Log entry 7: DESIGN CHOICE.) -/
def Ctx.globalAccess (c : Ctx) (v : Env) (q : Request) (done : Ctx → Ctx) : Ctx :=
  if q.kind.writes && c.committed then c.trapAt causeProtection 0#8 q.addr
  else
    let n := c.freeNo
    match tlbFind v.tlb false q.addr.toNat with
    | some t =>
      if leafRefuses t.leaf q.kind then c.trapAt causeProtection 0#8 q.addr
      else
        done (c.push (q.record c (.done (t.pa + (q.addr.toNat - t.va)) (leafHost t.leaf) (leafSysat t.leaf))
          (v.gcyc + Config.memDelay n) 12))
    | none => done (c.push (q.record c .walking (v.gcyc + Config.walkDelay n) 12))

/-- An access of the sequencer: the checks of R151 in their order, and then its effect. -/
def Ctx.access (c : Ctx) (v : Env) (q : Request) (done : Ctx → Ctx) : Ctx :=
  if q.addr.extractLsb' 56 8 ≠ 0#8 then c.trapAt causeProtection 0#8 q.addr
  else if q.addr.toNat % q.width ≠ 0 then c.trapAt causeMisaligned 0#8 q.addr
  else if isLocal q.addr then
    match localPlace q.addr with
    | none => c.trapAt causeProtection 0#8 q.addr
    | some (trapMem, off) =>
      if trapMem && q.kind.writes && !c.trap.tctx then c.trapAt causeProtection 0#8 q.addr
      else if c.watched q then c.trapAt causeWatch 0#8 q.addr
      else done (c.localAccess q trapMem off)
  else if c.watched q then c.trapAt causeWatch 0#8 q.addr
  else c.globalAccess v q done

/-- A load (R153). -/
def Ctx.loadOp (c : Ctx) (v : Env) (i : Instr) (e : Bool) (d a : Reg) (off : U64) (width : Nat) (signed acq : Bool)
    (sc : BitVec 3) : Ctx :=
  c.seq i [.s a] (d != 0#5) fun c =>
    c.access v { kind := .load signed, addr := c.rs a + off, width := width, acquire := acq, scope := sc,
                 dest := if d = 0#5 then none else some d } fun c => c.advance e 1

/-- A store (R154). -/
def Ctx.storeOp (c : Ctx) (v : Env) (i : Instr) (e : Bool) (b a : Reg) (off : U64) (width : Nat) (rel : Bool)
    (sc : BitVec 3) : Ctx :=
  c.seq i [.s a, .s b] false fun c =>
    c.access v { kind := .store, addr := c.rs a + off, width := width, data := c.rs b, release := rel, scope := sc }
      fun c => c.advance e 1

/-- An atomic (R136, R155): the order field's bits are acquire and release (R84). -/
def Ctx.atomicOp (c : Ctx) (v : Env) (i : Instr) (e : Bool) (op : Nat) (d a b : Reg) (sc : BitVec 3) (o : BitVec 2)
    (w : Bool) : Ctx :=
  c.seq i (if op = 9 then [.s d, .s a, .s b] else [.s a, .s b]) (d != 0#5) fun c =>
    c.access v { kind := .atomic op, addr := c.rs a, width := if w then 8 else 4, data := c.rs b, expect := c.rs d,
                 acquire := bit o 0, release := bit o 1, scope := sc, dest := if d = 0#5 then none else some d }
      fun c => c.advance e 1

/-- LDB (R153). -/
def execLdb (e : Bool) (d a : BitVec 5) (i : BitVec 12) (s : State) : Host.Outcome State Fault Refusal :=
  onCtx s fun v c => c.loadOp v (.ldb e d a i) e d a (sext i) 1 true false 0#3

/-- LDH (R153). -/
def execLdh (e : Bool) (d a : BitVec 5) (i : BitVec 12) (s : State) : Host.Outcome State Fault Refusal :=
  onCtx s fun v c => c.loadOp v (.ldh e d a i) e d a (sext i) 2 true false 0#3

/-- LDW (R153). -/
def execLdw (e : Bool) (d a : BitVec 5) (i : BitVec 12) (s : State) : Host.Outcome State Fault Refusal :=
  onCtx s fun v c => c.loadOp v (.ldw e d a i) e d a (sext i) 4 true false 0#3

/-- LDD (R153). -/
def execLdd (e : Bool) (d a : BitVec 5) (i : BitVec 12) (s : State) : Host.Outcome State Fault Refusal :=
  onCtx s fun v c => c.loadOp v (.ldd e d a i) e d a (sext i) 8 true false 0#3

/-- LDBU (R153). -/
def execLdbu (e : Bool) (d a : BitVec 5) (i : BitVec 12) (s : State) : Host.Outcome State Fault Refusal :=
  onCtx s fun v c => c.loadOp v (.ldbu e d a i) e d a (sext i) 1 false false 0#3

/-- LDHU (R153). -/
def execLdhu (e : Bool) (d a : BitVec 5) (i : BitVec 12) (s : State) : Host.Outcome State Fault Refusal :=
  onCtx s fun v c => c.loadOp v (.ldhu e d a i) e d a (sext i) 2 false false 0#3

/-- LDWU (R153). -/
def execLdwu (e : Bool) (d a : BitVec 5) (i : BitVec 12) (s : State) : Host.Outcome State Fault Refusal :=
  onCtx s fun v c => c.loadOp v (.ldwu e d a i) e d a (sext i) 4 false false 0#3

/-- LDACQ (R153): an acquire; its offset counts doublewords. -/
def execLdacq (e : Bool) (d a : BitVec 5) (sc : BitVec 3) (o : BitVec 9) (s : State) : Host.Outcome State Fault Refusal :=
  onCtx s fun v c => c.loadOp v (.ldacq e d a sc o) e d a (o.setWidth 64 <<< 3) 8 true true sc

/-- STB (R154). -/
def execStb (e : Bool) (b a : BitVec 5) (i : BitVec 12) (s : State) : Host.Outcome State Fault Refusal :=
  onCtx s fun v c => c.storeOp v (.stb e b a i) e b a (sext i) 1 false 0#3

/-- STH (R154). -/
def execSth (e : Bool) (b a : BitVec 5) (i : BitVec 12) (s : State) : Host.Outcome State Fault Refusal :=
  onCtx s fun v c => c.storeOp v (.sth e b a i) e b a (sext i) 2 false 0#3

/-- STW (R154). -/
def execStw (e : Bool) (b a : BitVec 5) (i : BitVec 12) (s : State) : Host.Outcome State Fault Refusal :=
  onCtx s fun v c => c.storeOp v (.stw e b a i) e b a (sext i) 4 false 0#3

/-- STD (R154). -/
def execStd (e : Bool) (b a : BitVec 5) (i : BitVec 12) (s : State) : Host.Outcome State Fault Refusal :=
  onCtx s fun v c => c.storeOp v (.std e b a i) e b a (sext i) 8 false 0#3

/-- STREL (R154): a release; its offset counts doublewords. -/
def execStrel (e : Bool) (b a : BitVec 5) (sc : BitVec 3) (o : BitVec 9) (s : State) : Host.Outcome State Fault Refusal :=
  onCtx s fun v c => c.storeOp v (.strel e b a sc o) e b a (o.setWidth 64 <<< 3) 8 true sc

/-- AADD (R155). -/
def execAadd (e : Bool) (d a b : BitVec 5) (sc : BitVec 3) (o : BitVec 2) (w : Bool) (s : State) : Host.Outcome State Fault Refusal :=
  onCtx s fun v c => c.atomicOp v (.aadd e d a b sc o w) e 0 d a b sc o w

/-- AAND (R155). -/
def execAand (e : Bool) (d a b : BitVec 5) (sc : BitVec 3) (o : BitVec 2) (w : Bool) (s : State) : Host.Outcome State Fault Refusal :=
  onCtx s fun v c => c.atomicOp v (.aand e d a b sc o w) e 1 d a b sc o w

/-- AOR (R155). -/
def execAor (e : Bool) (d a b : BitVec 5) (sc : BitVec 3) (o : BitVec 2) (w : Bool) (s : State) : Host.Outcome State Fault Refusal :=
  onCtx s fun v c => c.atomicOp v (.aor e d a b sc o w) e 2 d a b sc o w

/-- AXOR (R155). -/
def execAxor (e : Bool) (d a b : BitVec 5) (sc : BitVec 3) (o : BitVec 2) (w : Bool) (s : State) : Host.Outcome State Fault Refusal :=
  onCtx s fun v c => c.atomicOp v (.axor e d a b sc o w) e 3 d a b sc o w

/-- AMIN (R155). -/
def execAmin (e : Bool) (d a b : BitVec 5) (sc : BitVec 3) (o : BitVec 2) (w : Bool) (s : State) : Host.Outcome State Fault Refusal :=
  onCtx s fun v c => c.atomicOp v (.amin e d a b sc o w) e 4 d a b sc o w

/-- AMAX (R155). -/
def execAmax (e : Bool) (d a b : BitVec 5) (sc : BitVec 3) (o : BitVec 2) (w : Bool) (s : State) : Host.Outcome State Fault Refusal :=
  onCtx s fun v c => c.atomicOp v (.amax e d a b sc o w) e 5 d a b sc o w

/-- AMINU (R155). -/
def execAminu (e : Bool) (d a b : BitVec 5) (sc : BitVec 3) (o : BitVec 2) (w : Bool) (s : State) : Host.Outcome State Fault Refusal :=
  onCtx s fun v c => c.atomicOp v (.aminu e d a b sc o w) e 6 d a b sc o w

/-- AMAXU (R155). -/
def execAmaxu (e : Bool) (d a b : BitVec 5) (sc : BitVec 3) (o : BitVec 2) (w : Bool) (s : State) : Host.Outcome State Fault Refusal :=
  onCtx s fun v c => c.atomicOp v (.amaxu e d a b sc o w) e 7 d a b sc o w

/-- ASWAP (R155). -/
def execAswap (e : Bool) (d a b : BitVec 5) (sc : BitVec 3) (o : BitVec 2) (w : Bool) (s : State) : Host.Outcome State Fault Refusal :=
  onCtx s fun v c => c.atomicOp v (.aswap e d a b sc o w) e 8 d a b sc o w

/-- ACAS (R155). -/
def execAcas (e : Bool) (d a b : BitVec 5) (sc : BitVec 3) (o : BitVec 2) (w : Bool) (s : State) : Host.Outcome State Fault Refusal :=
  onCtx s fun v c => c.atomicOp v (.acas e d a b sc o w) e 9 d a b sc o w

end Sys2Proof.Machine
end

