-- ==== Sys2Proof/Machine/Control.lean ====
section
/-!
DEFINITION. Majors 0x07 to 0x09, and of 0x0A the forms that steer control: branches and conditions (R28 to R30, R156 to
R158), loops and time (R34, R44 to R47, R159 to R161), fences, traps, exit and waits (R51, R54, R85, R163 to R166).
-/

namespace Sys2Proof.Machine

/-- Issue goes on inside a hardware-loop body; a handler is not part of it (R159). -/
def Ctx.inBody (c : Ctx) : Bool := c.loop.isSome && !c.trap.tctx

/-- A wait instruction at pc: when its condition is true now, the next packet issues 13 cycles on (R54). -/
def Ctx.startWait (c : Ctx) (w : Wait) (met : Bool) : Ctx :=
  { c with issue := { c.issue with waitPc := c.issue.pc, waitSlots := c.issue.slots, waitTaken := c.issue.taken,
                                   wait := if met then .wake (c.now + 13) else w } }

/-! Branches (R28, R156, R157). -/

/-- PTGT (R156): relative to its own address. -/
def execPtgt (e : Bool) (n : BitVec 2) (o : BitVec 21) (s : State) : Host.Outcome State Fault Refusal :=
  onCtx s fun _ c => c.seq (.ptgt e n o) [] true fun c => (c.putB n (c.issue.pc + (sext o <<< 2))).advance e 1

/-- PTGTR (R156). -/
def execPtgtr (e : Bool) (n : BitVec 2) (a : BitVec 5) (s : State) : Host.Outcome State Fault Refusal :=
  onCtx s fun _ c => c.seq (.ptgtr e n a) [.s a] true fun c => (c.putB n (c.rs a)).advance e 1

/-- BR and BRL (R28, R157): the two packets that follow are delay slots; a BRL that transfers writes s31. A packet that goes on behind
it is refused before its place in a loop body. (Log entry 47: DEDUCED.) -/
def Ctx.branchOp (c : Ctx) (i : Instr) (e : Bool) (n : BitVec 2) (k : BitVec 3) (sense link : Bool) : Ctx :=
  c.seq i [.b n, .c k] (link && c.rc k == sense) fun c =>
    let taken := c.rc k == sense
    let target := c.rb n
    let pc := c.issue.pc
    if !e then c.trapAt causeIllegal 0x06#8 pc
    else if c.inBody then c.illegal i 0x09#8
    else if taken && target.extractLsb' 0 2 != 0#2 then c.trapAt causeMisaligned 0#8 target
    else
      let c := if link && taken then c.putS 31#5 (pc + 12#64) 1 else c
      let c := c.advance e 1
      { c with issue := { c.issue with slots := 2, taken := taken, target := target, branch := pc, link := link, breg := n } }

/-- BR (R28, R157). -/
def execBr (e : Bool) (n : BitVec 2) (c : BitVec 3) (sn : Bool) (s : State) : Host.Outcome State Fault Refusal :=
  onCtx s fun _ x => x.branchOp (.br e n c sn) e n c sn false

/-- BRL (R28, R157). -/
def execBrl (e : Bool) (n : BitVec 2) (c : BitVec 3) (sn : Bool) (s : State) : Host.Outcome State Fault Refusal :=
  onCtx s fun _ x => x.branchOp (.brl e n c sn) e n c sn true

/-! Conditions (R158). -/

/-- A compare of two scalars. -/
def Ctx.compareOp (c : Ctx) (i : Instr) (e : Bool) (d a b : Reg) (f : U64 → U64 → Bool) : Ctx :=
  c.seq i [.s a, .s b] (d != 0#5) fun c => (c.putC (d.setWidth 3) (f (c.rs a) (c.rs b))).advance e 1

/-- An operation on two conditions. -/
def Ctx.condOp (c : Ctx) (i : Instr) (e : Bool) (d a b : Reg) (f : Bool → Bool → Bool) : Ctx :=
  c.seq i [.c (a.setWidth 3), .c (b.setWidth 3)] (d != 0#5) fun c =>
    (c.putC (d.setWidth 3) (f (c.rc (a.setWidth 3)) (c.rc (b.setWidth 3)))).advance e 1

/-- CMPEQ (R158). -/
def execCmpeq (e : Bool) (d a b : BitVec 5) (s : State) : Host.Outcome State Fault Refusal :=
  onCtx s fun _ c => c.compareOp (.cmpeq e d a b) e d a b fun x y => x == y

/-- CMPNE (R158). -/
def execCmpne (e : Bool) (d a b : BitVec 5) (s : State) : Host.Outcome State Fault Refusal :=
  onCtx s fun _ c => c.compareOp (.cmpne e d a b) e d a b fun x y => x != y

/-- CMPLT (R158). -/
def execCmplt (e : Bool) (d a b : BitVec 5) (s : State) : Host.Outcome State Fault Refusal :=
  onCtx s fun _ c => c.compareOp (.cmplt e d a b) e d a b fun x y => x.slt y

/-- CMPGE (R158). -/
def execCmpge (e : Bool) (d a b : BitVec 5) (s : State) : Host.Outcome State Fault Refusal :=
  onCtx s fun _ c => c.compareOp (.cmpge e d a b) e d a b fun x y => !x.slt y

/-- CMPLTU (R158). -/
def execCmpltu (e : Bool) (d a b : BitVec 5) (s : State) : Host.Outcome State Fault Refusal :=
  onCtx s fun _ c => c.compareOp (.cmpltu e d a b) e d a b fun x y => x.ult y

/-- CMPGEU (R158). -/
def execCmpgeu (e : Bool) (d a b : BitVec 5) (s : State) : Host.Outcome State Fault Refusal :=
  onCtx s fun _ c => c.compareOp (.cmpgeu e d a b) e d a b fun x y => !x.ult y

/-- CAND (R158). -/
def execCand (e : Bool) (d a b : BitVec 5) (s : State) : Host.Outcome State Fault Refusal :=
  onCtx s fun _ c => c.condOp (.cand e d a b) e d a b fun x y => x && y

/-- COR (R158). -/
def execCor (e : Bool) (d a b : BitVec 5) (s : State) : Host.Outcome State Fault Refusal :=
  onCtx s fun _ c => c.condOp (.cor e d a b) e d a b fun x y => x || y

/-- CXOR (R158). -/
def execCxor (e : Bool) (d a b : BitVec 5) (s : State) : Host.Outcome State Fault Refusal :=
  onCtx s fun _ c => c.condOp (.cxor e d a b) e d a b fun x y => x != y

/-- CNOT (R158). -/
def execCnot (e : Bool) (d a : BitVec 5) (s : State) : Host.Outcome State Fault Refusal :=
  onCtx s fun _ c => c.condOp (.cnot e d a) e d a a fun x _ => !x

/-- SEL (R158): by the value of sd read at issue. -/
def execSel (e : Bool) (d a b : BitVec 5) (s : State) : Host.Outcome State Fault Refusal :=
  onCtx s fun _ c => c.alu (.sel e d a b) e d [.s d, .s a, .s b] 1 fun c => if c.rs d = 0#64 then c.rs b else c.rs a

/-- CTOS (R158). -/
def execCtos (e : Bool) (d a : BitVec 5) (s : State) : Host.Outcome State Fault Refusal :=
  onCtx s fun _ c => c.alu (.ctos e d a) e d [.c (a.setWidth 3)] 1 fun c => ofBool64 (c.rc (a.setWidth 3))

/-! Loops (R44 to R47, R159, R160). -/

/-- The word at an address of the loaded TEXT. -/
def Code.word (c : Code) (a : U64) : Option U32 :=
  if (a - c.base).toNat % 4 = 0 then c.words[(a - c.base).toNat / 4]? else none

/-- The E bit of the instruction whose last word is the last of n words from address a, when there is one. -/
def Code.endsPacket (c : Code) : Nat → U64 → Nat → Bool
  | 0, _, _ => false
  | fuel + 1, a, n =>
    match c.word a with
    | none => false
    | some w =>
      let k := lengthOf w.toNat
      if n < k then false
      else if n = k then (c.word (a + BitVec.ofNat 64 (4 * (k - 1)))).isSome && bit w 25
      else c.endsPacket fuel (a + BitVec.ofNat 64 (4 * k)) (n - k)

/-- LOOP (R44, R159). With N = 0 issue goes on after the body. -/
def execLoop (e : Bool) (a : BitVec 5) (st : BitVec 3) (l : BitVec 6) (s : State) : Host.Outcome State Fault Refusal :=
  onCtx s fun _ c => c.seq (.loop e a st l) [.s a] false fun c =>
    let body := c.issue.pc + 4#64
    let len := l.toNat + 1
    let n := (c.rs a).toNat % 2 ^ 32
    if c.trap.tctx || c.loop.isSome || !c.code.endsPacket 65 body len then c.illegal (.loop e a st l) 0x09#8
    else
      let c := c.advance e 1
      if n = 0 then { c with issue := { c.issue with pc := body + BitVec.ofNat 64 (4 * len) } }
      else
        { c with loop := some { body := body, len := len, stages := st.toNat, first := 0, total := n,
                                passes := n + st.toNat - 1, pass := 0, pending := true, whole := n, leftAt := 0,
                                draining := false } }

/-- A loop after an LBREAK of stage k (R47): iteration i, that of stage k in the current pass, is the last; the loop ends
once it has passed through every stage. -/
def LoopState.break_ (l : LoopState) (k : Nat) : LoopState :=
  let i : Int := (l.pass : Int) - k + 1
  { l with total := Nat.min l.total (i + 1).toNat, whole := Nat.min l.whole (i + 1).toNat,
           passes := Nat.min l.passes (l.pass + 1 + (l.stages - k)),
           cut := some (match l.cut with | some j => if j < i then j else i | none => i) }

/-- Queue entries whose iteration number is at most i, and those with none (R47). -/
def keepIter (i : Int) (qs : List QEntry) : List QEntry :=
  qs.filter (fun q => match q.iter with | some k => decide (k ≤ i) | none => true)

/-- LBREAK (R47, R160). -/
def execLbreak (e : Bool) (c : BitVec 5) (k : BitVec 3) (s : State) : Host.Outcome State Fault Refusal :=
  onCtx s fun _ x => x.seq (.lbreak e c k) [.c (c.setWidth 3)] false fun x =>
    match (if x.trap.tctx then none else x.loop) with
    | none => x.illegal (.lbreak e c k) 0x09#8
    | some l =>
      if l.stages < k.toNat then x.illegal (.lbreak e c k) 0x08#8
      else if x.rc (c.setWidth 3) then
        ({ x with loop := some (l.break_ k.toNat),
                  eng := { x.eng with q := vmap (fun _ qs => keepIter ((l.pass : Int) - k.toNat + 1) qs) x.eng.q } }).advance e 1
      else x.advance e 1

/-! Time (R34, R161). -/

/-- A command of the packet that holds a TSTART takes the new anchor, wherever it stands in the packet (R34).
(Log entry 19: DEDUCED.) -/
def QEntry.reanchor (q : QEntry) (first anchor : Nat) : QEntry :=
  if q.trap || decide (q.ord < first) then q
  else { q with due := q.due.map (fun _ => anchor + q.instr.startField) }

/-- TSTART (R34, R161). -/
def execTstart (e : Bool) (s : State) : Host.Outcome State Fault Refusal :=
  onCtx s fun _ c => c.seq (.tstart e) [] false fun c =>
    if c.trap.tctx || c.inBody then c.illegal (.tstart e) 0x09#8
    else
      let t := c.time.ptime
      ({ c with time := { c.time with anchor := t },
                eng := { c.eng with q := vmap (fun _ (qs : List QEntry) => qs.map (fun (q : QEntry) => q.reanchor (c.ord - c.issue.done) t)) c.eng.q } }).advance e 1

/-- TWAIT (R161): it ends at once in trap context. -/
def execTwait (e : Bool) (a : BitVec 5) (i : BitVec 12) (s : State) : Host.Outcome State Fault Refusal :=
  onCtx s fun _ c => c.seq (.twait e a i) [.s a] false fun c =>
    let target : Int := (c.rs a + sext i).toInt
    if c.trap.tctx || decide (target ≤ (c.tcyc : Int)) then c.advance e 1
    else (c.startWait (.twait target) false).advance e 1

/-- TREAD (R161). In trap context panel time stands at the stop cycle. -/
def execTread (e : Bool) (d : BitVec 5) (sl : BitVec 2) (s : State) : Host.Outcome State Fault Refusal :=
  onCtx s fun v c => c.alu (.tread e d sl) e d [] 1 fun c =>
    match sl.toNat with
    | 0 => BitVec.ofNat 64 c.tcyc
    | 1 => BitVec.ofNat 64 v.gcyc
    | 2 => BitVec.ofNat 64 (if c.trap.tctx then c.time.ptime - 1 else c.time.ptime)
    | _ => c.time.holdcnt

/-! Fences (R85, R163). -/

/-- The views of the observers within a scope of an agent on a die (R81, R86). -/
def scopeViews (die : Nat) (sc : BitVec 3) : BitVec 5 :=
  match sc.toNat with
  | 3 => 0x0F#5
  | 4 => 0x1F#5
  | _ => BitVec.ofNat 5 (2 ^ die)

/-- An access that stores: a store or an atomic (R85). -/
def GAccess.stores (a : GAccess) : Bool := a.kind.writes

/-- The context's earlier stores have been performed and applied to the views of a scope. (Log entry 58: DEDUCED.) -/
def Ctx.storesApplied (c : Ctx) (v : Env) (views : BitVec 5) : Bool :=
  !c.glob.queue.any (fun a => a.stores && !a.performed && !c.isPending a) &&
    !v.writes.any (fun w => w.agent == c.agent && w.views &&& views != views)

/-- The column jobs that the context issued have retired: none is queued and none runs. In trap context the frozen entries
of the queue do not count. -/
def Ctx.jobsRetired (c : Ctx) : Bool :=
  c.jobs == 0 && !(vget [] c.eng.q 3).any (fun q => q.trap == c.trap.tctx)

/-- A column job of the context made a write (R80). -/
def Agent.jobOf (a : Agent) (c : Ctx) : Bool :=
  match a with
  | .job _ task index => task == c.id.taskId.toNat && index == c.index
  | _ => false

/-- A fence in the context's past; with ENG the writes of its retired jobs come before its later accesses, as by an acquire at the
fence's scope (R85). -/
def Ctx.fence (c : Ctx) (v : Env) (sc : BitVec 3) (k : BitVec 5) : Ctx :=
  let ids := (v.writes.filter fun w => w.agent.jobOf c).map (·.id)
  let q : Past := { ord := c.ord, loads := true, stores := false, writes := ids, acquire := true, scope := sc, onHost := false, addr := 0, width := 0 }
  { c with glob := { c.glob with fences := c.glob.fences ++ [({ ord := c.ord, scope := sc, kinds := k } : FenceMark)],
                                 past := if bit k 4 && !ids.isEmpty then c.glob.past ++ [q] else c.glob.past } }

/-- FENCE (R85, R163): LL, LS and SS never stop issue; SL and ENG stall the sequencer until they hold. -/
def execFence (e : Bool) (sc : BitVec 3) (k : BitVec 5) (s : State) : Host.Outcome State Fault Refusal :=
  onCtx s fun v c => c.seq (.fence e sc k) [] false fun c =>
    let sl := bit k 3 && !c.storesApplied v (scopeViews (dieOf c.id.panel) sc)
    let eng := bit k 4 && !c.jobsRetired
    if sl || eng then c.stall
    else (c.fence v sc k).advance e 1

/-! Traps, return, exit, yield and events (R164 to R166). -/

/-- TRAP (R164). -/
def execTrap (e : Bool) (i : BitVec 12) (s : State) : Host.Outcome State Fault Refusal :=
  onCtx s fun _ c => c.seq (.trap e i) [] false fun c => c.trapAt causeTrapinsn 0#8 (i.setWidth 64)

/-- Every command of the trap context has finished and written its results, and its loads have returned (R279). -/
def Ctx.trapIdle (c : Ctx) : Bool :=
  !c.eng.q.toList.any (fun qs => qs.any (fun q => q.trap)) &&
    !c.landings.any (fun l => l.trap && l.unit != .seq) && !c.towerOps.any (fun o => o.trap) &&
    !c.flights.any (fun f => f.trap) &&
    !c.glob.queue.any (fun a => a.trap && !a.performed && (a.dest.isSome || a.walk == .walking)) &&
    !c.glob.queue.any (fun a => a.trap && a.dest.isSome && !a.returned)

/-- RFT (R164, R279): in normal context PRIVILEGED; in trap context it issues once the trap context's commands have
finished, and the return is made at the end of its cycle. -/
def execRft (e : Bool) (s : State) : Host.Outcome State Fault Refusal :=
  onCtx s fun _ c => c.seq (.rft e) [] false fun c =>
    if !c.trap.tctx then c.trapAt causePrivileged 0#8 (Instr.rft e).tvalWords
    else if !c.trapIdle then c.stall
    else ({ c with issue := { c.issue with leaving := true } }).advance e 1

/-- EXIT (R51, R165). -/
def execExit (e : Bool) (s : State) : Host.Outcome State Fault Refusal :=
  onCtx s fun _ c => c.seq (.exit e) [] false fun c =>
    if c.trap.tctx || c.inBody then c.illegal (.exit e) 0x09#8
    else ({ c with issue := { c.issue with exited := true, exitPc := c.issue.pc } }).advance e 1

/-- YIELD (R165, R286): a stop point when a graceful request is pending, outside a loop body and trap context. -/
def execYield (e : Bool) (s : State) : Host.Outcome State Fault Refusal :=
  onCtx s fun _ c => c.seq (.yield e) [] false fun c =>
    if c.preempt.req && !c.trap.tctx && c.loop.isNone then
      ({ c with issue := { c.issue with yields := true } }).advance e 1
    else c.advance e 1

/-- The latches as the bits of WAITEV (R166). -/
def Latches.bits (l : Latches) : BitVec 4 :=
  (if l.job then 1#4 else 0#4) ||| (if l.xport then 2#4 else 0#4) ||| (if l.ring then 4#4 else 0#4) |||
    (if l.preempt then 8#4 else 0#4)

/-- The latches with the selected ones cleared. -/
def Latches.clear (l : Latches) (sel : BitVec 4) : Latches :=
  { job := l.job && !bit sel 0, xport := l.xport && !bit sel 1, ring := l.ring && !bit sel 2,
    preempt := l.preempt && !bit sel 3 }

/-- WAITEV (R54, R166). -/
def execWaitev (e : Bool) (v : BitVec 4) (s : State) : Host.Outcome State Fault Refusal :=
  onCtx s fun _ c => c.seq (.waitev e v) [] false fun c =>
    let met := c.latch.bits &&& v != 0#4
    let c := c.startWait (.waitev v) met
    (if met then { c with latch := c.latch.clear v } else c).advance e 1

/-! Words that are no instruction (R135 to R138). -/

/-- UNASSIGNED_ENCODING (R135, R138): ILLEGAL, precise at the instruction, with its words in TVAL. -/
def execUnassignedEncoding (sub : BitVec 8) (w0 w1 : BitVec 32) (s : State) : Host.Outcome State Fault Refusal :=
  onCtx s fun _ c => c.trapAt causeIllegal sub (w1 ++ w0 : BitVec 64)

end Sys2Proof.Machine
end

