-- ==== Sys2Proof/Machine/Flags.lean ====
section
/-!
DEFINITION. The system registers as 64-bit images (R13, R23, R38, R64, R72, R78, R100, R104, R112, R117, R143, R209,
R245, R248, R249, R257, R262, R275, R282, R285): what SRD reads, and what SWR may write and writes.
-/

namespace Sys2Proof.Machine

/-- A number as 64 bits. -/
def u64 (x : Nat) : U64 := BitVec.ofNat 64 x

/-- AFLAGS (R64, R104). -/
def Flags.image (f : Flags) : U64 :=
  ofBool64 f.nv ||| (ofBool64 f.ovf <<< 1) ||| (ofBool64 f.sat <<< 2) ||| (ofBool64 f.clash <<< 16)

/-- The flags an AFLAGS image holds. -/
def Flags.ofImage (x : U64) : Flags := ⟨bit x 0, bit x 1, bit x 2, bit x 16⟩

/-- ROUND (R100). -/
def SysRegs.roundImage (s : SysRegs) : U64 :=
  (s.srctr.setWidth 64 <<< 32) ||| (ofBool64 s.ftz <<< 3) ||| s.round.setWidth 64

/-- CHKTOL (R112). -/
def SysRegs.chkImage (s : SysRegs) : U64 :=
  (s.chkCount.setWidth 64 <<< 48) ||| (ofBool64 s.chkMode <<< 32) ||| s.chkTol.setWidth 64

/-- STATUS (R275). -/
def Ctx.statusImage (c : Ctx) : U64 :=
  (ofBool64 c.trap.deferred.isSome <<< 7) ||| (ofBool64 c.trap.barw <<< 6) ||| (ofBool64 c.loop.isSome <<< 5) |||
    (ofBool64 c.preempt.req <<< 4) ||| (ofBool64 c.trap.pacc <<< 3) ||| (c.trap.dslot.setWidth 64 <<< 1) |||
    ofBool64 c.trap.tctx

/-- The base of the vectors: trap memory (R275). -/
def trapBase : U64 := 0x00FF000000100000#64

/-- PREEMPT (R285). -/
def Preempt.image (p : Preempt) : U64 :=
  (ofBool64 p.notify <<< 18) ||| (ofBool64 p.lastf <<< 17) ||| (ofBool64 p.req <<< 16) ||| p.grace.setWidth 64

/-- The mode's code (R247, R248). -/
def AdMode.code : AdMode → Nat
  | .off => 0
  | .fwd => 1
  | .rev => 2

/-- MOTBIND's four bits for a code (R257). -/
def bindBits (x : Option (BitVec 3)) : Nat := match x with | some k => 8 + k.toNat | none => 0

/-- Sixteen fields of four bits, the first lowest. -/
def nibbles : List Nat → Nat
  | [] => 0
  | x :: xs => x + 16 * nibbles xs

/-- MOTBIND register k (R143, R257). -/
def Motifs.bindImage (m : Motifs) (k : Nat) : U64 := u64 (nibbles (((m.bind.toList.drop (16 * k)).take 16).map bindBits))

/-- A slot's state (R257). -/
def Slot.state : Slot → Nat
  | .empty => 0
  | .loading => 1
  | .loaded _ => 2
  | .failed _ => 3

/-- MOTSTAT (R257). -/
def slotStates : List Slot → Nat
  | [] => 0
  | x :: xs => x.state + 4 * slotStates xs

/-- SPSTATE (R262). -/
def Specul.image (s : Specul) : U64 := (ofBool64 s.active <<< 32) ||| s.ctr.setWidth 64

/-- REFSTAT (R78). -/
def Ctx.refImage (c : Ctx) (v : Env) : U64 :=
  (v.fbase.setWidth 64 <<< 48) ||| (v.margin.setWidth 64 <<< 32) ||| c.sys.forced.setWidth 64

/-- The value SRD reads from a register number; none for a number that R143 does not list. -/
def Ctx.sysRead (c : Ctx) (v : Env) (n : Nat) : Option U64 :=
  if n = 0x000 then some (u64 c.id.panel)
  else if n = 0x001 then some c.id.taskId
  else if n = 0x002 then some c.id.taskPanel
  else if n = 0x003 then some c.id.taskShape
  else if n = 0x004 then some c.id.argPtr
  else if n = 0x010 then some (u64 c.tcyc)
  else if n = 0x011 then some c.time.holdcnt
  else if n = 0x012 then some (c.time.holdmax.setWidth 64)
  else if n = 0x013 then some (u64 v.gcyc)
  else if n = 0x020 then some c.statusImage
  else if n = 0x021 then some c.trap.cause
  else if n = 0x022 then some c.trap.tpc
  else if n = 0x023 then some c.trap.tval
  else if n = 0x024 then some c.trap.tcut
  else if n = 0x025 then some (trapBase ||| (c.trap.offset.setWidth 64 <<< 6))
  else if n = 0x026 then some c.preempt.image
  else if n = 0x027 then some c.sys.debugCtl
  else if n = 0x030 then some c.sys.rngkey
  else if n = 0x031 then some (c.sys.rngstr.setWidth 64)
  else if n = 0x032 then some (c.sys.rngctr.setWidth 64)
  else if n = 0x040 then some c.sys.roundImage
  else if n = 0x041 then some c.sys.aflags.image
  else if n = 0x042 then some c.sys.chkImage
  else if 0x050 ≤ n ∧ n < 0x058 then some (vget 0#64 c.adj.dregBase (n - 0x050))
  else if 0x058 ≤ n ∧ n < 0x060 then some (vget 0#64 c.adj.dregCtl (n - 0x058))
  else if n = 0x060 then some (c.adj.tapeBase.setWidth 64)
  else if n = 0x061 then some (c.adj.tapeLim.setWidth 64)
  else if n = 0x062 then some (c.adj.tapePtr.setWidth 64)
  else if n = 0x063 then some (c.adj.tapeSpill.setWidth 64)
  else if n = 0x064 then some (u64 c.adj.mode.code)
  else if 0x070 ≤ n ∧ n < 0x074 then some (c.motif.bindImage (n - 0x070))
  else if n = 0x074 then some (u64 (slotStates c.motif.slots.toList))
  else if n = 0x080 then some (u64 c.fmt.queue.length)
  else if n = 0x090 then some (c.spec.rings.setWidth 64)
  else if n = 0x091 then some c.spec.image
  else if n = 0x0A0 then some c.id.flagBase
  else if n = 0x0B0 then some (c.sys.deferlim.setWidth 64)
  else if n = 0x0B1 then some (c.refImage v)
  else none

/-- The rights of a register (R143). -/
inductive Rights where
  | readOnly
  | trapOnly
  | writable
  /-- a number R143 does not list -/
  | absent
  deriving DecidableEq, Repr

/-- The rights of a register number (R143). -/
def sysRights (n : Nat) : Rights :=
  if n ≤ 0x004 ∨ n = 0x010 ∨ n = 0x013 ∨ n = 0x064 ∨ (0x070 ≤ n ∧ n ≤ 0x074) ∨ n = 0x080 ∨ n = 0x090 ∨ n = 0x091 ∨
      n = 0x0A0 then .readOnly
  else if 0x020 ≤ n ∧ n ≤ 0x027 then .trapOnly
  else if n = 0x011 ∨ n = 0x012 ∨ (0x030 ≤ n ∧ n ≤ 0x032) ∨ (0x040 ≤ n ∧ n ≤ 0x042) ∨ (0x050 ≤ n ∧ n ≤ 0x063) ∨
      n = 0x0B0 ∨ n = 0x0B1 then .writable
  else .absent

/-- Bits lo to hi of a value are not all zero. -/
def someBit (x : U64) (lo hi : Nat) : Bool := (x.toNat / 2 ^ lo) % 2 ^ (hi + 1 - lo) != 0

/-- A reserved value of a register (R38, R78, R100, R104, R112, R117, R245, R249, R275, R282). A TOL of -0 counts as negative.
(Log entry 85: DESIGN CHOICE.) -/
def reservedValue (n : Nat) (x : U64) : Bool :=
  if n = 0x012 then someBit x 32 63
  else if n = 0x020 then x.extractLsb' 1 2 == 3#2
  else if n = 0x021 then someBit x 21 63 || someBit x 18 19
  else if n = 0x022 then someBit x 0 1
  else if n = 0x025 then x >>> 13 != trapBase >>> 13 || decide (0x1900 < (x.extractLsb' 6 7).toNat * 64) || someBit x 0 5
  else if n = 0x027 then someBit x 56 63 || bit x 2 || (bit x 5 && someBit x 23 55)
  else if n = 0x031 ∨ n = 0x032 ∨ n = 0x063 then someBit x 32 63
  else if n = 0x040 then someBit x 4 31 || decide (5 ≤ (x.extractLsb' 0 3).toNat)
  else if n = 0x041 then someBit x 17 63 || someBit x 3 15
  else if n = 0x042 then
    someBit x 33 47 || bit x 31 || x.extractLsb' 23 8 == 0xFF#8 || (x.extractLsb' 23 8 == 0#8 && x.extractLsb' 0 23 != 0#23)
  else if 0x050 ≤ n ∧ n < 0x058 then someBit x 56 63 || someBit x 0 5
  else if 0x058 ≤ n ∧ n < 0x060 then bit x 61 || someBit x 56 59
  else if 0x060 ≤ n ∧ n ≤ 0x062 then someBit x 23 63 || someBit x 0 3
  else if n = 0x0B0 then someBit x 16 63
  else false

/-- The context with a register written by SWR; fields that ignore writes keep their values. -/
def Ctx.sysWrite (c : Ctx) (n : Nat) (x : U64) : Ctx :=
  if n = 0x011 then { c with time := { c.time with holdcnt := x } }
  else if n = 0x012 then
    { c with time := { c.time with holdmax := if x.toNat < 256 then 256#32 else x.extractLsb' 0 32 } }
  else if n = 0x020 then { c with trap := { c.trap with pacc := bit x 3, dslot := x.extractLsb' 1 2 } }
  else if n = 0x021 then { c with trap := { c.trap with cause := x } }
  else if n = 0x022 then { c with trap := { c.trap with tpc := x } }
  else if n = 0x023 then { c with trap := { c.trap with tval := x } }
  else if n = 0x024 then { c with trap := { c.trap with tcut := x } }
  else if n = 0x025 then { c with trap := { c.trap with offset := x.extractLsb' 6 7 } }
  else if n = 0x026 then { c with preempt := { c.preempt with notify := bit x 18 } }
  else if n = 0x027 then { c with sys := { c.sys with debugCtl := x } }
  else if n = 0x030 then { c with sys := { c.sys with rngkey := x } }
  else if n = 0x031 then { c with sys := { c.sys with rngstr := x.extractLsb' 0 32 } }
  else if n = 0x032 then { c with sys := { c.sys with rngctr := x.extractLsb' 0 32 } }
  else if n = 0x040 then
    { c with sys := { c.sys with srctr := x.extractLsb' 32 32, ftz := bit x 3, round := x.extractLsb' 0 3 } }
  else if n = 0x041 then { c with sys := { c.sys with aflags := Flags.ofImage x } }
  else if n = 0x042 then
    { c with sys := { c.sys with chkCount := x.extractLsb' 48 16, chkMode := bit x 32, chkTol := x.extractLsb' 0 32 } }
  else if 0x050 ≤ n ∧ n < 0x058 then { c with adj := { c.adj with dregBase := vset c.adj.dregBase (n - 0x050) x } }
  else if 0x058 ≤ n ∧ n < 0x060 then { c with adj := { c.adj with dregCtl := vset c.adj.dregCtl (n - 0x058) x } }
  else if n = 0x060 then { c with adj := { c.adj with tapeBase := x.extractLsb' 0 23 } }
  else if n = 0x061 then { c with adj := { c.adj with tapeLim := x.extractLsb' 0 23 } }
  else if n = 0x062 then { c with adj := { c.adj with tapePtr := x.extractLsb' 0 23 } }
  else if n = 0x063 then { c with adj := { c.adj with tapeSpill := x.extractLsb' 0 32 } }
  else if n = 0x0B0 then { c with sys := { c.sys with deferlim := x.extractLsb' 0 16 } }
  else if n = 0x0B1 then { c with sys := { c.sys with forced := x.extractLsb' 0 32 } }
  else c

end Sys2Proof.Machine
end

