-- ==== Sys2Proof/Machine/SysRegs.lean ====
section
/-!
DEFINITION. SRD and SWR (R142, R143, R162), and queue control: QFLUSH, QSYNC, QMARK and QDEPTH (R167 to R169).
-/

namespace Sys2Proof.Machine

/-- SRD (R142, R143, R162), latency 2. -/
def execSrd (e : Bool) (d : BitVec 5) (r : BitVec 12) (s : State) : Host.Outcome State Fault Refusal :=
  onCtx s fun v c => c.seq (.srd e d r) [] (d != 0#5) fun c =>
    match c.sysRead v r.toNat with
    | some x => (c.putS d x 2).advance e 1
    | none => c.illegal (.srd e d r) 0x08#8

/-- The write of an SWR after the checks of the register's rights, in the order of R139: an absent register and a reserved
value (0x08), the place (0x09), a read-only register (0x0A); a register for trap context raises PRIVILEGED in normal
context. -/
def Ctx.swr (c : Ctx) (i : Instr) (e : Bool) (n : Nat) (x : U64) : Ctx :=
  match sysRights n with
  | .absent => c.illegal i 0x08#8
  | .readOnly => c.illegal i 0x0A#8
  | .trapOnly =>
    if !c.trap.tctx then c.trapAt causePrivileged 0#8 i.tvalWords
    else if reservedValue n x then c.illegal i 0x08#8
    else (c.sysWrite n x).advance e 1
  | .writable =>
    if reservedValue n x then c.illegal i 0x08#8
    else if decide (0x050 ≤ n ∧ n < 0x060) && c.adj.mode != .off then c.illegal i 0x09#8
    else (c.sysWrite n x).advance e 1

/-- SWR (R143, R162): it takes effect at issue. -/
def execSwr (e : Bool) (a : BitVec 5) (r : BitVec 12) (s : State) : Host.Outcome State Fault Refusal :=
  onCtx s fun _ c => c.seq (.swr e a r) [.s a] false fun c => c.swr (.swr e a r) e r.toNat (c.rs a)

/-! Queue control. -/

/-- QFLUSH (R167); in trap context it discards the frozen entries (R278). -/
def execQflush (e : Bool) (m : BitVec 4) (s : State) : Host.Outcome State Fault Refusal :=
  onCtx s fun _ c => c.seq (.qflush e m) [] false fun c =>
    let qs := vmap (fun k (x : List QEntry) => if bit m k then x.filter (fun (q : QEntry) => q.trap) else x) c.eng.q
    ({ c with eng := { c.eng with q := qs } }).advance e 1

/-- The unit of a queue. -/
def unitOf (q : Nat) : EngUnit :=
  match q with
  | 0 => .q0
  | 1 => .q1
  | 2 => .q2
  | _ => .q3

/-- Every command of a queue, of the running context of execution, has started, finished its occupancy and written its
results; for Q3 its jobs have retired (R168, R278). -/
def Ctx.queueDone (c : Ctx) (q : Nat) : Bool :=
  let t := c.trap.tctx
  !(vget [] c.eng.q q).any (fun x => x.trap == t) &&
    decide ((if t then vget 0 c.eng.ownTrap q else vget 0 c.eng.free q) ≤ c.now) &&
    !c.landings.any (fun l => l.unit == unitOf q && l.trap == t) &&
    !c.towerOps.any (fun o => o.unit == unitOf q && o.trap == t) &&
    (q != 1 || !c.flights.any (fun f => f.trap == t)) &&
    (q != 3 || (if t then c.trapJobs else c.jobs) == 0)

/-- QSYNC (R168): the sequencer alone stalls. -/
def execQsync (e : Bool) (m : BitVec 4) (s : State) : Host.Outcome State Fault Refusal :=
  onCtx s fun _ c => c.seq (.qsync e m) [] false fun c =>
    if (List.range 4).all (fun q => !bit m q || c.queueDone q) then c.advance e 1 else c.stall

/-- QMARK (R169). -/
def execQmark (e : Bool) (d : BitVec 5) (q : BitVec 2) (s : State) : Host.Outcome State Fault Refusal :=
  onCtx s fun _ c => c.alu (.qmark e d q) e d [] 1 fun c => (vget 0#16 c.eng.seq q.toNat).setWidth 64

/-- QDEPTH (R169); in trap context it counts the frozen entries (R278). -/
def execQdepth (e : Bool) (d : BitVec 5) (q : BitVec 2) (s : State) : Host.Outcome State Fault Refusal :=
  onCtx s fun _ c => c.alu (.qdepth e d q) e d [] 1 fun c =>
    u64 ((vget [] c.eng.q q.toNat).filter (fun x => !x.trap)).length

end Sys2Proof.Machine
end

