-- ==== Sys2Proof/Machine/SeqExt.lean ====
section
/-!
DEFINITION. Majors 0x0C to 0x0F and 0x11 to 0x13: rings, flags, the adjoint mode and the tape marks, launches and
commitment, format words, motif slots and speculation (R206, R240 to R244, R245 to R254, R257 to R259, R262 to R270).
-/

namespace Sys2Proof.Machine

/-! Rings (R240 to R244). -/

/-- The changes of ring m made by instructions of the present cycle, in order. -/
def ringOpsOf (m due : Nat) (trap : Bool) : List Landing → List RingOp
  | [] => []
  | l :: ls =>
    match l.write with
    | .ring k op =>
      if l.unit == .seq && l.trap == trap && k == m && l.due == due then op :: ringOpsOf m due trap ls
      else ringOpsOf m due trap ls
    | _ => ringOpsOf m due trap ls

/-- Ring m of a cell as an instruction finds it after those written before it in its packet. -/
def Ctx.ringNow (c : Ctx) (cell m : Nat) : Ring :=
  (ringOpsOf m c.now c.trap.tctx c.landings).foldl Ring.apply ((c.cell cell).ring m)

/-- A ring instruction that names ring m: an unconfigured ring is an operand fault (R240). -/
def Ctx.ringOp (c : Ctx) (i : Instr) (reads : List Ref) (m : Nat) (f : Ring → Ctx → Ctx) : Ctx :=
  c.seq i reads false fun c =>
    let r := (c.cell 0).ring m
    if c.lateRing m then c.stall else if r.conf then f r c else c.illegal i 0x08#8

/-- The lowest-numbered cell in which a count is less than n, with the count. -/
def Ctx.short (c : Ctx) (count : Ring → Nat) (m n : Nat) : Option Nat :=
  ((List.range 16).map (fun k => count (c.ringNow k m))).find? (fun x => decide (x < n))

/-- RCLAIM, RPUB and RPOP after their checks: SCHEDULE when a cell falls short, and otherwise the change, which is seen
from the next cycle (R243). -/
def Ctx.ringCount (c : Ctx) (e : Bool) (count : Ring → Nat) (m n : Nat) (op : RingOp) : Ctx :=
  match c.short count m n with
  | some x => c.trapAt causeSchedule 0#8 (u64 (x % 2 ^ 32 * 2 ^ 32 + n))
  | none => (c.land .seq c.now (.ring m op)).advance e 1

/-- RCFG (R241): the descriptor word is read as LDD reads; the instruction's words stay with the access, for ILLEGAL. -/
def execRcfg (e : Bool) (d a : BitVec 5) (i : BitVec 12) (s : State) : Host.Outcome State Fault Refusal :=
  onCtx s fun v c => c.seq (.rcfg e d a i) [.s a] false fun c =>
    c.access v { kind := .rcfg d.toNat, addr := c.rs a + sext i, width := 8, expect := (Instr.rcfg e d a i).tvalWords }
      fun c => c.advance e 1

/-- The full barrier (R69): every cell has n published fills. -/
def Ctx.filledAll (c : Ctx) (m n : Nat) : Bool := (List.range 16).all fun k => decide (n ≤ ((c.cell k).ring m).filled)
/-- The empty barrier (R69): every cell has n free slots. -/
def Ctx.freeAll (c : Ctx) (m n : Nat) : Bool := (List.range 16).all fun k => decide (n ≤ ((c.cell k).ring m).free)

/-- WAITF (R69, R242). -/
def execWaitf (e : Bool) (d : BitVec 5) (n : BitVec 9) (s : State) : Host.Outcome State Fault Refusal :=
  onCtx s fun _ c => c.ringOp (.waitf e d n) [] d.toNat fun r c =>
    if r.count < n.toNat then c.illegal (.waitf e d n) 0x08#8
    else (c.startWait (.waitf d.toNat n.toNat) (c.filledAll d.toNat n.toNat)).advance e 1

/-- WAITE (R69, R242). -/
def execWaite (e : Bool) (d : BitVec 5) (n : BitVec 9) (s : State) : Host.Outcome State Fault Refusal :=
  onCtx s fun _ c => c.ringOp (.waite e d n) [] d.toNat fun r c =>
    if r.count < n.toNat then c.illegal (.waite e d n) 0x08#8
    else (c.startWait (.waite d.toNat n.toNat) (c.freeAll d.toNat n.toNat)).advance e 1

/-- RCLAIM (R243). -/
def execRclaim (e : Bool) (d : BitVec 5) (n : BitVec 9) (s : State) : Host.Outcome State Fault Refusal :=
  onCtx s fun _ c => c.ringOp (.rclaim e d n) [] d.toNat fun _ c =>
    c.ringCount e Ring.free d.toNat n.toNat (.claim n.toNat)

/-- RPUB (R243). -/
def execRpub (e : Bool) (d : BitVec 5) (n : BitVec 9) (s : State) : Host.Outcome State Fault Refusal :=
  onCtx s fun _ c => c.ringOp (.rpub e d n) [] d.toNat fun r c =>
    if !r.explicit || r.spec then c.illegal (.rpub e d n) 0x09#8
    else c.ringCount e (fun r => (r.ttail - r.tail).toNat) d.toNat n.toNat (.pub n.toNat)

/-- RPOP (R243). -/
def execRpop (e : Bool) (d : BitVec 5) (n : BitVec 9) (s : State) : Host.Outcome State Fault Refusal :=
  onCtx s fun _ c => c.ringOp (.rpop e d n) [] d.toNat fun _ c =>
    c.ringCount e Ring.filled d.toNat n.toNat (.pop n.toNat)

/-- The descriptor word of a ring (R241). -/
def Ring.word (r : Ring) : U64 :=
  u64 (r.base + (if r.explicit then 2 ^ 23 else 0) + (r.size - 1) * 2 ^ 24 + (r.count - 1) * 2 ^ 32)

/-- A field of a ring's descriptor as RSTAT reads it from one cell (R244). -/
def Ring.stat (r : Ring) (sel : Nat) : U64 :=
  match sel with
  | 0 => r.head.setWidth 64
  | 1 => r.tail.setWidth 64
  | 2 => r.ttail.setWidth 64
  | 3 => r.claimed.setWidth 64
  | 4 => r.nexttag.setWidth 64
  | 5 => u64 (r.hslot + r.fslot * 2 ^ 8 + r.opened * 2 ^ 16) ||| (ofBool64 r.phase <<< 25) |||
      (ofBool64 r.spec <<< 26) ||| (ofBool64 r.explicit <<< 27)
  | _ => r.word

/-- The least of some numbers, starting from k. -/
def leastOf (k : Nat) (xs : List Nat) : Nat := xs.foldl Nat.min k

/-- The value of RSTAT (R244); an unconfigured ring reads 0. -/
def Ctx.ringStat (c : Ctx) (m sel cell : Nat) : U64 :=
  let r := (c.cell cell).ring m
  if !r.conf then 0#64
  else if sel = 7 then u64 (leastOf 256 ((List.range 16).map fun k => ((c.cell k).ring m).filled))
  else if sel = 8 then u64 (leastOf 256 ((List.range 16).map fun k => ((c.cell k).ring m).free))
  else r.stat sel

/-- RSTAT (R244), latency 2. -/
def execRstat (e : Bool) (d : BitVec 5) (m : BitVec 3) (sl cl : BitVec 4) (s : State) :
    Host.Outcome State Fault Refusal :=
  onCtx s fun _ c => c.seq (.rstat e d m sl cl) [] (d != 0#5) fun c =>
    if c.lateRing m.toNat then c.stall else (c.putS d (c.ringStat m.toNat sl.toNat cl.toNat) 2).advance e 1

/-! Flags (R72 to R74, R266 to R268). -/

/-- A flag operation on its way to its home. -/
def Ctx.flagAccess (c : Ctx) (v : Env) (k : GKind) (data : U64) (dest : Option Reg) (acq rel : Bool) (sc : BitVec 3) :
    Ctx :=
  c.push
    { id := c.freeNo, ord := c.ord, trap := c.trap.tctx, kind := k, va := 0#64, width := 4, data := data, expect := 0#64,
      dest := dest, acquire := acq, release := rel, scope := sc, walk := .done 0 false false,
      ready := v.gcyc + Config.flagDelay c.freeNo, due := c.now + 11, pc := c.issue.pc, performed := false,
      value := none, returned := false }

/-- A flag instruction on the context's own partition: an index beyond it is refused (R72). -/
def Ctx.flagOp (c : Ctx) (i : Instr) (reads : List Ref) (result : Bool) (f : BitVec 8) (g : Ctx → Ctx) : Ctx :=
  c.seq i reads result fun c =>
    if c.flagSize ≤ f.toNat then c.trapAt causeProtection 0#8 (f.setWidth 64) else g c

/-- FINC (R267, R268): on the own partition, or on another package's when d names a target word. -/
def execFinc (e : Bool) (d a : BitVec 5) (sc : BitVec 3) (f : BitVec 8) (s : State) : Host.Outcome State Fault Refusal :=
  onCtx s fun v c =>
    if d = 0#5 then
      c.flagOp (.finc e d a sc f) [.s a] false f fun c =>
        (c.flagAccess v (.finc f.toNat) (c.rs a) none false true sc).advance e 1
    else
      c.seq (.finc e d a sc f) [.s a, .s d] false fun c =>
        let t := c.rs d
        if someBit t 32 63 || someBit t 0 3 then c.illegal (.finc e d a sc f) 0x08#8
        else (c.flagAccess v (.remoteFinc f.toNat (t.extractLsb' 0 32)) (c.rs a) none false true sc).advance e 1

/-- FWAIT (R54, R267): an acquire when it completes. -/
def execFwait (e : Bool) (a : BitVec 5) (sc : BitVec 3) (f : BitVec 8) (s : State) : Host.Outcome State Fault Refusal :=
  onCtx s fun v c => c.flagOp (.fwait e a sc f) [.s a] false f fun c =>
    ((c.flagAccess v (.fwait f.toNat) (c.rs a) none true false sc).startWait
      (.flag f.toNat ((c.rs a).extractLsb' 0 32) sc false) false).advance e 1

/-- FSET (R267). -/
def execFset (e : Bool) (a : BitVec 5) (sc : BitVec 3) (f : BitVec 8) (s : State) : Host.Outcome State Fault Refusal :=
  onCtx s fun v c => c.flagOp (.fset e a sc f) [.s a] false f fun c =>
    (c.flagAccess v (.fset f.toNat) (c.rs a) none false true sc).advance e 1

/-- FREAD (R267), latency 12. -/
def execFread (e : Bool) (d : BitVec 5) (sc : BitVec 3) (f : BitVec 8) (s : State) : Host.Outcome State Fault Refusal :=
  onCtx s fun v c => c.flagOp (.fread e d sc f) [] (d != 0#5) f fun c =>
    (c.flagAccess v (.fread f.toNat) 0#64 (if d = 0#5 then none else some d) true false sc).advance e 1

/-- BAR (R267): an increment of 1, which a BAR that issues again after a stop does not repeat (R286), then a wait. -/
def execBar (e : Bool) (a : BitVec 5) (sc : BitVec 3) (f : BitVec 8) (s : State) : Host.Outcome State Fault Refusal :=
  onCtx s fun v c => c.flagOp (.bar e a sc f) [.s a] false f fun c =>
    let c := if c.issue.again.isSome then c else c.flagAccess v (.finc f.toNat) 1#64 none false true sc
    ((c.flagAccess v (.fwait f.toNat) (c.rs a) none true false sc).startWait
      (.flag f.toNat ((c.rs a).extractLsb' 0 32) sc true) false).advance e 1

/-! The adjoint mode and the tape marks (R245 to R254). -/

/-- An enabled region (R245, R246): number, kind, element width, first byte, length in bytes, first byte and length of its
shadow. -/
structure DRegion where
  n : Nat
  global : Bool
  ew : Nat
  base : Nat
  len : Nat
  shadow : Int
  shadowLen : Nat
  deriving DecidableEq, Repr

/-- The region of a register pair, when it is enabled. -/
def regionOf (n : Nat) (base ctl : U64) : Option DRegion :=
  if bit ctl 63 then
    let ew := if ctl.extractLsb' 60 2 == 1#2 then 2 else 4
    let len := 64 * (ctl.extractLsb' 32 24).toNat
    some { n := n, global := bit ctl 62, ew := ew, base := base.toNat, len := len,
           shadow := (base.toNat : Int) + 64 * (ctl.extractLsb' 0 32).toInt, shadowLen := len * 4 / ew }
  else none

/-- The enabled regions, lowest number first. -/
def Adjoint.regions (a : Adjoint) : List DRegion :=
  (List.range 8).filterMap fun n => regionOf n (vget 0#64 a.dregBase n) (vget 0#64 a.dregCtl n)

/-- Two ranges share a byte. -/
def rangesMeet (a : Int) (n : Nat) (b : Int) (m : Nat) : Bool :=
  decide (0 < n) && decide (0 < m) && decide (a < b + m) && decide (b < a + n)

/-- A region and its shadow lie where their kind allows (R247). -/
def DRegion.placed (r : DRegion) : Bool :=
  let top : Int := if r.global then 2 ^ 56 else 2 ^ 23
  decide ((r.base : Int) < top) && decide ((r.base : Int) + r.len ≤ top) && decide (0 ≤ r.shadow) && decide (r.shadow + r.shadowLen ≤ top)

/-- A region fails a check of R247 against the others and the tape. -/
def DRegion.fails (r : DRegion) (all : List DRegion) (tape tapeLen : Nat) : Bool :=
  !r.placed ||
    all.any (fun q => q.global == r.global &&
      ((q.n != r.n && rangesMeet q.base q.len r.base r.len) || rangesMeet q.base q.len r.shadow r.shadowLen ||
        rangesMeet r.base r.len q.shadow q.shadowLen)) ||
    (!r.global && (rangesMeet r.base r.len tape tapeLen || rangesMeet r.shadow r.shadowLen tape tapeLen))

/-- Program order of the first instruction of the packet that issues. -/
def Ctx.packetOrd (c : Ctx) : Nat := c.ord - c.issue.done

/-- Work of Q0 issued before the packet is not done (R247): an entry that has not started, or a write still to come. -/
def Ctx.vectorBusy (c : Ctx) : Bool :=
  let t := c.trap.tctx
  (vget [] c.eng.q 0).any (fun q => q.trap == t && decide (q.ord < c.packetOrd)) ||
    c.landings.any (fun l => l.unit == .q0 && l.trap == t) || c.towerOps.any (fun o => o.unit == .q0 && o.trap == t)

/-- A column command or job in REV mode issued before the packet has not retired (R247). -/
def Ctx.revBusy (c : Ctx) : Bool :=
  c.revJobs != 0 || (vget [] c.eng.q 3).any (fun q => q.admode == .rev && decide (q.ord < c.packetOrd))

/-- The mode an ADMODE field names. -/
def adModeOf (m : BitVec 2) : AdMode := if m = 1#2 then .fwd else if m = 2#2 then .rev else .off

/-- The commands of the packet under way take a mode, in any position of the packet (R247). -/
def Ctx.remode (c : Ctx) (m : AdMode) : Ctx :=
  let put (q : QEntry) : QEntry := if c.packetOrd ≤ q.ord then { q with admode := m, gen := c.adj.gen } else q
  { c with eng := { c.eng with q := vmap (fun _ (qs : List QEntry) => qs.map put) c.eng.q } }

/-- The lowest-numbered enabled region that fails a check of ADMODE (R247). -/
def Ctx.badRegion (c : Ctx) : Option DRegion :=
  c.adj.regions.find? fun r => r.fails c.adj.regions c.adj.tapeBase.toNat (c.adj.tapeLim.toNat - c.adj.tapeBase.toNat)

/-- ADMODE (R247). -/
def execAdmode (e : Bool) (m : BitVec 2) (s : State) : Host.Outcome State Fault Refusal :=
  onCtx s fun _ c => c.seq (.admode e m) [] false fun c =>
    if !c.trap.tctx && (c.vectorBusy || c.revBusy) then c.stall
    else
      match (if m = 0#2 then none else c.badRegion) with
      | some r => c.trapAt causeIllegal 0x08#8 (u64 r.n)
      | none =>
        if c.trap.tctx then c.illegal (.admode e m) 0x09#8
        else (({ c with adj := { c.adj with mode := adModeOf m, gen := c.adj.gen + 1 } }).remode (adModeOf m)).advance e 1

/-- An entry of Q0 issued before the packet has not started (R253). -/
def Ctx.tapeBusy (c : Ctx) : Bool :=
  (vget [] c.eng.q 0).any (fun q => q.trap == c.trap.tctx && decide (q.ord < c.packetOrd))

/-- TAPEMK (R253), latency 1. -/
def execTapemk (e : Bool) (d : BitVec 5) (s : State) : Host.Outcome State Fault Refusal :=
  onCtx s fun _ c => c.seq (.tapemk e d) [] (d != 0#5) fun c =>
    if c.tapeBusy then c.stall
    else (c.putS d (u64 (c.adj.tapeSpill.toNat * 2 ^ 32 + c.adj.tapePtr.toNat)) 1).advance e 1

/-- TAPECUT (R254). -/
def execTapecut (e : Bool) (a : BitVec 5) (s : State) : Host.Outcome State Fault Refusal :=
  onCtx s fun _ c => c.seq (.tapecut e a) [.s a] false fun c =>
    if c.tapeBusy then c.stall
    else
      let x := c.rs a
      let spill : U32 := x.extractLsb' 32 32
      let ptr : BitVec 23 := x.extractLsb' 0 23
      if someBit x 23 31 || someBit x 0 3 || c.adj.tapeSpill.ult spill then c.illegal (.tapecut e a) 0x08#8
      else if spill.ult c.adj.tapeSpill then c.trapAt causeTapeRefill 0#8 x
      else if c.adj.tapePtr.ult ptr then c.illegal (.tapecut e a) 0x08#8
      else ({ c with adj := { c.adj with tapePtr := ptr } }).advance e 1

/-! Launches and commitment (R269, R270). -/

/-- An access to global memory that must be 64-byte aligned and outside the local window (R258, R269). -/
def Ctx.alignedGlobal (c : Ctx) (x : U64) (f : Ctx → Ctx) : Ctx :=
  if x.extractLsb' 56 8 ≠ 0#8 then c.trapAt causeProtection 0#8 x
  else if x.toNat % 64 ≠ 0 then c.trapAt causeMisaligned 0#8 x
  else if isLocal x then c.trapAt causeProtection 0#8 x
  else f c

/-- LAUNCH (R269): a release at package scope whose result is due 12 cycles on. -/
def execLaunch (e : Bool) (d a : BitVec 5) (q : BitVec 6) (s : State) : Host.Outcome State Fault Refusal :=
  onCtx s fun v c => c.seq (.launch e d a q) [.s a] (d != 0#5) fun c =>
    c.alignedGlobal (c.rs a) fun c =>
      let r : Request := { kind := .launch q.toNat, addr := c.rs a, width := 64, release := true, scope := 3#3,
                           dest := if d = 0#5 then none else some d }
      if c.watched r then c.trapAt causeWatch 0#8 (c.rs a)
      else c.globalAccess v r fun c => c.advance e 1

/-- The context's writes, those of its launches and those of its retired jobs among them, have been performed and applied in every
die's view (R270). -/
def Ctx.writesSettled (c : Ctx) (v : Env) : Bool :=
  c.storesApplied v 0x0F#5 && !c.glob.queue.any (fun a => !a.performed && match a.kind with | .launch _ => true | _ => false) &&
    !v.writes.any fun w => w.agent.jobOf c && w.views &&& 0x0F#5 != 0x0F#5

/-- NCOMMIT (R270). -/
def execNcommit (e : Bool) (s : State) : Host.Outcome State Fault Refusal :=
  onCtx s fun v c => c.seq (.ncommit e) [] false fun c =>
    if c.trap.tctx then c.illegal (.ncommit e) 0x09#8
    else if !c.jobsRetired || !c.writesSettled v then c.stall
    else ({ c with committed := true }).advance e 1

/-! Format words (R206, R207). -/

/-- FMT (R206): a push; the pops of the cycle have been made. -/
def execFmt (e : Bool) (a : BitVec 5) (s : State) : Host.Outcome State Fault Refusal :=
  onCtx s fun v c => c.seq (.fmt e a) [.s a] false fun c =>
    if 16 ≤ c.fmt.queue.length then c.illegal (.fmt e a) 0x08#8
    else
      let before := if c.fmt.pushAt = v.gcyc then c.fmt.pushed else 0
      ({ c with fmt := { c.fmt with queue := c.fmt.queue ++ [c.rs a], pushAt := v.gcyc, pushed := before + 1 } }).advance e 1

/-- FMTCLR (R206, R207): within a cycle it takes effect before the pushes. -/
def execFmtclr (e : Bool) (s : State) : Host.Outcome State Fault Refusal :=
  onCtx s fun v c => c.seq (.fmtclr e) [] false fun c =>
    let keep := if c.fmt.pushAt = v.gcyc then c.fmt.pushed else 0
    ({ c with fmt := { c.fmt with queue := c.fmt.queue.drop (c.fmt.queue.length - keep) } }).advance e 1

/-! Motif slots (R257 to R259). -/

/-- MLD must wait (R258): another load is under way, or a started MOT has still to write its outputs.
(Log entry 52: DEDUCED.) -/
def Ctx.motifBusy (c : Ctx) : Bool :=
  c.motif.load.isSome || (if c.trap.tctx then decide (c.now < c.motif.untilTrap) else decide (c.now < c.motif.until_))

/-- An access of a load that reads a doubleword of its image; the doubleword's index is in expect, and the access stands in program
order where its MLD does. (Log entry 20: DESIGN CHOICE.) -/
def Ctx.imageRead (c : Ctx) (v : Env) (l : Loading) (k : Nat) : Ctx :=
  let x := l.addr + u64 (8 * k)
  let r : Request := { kind := .image, addr := x, width := 8, expect := u64 k }
  let mine (a : GAccess) : GAccess := { a with ord := l.ord, pc := l.pc, trap := l.trap }
  match tlbFind v.tlb false x.toNat with
  | some t =>
    c.push (mine (r.record c (.done (t.pa + (x.toNat - t.va)) (leafHost t.leaf) (leafSysat t.leaf))
      (v.gcyc + Config.memDelay c.freeNo) 12))
  | none => c.push (mine (r.record c .walking (v.gcyc + Config.walkDelay c.freeNo) 12))

/-- MLD (R258): DEBUGCTL's watch looks at the line of the header at issue, and at the later lines when they are read (R284); the bindings
of the slot are cleared, the slot becomes LOADING, and the header is read first (R341). (Log entry 93: DESIGN CHOICE.) -/
def execMld (e : Bool) (a : BitVec 5) (sl : BitVec 3) (s : State) : Host.Outcome State Fault Refusal :=
  onCtx s fun v c => c.seq (.mld e a sl) [.s a] false fun c =>
    let x := c.rs a
    if c.motifBusy then c.stall
    else
      c.alignedGlobal x fun c =>
        if c.watches false x.toNat false then c.trapAt causeWatch 0#8 x
        else
          let m := c.motif
          let l : Loading := { slot := sl.toNat, addr := x, left := 2048, asked := 2, ord := c.ord, pc := c.issue.pc, trap := c.trap.tctx }
          let m := { m with slots := vset m.slots sl.toNat .loading, bind := vmap (fun _ b => if b = some sl then none else b) m.bind, load := some l }
          ((({ c with motif := m }).imageRead v l 0).imageRead v l 1).advance e 1

/-- The status word of a slot (R259). -/
def Slot.status : Slot → U64
  | .empty => 0#64
  | .loading => 1#64
  | .failed n => u64 (3 + n * 256)
  | .loaded m => u64 (2 + (m.lat - 1) * 2 ^ 16 + m.nin * 2 ^ 21 + m.nout * 2 ^ 24) ||| (ofBool64 m.ein <<< 23)

/-- MBIND (R259). -/
def execMbind (e : Bool) (sl : BitVec 3) (cd : BitVec 6) (s : State) : Host.Outcome State Fault Refusal :=
  onCtx s fun _ c => c.seq (.mbind e sl cd) [] false fun c =>
    match vget .empty c.motif.slots sl.toNat with
    | .loading => c.stall
    | .loaded _ => ({ c with motif := { c.motif with bind := vset c.motif.bind cd.toNat (some sl) } }).advance e 1
    | x => c.trapAt causeIllegal 0x08#8 x.status

/-- MUNBIND (R259). -/
def execMunbind (e : Bool) (cd : BitVec 6) (s : State) : Host.Outcome State Fault Refusal :=
  onCtx s fun _ c => c.seq (.munbind e cd) [] false fun c =>
    ({ c with motif := { c.motif with bind := vset c.motif.bind cd.toNat none } }).advance e 1

/-- MSTAT (R259), latency 1. -/
def execMstat (e : Bool) (d : BitVec 5) (sl : BitVec 3) (s : State) : Host.Outcome State Fault Refusal :=
  onCtx s fun _ c => c.alu (.mstat e d sl) e d [] 1 fun c => (vget .empty c.motif.slots sl.toNat).status

/-! Speculation (R262 to R265). -/

/-- The rings that a mask marks. -/
def maskRings (m : BitVec 8) : List Nat := (List.range 8).filter (fun k => bit m k)

/-- A change of several rings, seen from the next cycle. -/
def Ctx.landRings (c : Ctx) (op : RingOp) : List Nat → Ctx
  | [] => c
  | m :: ms => (c.land .seq c.now (.ring m op)).landRings op ms

/-- SPMARK (R263). -/
def execSpmark (e : Bool) (m : BitVec 8) (s : State) : Host.Outcome State Fault Refusal :=
  onCtx s fun _ c => c.seq (.spmark e m) [] false fun c =>
    if (maskRings m).any c.lateRing then c.stall
    else if (maskRings m).any (fun k => let r := (c.cell 0).ring k; !r.conf || r.explicit) then c.illegal (.spmark e m) 0x08#8
    else if c.spec.active then c.illegal (.spmark e m) 0x09#8
    else
      let c := c.landRings .mark (maskRings m)
      ({ c with spec := { rings := m, active := true, ctr := c.sys.rngctr } }).advance e 1

/-- The first cell and ring, by cell and then by ring, whose complete tentative fills are fewer than n (R265). -/
def Ctx.specShort (c : Ctx) (n : Nat) : Option U32 :=
  ((List.range 16).flatMap fun k => (maskRings c.spec.rings).filterMap fun m =>
      let r := c.ringNow k m
      if r.spec then some (r.ttail - r.mark) else none).find? (fun x => decide (0 < n) && decide (x.toInt < (n : Int)))

/-- SPACCEPT and SPDROP after their checks (R265). -/
def Ctx.specEnd (c : Ctx) (i : Instr) (e : Bool) (n : U32) : Ctx :=
  if !c.spec.active then c.illegal i 0x09#8
  else if (maskRings c.spec.rings).any c.lateRing then c.stall
  else
    match c.specShort n.toNat with
    | some x => c.trapAt causeSchedule 0#8 (u64 (x.toNat * 2 ^ 32 + n.toNat))
    | none =>
      let c := c.landRings (.accept n) (maskRings c.spec.rings)
      ({ c with sys := { c.sys with rngctr := c.spec.ctr + n },
                spec := { c.spec with rings := 0#8, active := false } }).advance e 1

/-- SPACCEPT (R265). -/
def execSpaccept (e : Bool) (a : BitVec 5) (s : State) : Host.Outcome State Fault Refusal :=
  onCtx s fun _ c => c.seq (.spaccept e a) [.s a] false fun c =>
    c.specEnd (.spaccept e a) e ((c.rs a).extractLsb' 0 32)

/-- SPDROP (R265): as SPACCEPT with none. -/
def execSpdrop (e : Bool) (s : State) : Host.Outcome State Fault Refusal :=
  onCtx s fun _ c => c.seq (.spdrop e) [] false fun c => c.specEnd (.spdrop e) e 0#32

end Sys2Proof.Machine
end

