-- ==== Sys2Proof/Machine/TowerMem.lean ====
section
/-!
DEFINITION. The tower commands: loads and stores of major 0x36 in every adjoint mode with the tape and the shadows (R194 to
R202, R246 to R252), ring lines (R198, R199), and the tower atomics of major 0x37 (R203).
-/

namespace Sys2Proof.Machine

/-! Offsets and pieces. -/

/-- The tower offset of a load or store: s-base plus 64 times the immediate (R194), from the entry's first scalar. -/
def offsetOf (base : U64) (i : BitVec 12) : Nat := (base.toNat + 64 * i.toNat) % 8388608

/-- One piece of an access: register bytes pos to pos + len - 1, tower bytes from off, and its bank cycle counted from that
of the form's first. -/
structure Piece where
  pos : Nat
  off : Nat
  len : Nat
  at_ : Nat

/-- The whole line (R195). -/
def linePiece (o : Nat) : List Piece := [⟨0, o, 64, 0⟩]

/-- The lanes of VLDS and VSTS (R196). -/
def stridedPieces (o : Nat) (k : BitVec 5) : List Piece :=
  (List.range 16).map fun l => ⟨4 * l, towerWrap (o + l * k.toNat * 131072), 4, l / 8⟩

/-- The lanes of VLDX and VSTX of a cell: the index register holds byte offsets, of which bits [1:0] count as 0 (R197). -/
def indexedPieces (x : Cell) (k : Reg) (o : Nat) : List Piece :=
  (List.range 16).map fun l => ⟨4 * l, towerWrap (o + x.el .u32 k l) / 4 * 4, 4, l⟩

/-- The accesses of a load, of some pieces (R195 to R197). -/
def Ctx.loadPlan (c : Ctx) (e : QEntry) (n : Nat) (d : Reg) (act : U64) (due : Nat) (ps : List Piece) : Plan :=
  Plan.all (mapFrom (fun r p => c.readPlan e .q0 r n (c.now + p.at_) p.off p.len (.vreg d p.pos act due)) 0 ps)

/-- The bytes of a register at pos, of len, as they stand in the line of a piece, and the piece's masked bytes there. -/
def Piece.data (p : Piece) (x : Line) : Line := wordInLine p.off (x.toNat >>> (8 * p.pos) % 2 ^ (8 * p.len))
def Piece.mask (p : Piece) (act : U64) : BitVec 64 := maskInLine p.off (act.toNat >>> p.pos % 2 ^ p.len)

/-- The writes of a store, three cycles after the matching load's reads (R308); keep says where the old bytes of each piece
go (R250). -/
def Ctx.storePlan (c : Ctx) (e : QEntry) (n : Nat) (x : Line) (act : U64) (ps : List Piece)
    (keep : Nat → Option (Nat × Nat) := fun _ => none) : Plan :=
  Plan.all (mapFrom (fun r p => c.writePlan e .q0 (100 + r) n (c.now + 3 + p.at_) p.off (p.data x) (p.mask act) (keep r)) 0 ps)

/-- A plan in every cell. -/
def Ctx.planCells (c : Ctx) (f : Nat → Cell → Plan) : Plan := Plan.all ((List.range 16).map fun n => f n (c.cell n))

/-! Regions and shadows (R246). -/

/-- The enabled tower region that holds an offset. -/
def Ctx.towerRegion (c : Ctx) (off : Nat) : Option DRegion :=
  c.adj.regions.find? fun r => !r.global && decide (r.base ≤ off) && decide (off < r.base + r.len)

/-- A region is enabled, of the tower or of global memory (R200). -/
def Ctx.anyRegion (c : Ctx) : Bool := !c.adj.regions.isEmpty

/-- The tower offset of the adjoint of the element at offset x (R246). -/
def DRegion.shadowAt (r : DRegion) (x : Nat) : Nat := ((r.shadow + (((x - r.base) * 4 / r.ew : Nat) : Int)) % 8388608).toNat

/-- An element of a region that an access reaches and whose lowest byte is active: its place in the register, its offset,
its width and its shadow's offset. -/
structure AdjElem where
  pos : Nat
  off : Nat
  ew : Nat
  shadow : Nat

/-- The elements of a piece that lie in a region. -/
def Ctx.adjElems (c : Ctx) (act : U64) (p : Piece) : List AdjElem :=
  match c.towerRegion p.off with
  | none => []
  | some r =>
    (List.range (p.len / r.ew)).filterMap fun k =>
      if bit act (p.pos + k * r.ew) then
        some ⟨p.pos + k * r.ew, p.off + k * r.ew, r.ew, r.shadowAt (p.off + k * r.ew)⟩
      else none

/-- Insert an element after those of no greater offset. -/
def insertElem (a : AdjElem) : List AdjElem → List AdjElem
  | [] => [a]
  | b :: bs => if a.off < b.off then a :: b :: bs else b :: insertElem a bs

/-- Elements in ascending order of offset (R201). -/
def sortElems (xs : List AdjElem) : List AdjElem := xs.foldl (fun r a => insertElem a r) []

/-- The bytes of the register that some elements fill. -/
def elemBytes (xs : List AdjElem) : BitVec 64 :=
  xs.foldl (fun m a => m ||| BitVec.ofNat 64 ((2 ^ a.ew - 1) <<< a.pos)) 0#64

/-- The format of an element of ew bytes. -/
def adjType (ew : Nat) : Ty := if ew = 2 then .bf16 else .f32

/-! Atomic windows (R62). -/

/-- A bank of a cell lies in the window of another command now. -/
def Ctx.bankTaken (c : Ctx) (n bank : Nat) : Bool :=
  c.windows.any fun w => w.trap == c.trap.tctx && w.cell == n && w.bank == bank && decide (w.first ≤ c.now) &&
    decide (c.now ≤ w.last)

/-- Numbers with repeats removed, the first of each kept. -/
def distinct : List Nat → List Nat
  | [] => []
  | x :: xs => x :: (distinct xs).filter (fun y => y != x)

/-- The windows of an atomic on some words of a cell, from its start to start + 2, and its write of their new values,
which stand in the store m; a bank inside another window keeps its bytes. -/
def Ctx.atomicPlan (c : Ctx) (e : QEntry) (n : Nat) (words : List Nat) (m : Bytes) : Plan :=
  let ws := distinct words
  { ops := (ws.filter fun w => !c.bankTaken n (bankOf w)).map fun w =>
      c.op e .q0 300 n (c.now + 2) w (.atomicWrite (wordInLine w (Store.num m w 4)) (maskInLine w 15))
    wins := (distinct (ws.map bankOf)).map fun b => ⟨e.ord, n, b, c.now, c.now + 2, c.trap.tctx⟩
    watch := ws.flatMap fun w => [(n, w, false), (n, w, true)]
    lines := ws.map fun w => (n, w) }

/-- The context d that the start of c leaves, with RMWCLASH set at the end of the cycle when some atomic of the plan starts inside
another window on its bank (R62, R104). -/
def Ctx.noteClash (c d : Ctx) (e : QEntry) (p : Plan) : Ctx :=
  if p.wins.any fun w => c.bankTaken w.cell w.bank then d.landE e .q0 c.now .flagsOnly .ofClash else d

/-! Loads and stores in REV mode (R201, R202). -/

/-- shadow := shadow + element, F32 with RNE (R201). -/
def shadowAdd (ftz : Bool) (d : Line) (r : Bytes × Flags) (a : AdjElem) : Bytes × Flags :=
  let t := adjType a.ew
  let x := t.val ftz (d.toNat >>> (8 * a.pos) % 2 ^ (8 * a.ew))
  let y := Fmt.f32.finish .rne 0 ftz (Val.add .rne (f32Val ftz (Store.num r.1 a.shadow 4)) x)
  (Store.setNum r.1 a.shadow 4 y.1, r.2.or y.2)

/-- Element := shadow rounded to its type with RNE; shadow := +0 (R202): the register's bytes, the tower and the flags. -/
def shadowTake (ftz : Bool) (r : Nat × Bytes × Flags) (a : AdjElem) : Nat × Bytes × Flags :=
  let y := convert .f32 (adjType a.ew) .rne 0 ftz (Store.num r.2.1 a.shadow 4)
  (r.1 + y.1 <<< (8 * a.pos), Store.setNum r.2.1 a.shadow 4 0, r.2.2.or y.2)

/-- A load of some pieces of each cell, with the latency lat (R195 to R197, R200, R201). In REV mode the flags of its sums into the
shadow are set with its register, also where a clash drops the word. (Log entry 104: DESIGN CHOICE.) -/
def Ctx.startLoad (c : Ctx) (e : QEntry) (h : Ex) (d : Reg) (lat : Nat) (ps : Nat → Cell → List Piece) : Started :=
  let due := c.now + lat - 1
  let rev : Bool := e.admode == .rev
  let out (p : Piece) : Bool := !rev || (c.towerRegion p.off).isNone
  let elems (n : Nat) (x : Cell) : List AdjElem :=
    if rev then sortElems ((ps n x).flatMap (c.adjElems (x.act h))) else []
  let sums (n : Nat) (x : Cell) : Bytes × Flags := (elems n x).foldl (shadowAdd e.ftz (x.rv d)) (x.tower, .zero)
  let atoms := c.planCells fun n x => c.atomicPlan e n ((elems n x).map (·.shadow)) (sums n x).1
  let reads := c.planCells fun n x =>
    Plan.all (mapFrom (fun r p =>
      c.readPlan e .q0 r n (c.now + p.at_) p.off p.len (if out p then .vreg d p.pos (x.act h) due else .none)) 0 (ps n x))
  c.startPlan (reads.and atoms) fun c' =>
    let c1 := c.noteClash c' e atoms
    .done (if rev then c1.landCells e .q0 due fun n x => (.v n d 0#512 (elemBytes (elems n x)), (sums n x).2) else c1)

/-! The tape (R249 to R252). -/

/-- The lines of a span from ptr of len bytes, one a cycle: the number of the line, its offset, and the first and last
byte of the span in it. -/
def spanLines (ptr len : Nat) : List (Nat × Nat × Nat × Nat) :=
  (List.range 6).filterMap fun k =>
    let line := ptr / 64 * 64 + 64 * k
    if line < ptr + len then some (k, line, Nat.max line ptr, Nat.min (line + 64) (ptr + len)) else none

/-- The writes of a span of bytes, from start + 3 (R251, R308). -/
def Ctx.pushPlan (c : Ctx) (e : QEntry) (n ptr : Nat) (bs : List Byte) : Plan :=
  Plan.all ((spanLines ptr bs.length).map fun s =>
    let part := (bs.drop (s.2.2.1 - ptr)).take (s.2.2.2 - s.2.2.1)
    c.writePlan e .q0 (200 + s.1) n (c.now + 3 + s.1) s.2.1 (wordInLine s.2.2.1 (natOfBytes part))
      (maskInLine s.2.2.1 (2 ^ part.length - 1)))

/-- The bank cycles of a popped span, from the start cycle; its bytes are those of the start cycle (R251). -/
def Ctx.popPlan (c : Ctx) (e : QEntry) (n ptr len : Nat) : Plan :=
  Plan.all ((spanLines ptr len).map fun s => c.readPlan e .q0 (50 + s.1) n (c.now + s.1) s.2.2.1 (s.2.2.2 - s.2.2.1) .none)

/-- A tape record (R250), whose old bytes are put in when its store writes. -/
def recordBytes (p : Piece) (mask : Nat) : List Byte :=
  if p.len = 64 then bytesOfNat 8 (p.off + 2 ^ 23) ++ bytesOfNat 8 mask ++ bytesOfNat 64 0
  else bytesOfNat 8 (p.off + mask * 2 ^ 24) ++ bytesOfNat 8 0

/-- Where the old bytes of record r stand in a span of len bytes from ptr. -/
def oldPlace (ptr len r : Nat) : Nat := if len = 80 then ptr + 16 else ptr + 16 * r + 8

/-- The length of a form's span: one large record, or sixteen small ones. -/
def spanLen (ps : List Piece) : Nat := if ps.length = 1 then 80 else 256

/-- TVAL of TAPE_FULL and TAPE_REFILL (R251). -/
def Ctx.tapeTval (c : Ctx) (len : Nat) : U64 := u64 (c.adj.tapePtr.toNat * 2 ^ 32 + len)

/-- The records of a store in FWD mode (R200, R250). -/
def Ctx.recordsOf (c : Ctx) (act : U64) (ps : List Piece) : List Byte :=
  ps.flatMap fun p =>
    recordBytes p (if (c.towerRegion p.off).isSome then act.toNat >>> p.pos % 2 ^ p.len else 0)

/-- A store of some pieces of each cell in OFF or FWD mode, whose records, when push holds, precede it (R195 to R197,
R200, R251): the old bytes as they stand before each piece's own write, zeros where the read of the old contents clashes. A line of the
tape that is written before a piece's own write holds what will then stand there, as far as the accesses placed by then show it.
(Log entry 59: DESIGN CHOICE.) -/
def Ctx.startStore (c : Ctx) (e : QEntry) (d : Reg) (act : Nat → Cell → U64) (push : Bool) (ps : Nat → Cell → List Piece)
    (k : Ctx → Ctx) : Started :=
  if push then
    let len := spanLen (ps 0 (c.cell 0))
    let ptr := c.adj.tapePtr.toNat
    if c.adj.tapeLim.toNat < ptr + len then .fault causeTapeFull 0#8 (c.tapeTval len)
    else
      let old := c.planCells fun n x =>
        Plan.all (mapFrom (fun r p => c.readPlan e .q0 r n (c.now + p.at_) p.off p.len (.old (100 + r))) 0 (ps n x))
      let own := c.planCells fun n x =>
        c.storePlan e n (x.rv d) (act n x) (ps n x) fun r => some (oldPlace ptr len r, if len = 80 then 64 else 4)
      let tape := c.planCells fun n x => c.pushPlan e n ptr (c.recordsOf (act n x) (ps n x))
      c.startPlan ((old.and own).and tape) fun c' =>
        .done (k { c' with adj := { c'.adj with tapePtr := BitVec.ofNat 23 (ptr + len) } })
  else c.startPlan (c.planCells fun n x => c.storePlan e n (x.rv d) (act n x) (ps n x)) fun c' => .done (k c')

/-- The record that piece r of a store pops: its offset, whether it is large, its mask and its old bytes. -/
def Ctx.popped (c : Ctx) (n ptr len r : Nat) : Nat × Bool × Nat × Nat :=
  let m := (c.cell n).tower
  if len = 80 then
    let hdr := Store.num m ptr 8
    (hdr % 2 ^ 23, hdr / 2 ^ 23 % 2 == 1, Store.num m (ptr + 8) 8, Store.num m (ptr + 16) 64)
  else
    let hdr := Store.num m (ptr + 16 * r) 8
    (hdr % 2 ^ 23, hdr / 2 ^ 23 % 2 == 1, hdr / 2 ^ 24 % 16, Store.num m (ptr + 16 * r + 8) 4)

/-- The first record whose offset or size differs from its piece's (R202), of the lowest-numbered cell and there the first popped:
TVAL. (Log entry 107: DESIGN CHOICE.) -/
def Ctx.badRecord (c : Ctx) (ptr len : Nat) (ps : Nat → Cell → List Piece) : Option U64 :=
  (List.range 16).findSome? fun n =>
    (mapFrom (fun r p => (r, p)) 0 (ps n (c.cell n))).reverse.findSome? fun rp =>
      let q := c.popped n ptr len rp.1
      if q.1 = rp.2.off ∧ q.2.1 = decide (rp.2.len = 64) then none else some (u64 (q.1 * 2 ^ 32 + rp.2.off))

/-- The bytes that pieces of a lower number write back, as an inverted store leaves theirs (R200: lanes 15 down to 0). -/
def lowerBack (recs : List (Piece × Nat)) (r off : Nat) : Nat :=
  ((recs.take r).filter fun q => q.1.off == off).foldl (fun m q => m ||| q.2) 0

/-- A store of some pieces of each cell in REV mode, inverted (R200, R202). Where its update of the shadows clashes, it writes
nothing to the bank (R62). (Log entry 50: DEDUCED.) -/
def Ctx.startInverse (c : Ctx) (e : QEntry) (h : Ex) (d : Reg) (ps : Nat → Cell → List Piece) : Started :=
  let len := spanLen (ps 0 (c.cell 0))
  if c.adj.tapePtr.toNat < c.adj.tapeBase.toNat + len then
    if c.adj.tapeSpill = 0#32 then .fault causeIllegal 0x09#8 e.instr.tvalWords
    else .fault causeTapeRefill 0#8 (c.tapeTval len)
  else
    let ptr := c.adj.tapePtr.toNat - len
    match c.badRecord ptr len ps with
    | some t => .fault causeSchedule 0#8 t
    | none =>
      let elems (n : Nat) (x : Cell) : List AdjElem := (ps n x).reverse.flatMap (c.adjElems (x.act h))
      let takes (n : Nat) (x : Cell) : Nat × Bytes × Flags := (elems n x).foldl (shadowTake e.ftz) (0, x.tower, .zero)
      let atoms := c.planCells fun n x => c.atomicPlan e n ((elems n x).map (·.shadow)) (takes n x).2.1
      let pops := c.planCells fun n _ => c.popPlan e n ptr len
      let backs := c.planCells fun n x =>
        let recs := mapFrom (fun r p => (p, (c.popped n ptr len r).2.2.1)) 0 (ps n x)
        let lost (b : Nat) : Bool := c.bankTaken n b && (elems n x).any fun q => bankOf q.shadow == b
        Plan.all (mapFrom (fun r p =>
          if lost (bankOf p.off) then ({} : Plan) else
          let q := c.popped n ptr len r
          let inside : Bool := (c.towerRegion p.off).isSome
          let keep := lowerBack recs r p.off
          let mask := if inside then q.2.2.1 &&& (2 ^ p.len - 1 - keep) else (x.act h).toNat >>> p.pos % 2 ^ p.len
          let data := if inside then wordInLine p.off q.2.2.2 else p.data (x.rv d)
          c.writePlan e .q0 (100 + r) n (c.now + 3 + p.at_) p.off data (maskInLine p.off mask)) 0 (ps n x))
      c.startPlan ((pops.and backs).and atoms) fun c' =>
        let c1 := { c.noteClash c' e atoms with adj := { c'.adj with tapePtr := BitVec.ofNat 23 ptr } }
        .done (c1.landCells e .q0 (c.now + 5) fun n x =>
          (.v n d (BitVec.ofNat 512 (takes n x).1) (elemBytes (elems n x)), (takes n x).2.2))

/-- A store in the mode its command took (R200). meets says whether the form pushes or pops in this mode. -/
def Ctx.storeByMode (c : Ctx) (e : QEntry) (h : Ex) (d : Reg) (meets : Bool) (ps : Nat → Cell → List Piece) : Started :=
  match e.admode, meets with
  | .rev, true => c.startInverse e h d ps
  | .fwd, true => c.startStore e d (fun _ x => x.act h) true ps fun c => c
  | _, _ => c.startStore e d (fun _ x => x.act h) false ps fun c => c

/-- MISALIGNED at issue (R194). -/
def alignCheck (a : Reg) (i : BitVec 12) (k : Nat) (c : Ctx) : Option (BitVec 8 × BitVec 8 × U64) :=
  let o := offsetOf (c.rs a) i
  if o % k = 0 then none else some (causeMisaligned, 0#8, u64 o)

/-- A store writes its register in REV mode (R202). -/
def revWrites (d : Reg) (c : Ctx) : List Ref := if c.adj.mode = .rev then [.v d] else []

/-! Major 0x36 (R194 to R199). -/

/-- VLD (R195, R200, R201). -/
def engVld (h : Ex) (d a : BitVec 5) (i : BitVec 12) : Engine :=
  { queue := 0, sa := some a, check := alignCheck a i 64, writes := fun _ => [.v d],
    reads := fun c => predReads h.p (if c.adj.mode = .rev then [d] else []),
    start := fun _ c e => c.startLoad e h d 6 fun _ _ => linePiece (offsetOf e.scal.1 i) }

/-- VLD (R195, R200, R201): its issue. -/
def execVld (h : Ex) (d a : BitVec 5) (i : BitVec 12) (s : State) : Host.Outcome State Fault Refusal :=
  onCtx s fun _ c' => c'.command (.vld h d a i) h.e h.start h.c (engVld h d a i)

/-- VST (R195, R200, R202). -/
def engVst (h : Ex) (d a : BitVec 5) (i : BitVec 12) : Engine :=
  { queue := 0, sa := some a, check := alignCheck a i 64, reads := fun _ => predReads h.p [d], writes := revWrites d,
    start := fun _ c e =>
      let o := offsetOf e.scal.1 i
      c.storeByMode e h d (c.towerRegion o).isSome fun _ _ => linePiece o }

/-- VST (R195, R200, R202): its issue. -/
def execVst (h : Ex) (d a : BitVec 5) (i : BitVec 12) (s : State) : Host.Outcome State Fault Refusal :=
  onCtx s fun _ c' => c'.command (.vst h d a i) h.e h.start h.c (engVst h d a i)

/-- VLDS (R196). -/
def engVlds (h : Ex) (d a : BitVec 5) (i : BitVec 12) (k : BitVec 5) : Engine :=
  { queue := 0, occ := 2, sa := some a, check := alignCheck a i 4, writes := fun _ => [.v d],
    reads := fun c => predReads h.p (if c.adj.mode = .rev then [d] else []),
    start := fun _ c e => c.startLoad e h d 7 fun _ _ => stridedPieces (offsetOf e.scal.1 i) k }

/-- VLDS (R196): its issue. -/
def execVlds (h : Ex) (d a : BitVec 5) (i : BitVec 12) (k : BitVec 5) (s : State) : Host.Outcome State Fault Refusal :=
  onCtx s fun _ c' => c'.command (.vlds h d a i k) h.e h.start h.c (engVlds h d a i k)

/-- VSTS (R196). -/
def engVsts (h : Ex) (d a : BitVec 5) (i : BitVec 12) (k : BitVec 5) : Engine :=
  { queue := 0, occ := 2, sa := some a, check := alignCheck a i 4, reads := fun _ => predReads h.p [d], writes := revWrites d,
    start := fun _ c e =>
      let ps := stridedPieces (offsetOf e.scal.1 i) k
      c.storeByMode e h d (ps.any fun p => (c.towerRegion p.off).isSome) fun _ _ => ps }

/-- VSTS (R196): its issue. -/
def execVsts (h : Ex) (d a : BitVec 5) (i : BitVec 12) (k : BitVec 5) (s : State) : Host.Outcome State Fault Refusal :=
  onCtx s fun _ c' => c'.command (.vsts h d a i k) h.e h.start h.c (engVsts h d a i k)

/-- VLDX (R197). -/
def engVldx (h : Ex) (d a : BitVec 5) (i : BitVec 12) (k : BitVec 5) : Engine :=
  { queue := 0, occ := 16, sa := some a, check := alignCheck a i 64, writes := fun _ => [.v d],
    reads := fun c => predReads h.p (k :: if c.adj.mode = .rev then [d] else []),
    start := fun _ c e => c.startLoad e h d 21 fun _ x => indexedPieces x k (offsetOf e.scal.1 i) }

/-- VLDX (R197): its issue. -/
def execVldx (h : Ex) (d a : BitVec 5) (i : BitVec 12) (k : BitVec 5) (s : State) : Host.Outcome State Fault Refusal :=
  onCtx s fun _ c' => c'.command (.vldx h d a i k) h.e h.start h.c (engVldx h d a i k)

/-- VSTX (R197). -/
def engVstx (h : Ex) (d a : BitVec 5) (i : BitVec 12) (k : BitVec 5) : Engine :=
  { queue := 0, occ := 16, sa := some a, check := alignCheck a i 64, reads := fun _ => predReads h.p [k, d], writes := revWrites d,
    start := fun _ c e => c.storeByMode e h d c.anyRegion fun _ x => indexedPieces x k (offsetOf e.scal.1 i) }

/-- VSTX (R197): its issue. -/
def execVstx (h : Ex) (d a : BitVec 5) (i : BitVec 12) (k : BitVec 5) (s : State) : Host.Outcome State Fault Refusal :=
  onCtx s fun _ c' => c'.command (.vstx h d a i k) h.e h.start h.c (engVstx h d a i k)

/-- Line number L of VLDR and VSTR. -/
def lineNo (ll lh : BitVec 4) : Nat := 16 * lh.toNat + ll.toNat

/-- The tag check of a position in every cell (R68, R198): a mismatch in the lowest-numbered cell that has one, and
otherwise a pending tag. -/
def tagCheck (c : Ctx) (m : Nat) (pos : Nat → U32 × Nat) : Option Started :=
  let find := (List.range 16).findSome? fun n =>
    let r := (c.cell n).ring m
    match r.check (pos n).1 (pos n).2 with
    | .mismatch => some (Started.fault causeSchedule 0#8 (tagTval (r.tag (pos n).2) (pos n).1))
    | _ => none
  match find with
  | some x => some x
  | none =>
    if (List.range 16).any fun n => ((c.cell n).ring m).check (pos n).1 (pos n).2 matches .pending then some (.hold 1)
    else none

/-- VLDR (R198). -/
def engVldr (h : Ex) (d : BitVec 5) (m : BitVec 3) (ll : BitVec 4) (i : BitVec 8) (lh : BitVec 4) : Engine :=
  { queue := 0, writes := fun _ => [.v d], reads := fun _ => [.p h.p], rings := [m.toNat],
    limit := fun c => let r := (c.cell 0).ring m.toNat
      !r.conf || decide (r.count ≤ i.toNat) || decide (r.size ≤ lineNo ll lh),
    ringAt := fun c => (List.range 16).map fun n =>
      let r := (c.cell n).ring m.toNat
      let p := r.position i.toNat
      (p.1, p.2, r.lineAt p.2 (lineNo ll lh)),
    start := fun _ c e =>
      let at_ (n : Nat) := e.ringPos.getD n (0#32, 0, 0)
      match tagCheck c m.toNat fun n => ((at_ n).1, (at_ n).2.1) with
      | some x => x
      | none => c.startPlan (c.planCells fun n x =>
          c.readPlan e .q0 0 n c.now (at_ n).2.2 64 (.vreg d 0 (x.act h) (c.now + 5))) .done }

/-- VLDR (R198): its issue. -/
def execVldr (h : Ex) (d : BitVec 5) (m : BitVec 3) (ll : BitVec 4) (i : BitVec 8) (lh : BitVec 4) (s : State) : Host.Outcome State Fault Refusal :=
  onCtx s fun _ c' => c'.command (.vldr h d m ll i lh) h.e h.start h.c (engVldr h d m ll i lh)

/-- The slot of the fill that the open VSTR fill of a ring has. -/
def Ring.openSlot (r : Ring) : Nat :=
  match r.fills.find? fun f => f.ord == some r.openOrd with
  | some f => f.slot
  | none => 0

/-- A ring after a VSTR of line l has started (R199). -/
def Ring.vstr (r : Ring) (l ord : Nat) : Ring :=
  let r := if l = 0 then { r.reserve (some ord) (fun _ => []) with openOrd := ord } else r
  { r with opened := if l + 1 = r.size then 0 else l + 1 }

/-- VSTR (R199, R200). Of several cells in which the ring is full, TVAL is of the lowest-numbered. (Log entry 107: DESIGN CHOICE.) -/
def engVstr (h : Ex) (d : BitVec 5) (m : BitVec 3) (ll lh : BitVec 4) : Engine :=
  { queue := 0, reads := fun _ => predReads h.p [d], rings := [m.toNat],
    limit := fun c => !((c.cell 0).ring m.toNat).conf,
    start := fun _ c e =>
      let l := lineNo ll lh
      let ring (x : Cell) : Ring := x.ring m.toNat
      if c.cells.toList.any fun x => !(ring x).conf || (ring x).opened != l then
        .fault causeIllegal 0x08#8 e.instr.tvalWords
      else if e.admode = .rev ∧ c.anyRegion then .fault causeIllegal 0x09#8 e.instr.tvalWords
      else
        match c.cells.toList.find? fun x => l == 0 && (ring x).full with
        | some x => .fault causeSchedule 0#8 (tagTval (ring x).nexttag (ring x).head)
        | none =>
          let c0 := c.mapCells fun _ x => x.setRing m.toNat ((ring x).vstr l e.ord)
          let off (n : Nat) : Nat := let r := ring (c0.cell n); r.lineAt r.openSlot l
          let last : Bool := l + 1 == (ring (c.cell 0)).size
          c0.startStore e d (fun _ x => x.act h) (e.admode == .fwd && c.anyRegion) (fun n _ => linePiece (off n)) fun c1 =>
            if last then c1.landCells e .q0 (c.now + 4) fun n _ =>
              (.fillDone n m.toNat (ring (c0.cell n)).openOrd, .zero)
            else c1 }

/-- VSTR (R199, R200): its issue. -/
def execVstr (h : Ex) (d : BitVec 5) (m : BitVec 3) (ll lh : BitVec 4) (s : State) : Host.Outcome State Fault Refusal :=
  onCtx s fun _ c' => c'.command (.vstr h d m ll lh) h.e h.start h.c (engVstr h d m ll lh)

/-! Major 0x37: tower atomics (R203). -/

/-- A tower atomic: the active lanes in ascending order, each seeing the writes of those before it. Its flags are set with its register
result, also those of a lane whose word a clash drops. (Log entry 104: DESIGN CHOICE.) -/
def atomicEngine (h : Ex) (d a b : Reg) (f : Bool → Nat → Nat → Nat × Flags) : Engine :=
  { queue := 0, writes := fun _ => [.v d], reads := fun _ => predReads h.p [a, b],
    start := fun _ c e =>
      let off (x : Cell) (l : Nat) : Nat := x.el .u32 a l % 8388608 / 4 * 4
      let lanes (x : Cell) : List Nat := (List.range 16).filter (actAt 32 (x.act h))
      let inRegion : Bool := c.cells.toList.any fun x => (lanes x).any fun l => (c.towerRegion (off x l)).isSome
      if e.admode ≠ .off ∧ inRegion then .fault causeIllegal 0x09#8 e.instr.tvalWords
      else
        let run (n : Nat) (x : Cell) : Bytes × Nat × Flags := (lanes x).foldl (fun r l =>
          let old := Store.num r.1 (off x l) 4
          let y := f e.ftz old (x.el .u32 b l)
          (if c.bankTaken n (bankOf (off x l)) then r.1 else Store.setNum r.1 (off x l) 4 (y.1 % 2 ^ 32),
            r.2.1 + old <<< (32 * l), r.2.2.or y.2)) (x.tower, 0, .zero)
        let plan := c.planCells fun n x => c.atomicPlan e n ((lanes x).map (off x)) (run n x).1
        c.startPlan plan fun c' =>
          .done ((c.noteClash c' e plan).landCells e .q0 (c.now + 5) fun n x =>
            (.v n d (BitVec.ofNat 512 (run n x).2.1) (elemMask 32 (actAt 32 (x.act h)) 0 16), (run n x).2.2)) }

/-- VAADD (R203). -/
def engVaadd (h : Ex) (d a b : BitVec 5) (_ty : BitVec 4) : Engine :=
  atomicEngine h d a b fun _ x y => (x + y, .zero)

/-- VAADD (R203): its issue. -/
def execVaadd (h : Ex) (d a b : BitVec 5) (ty : BitVec 4) (s : State) : Host.Outcome State Fault Refusal :=
  onCtx s fun _ c' => c'.command (.vaadd h d a b ty) h.e h.start h.c (engVaadd h d a b ty)

/-- VAFADD (R203). -/
def engVafadd (h : Ex) (d a b : BitVec 5) (_ty : BitVec 4) : Engine :=
  atomicEngine h d a b fun ftz x y => f32Add ftz x y

/-- VAFADD (R203): its issue. -/
def execVafadd (h : Ex) (d a b : BitVec 5) (ty : BitVec 4) (s : State) : Host.Outcome State Fault Refusal :=
  onCtx s fun _ c' => c'.command (.vafadd h d a b ty) h.e h.start h.c (engVafadd h d a b ty)

/-- VAMIN (R203). -/
def engVamin (h : Ex) (d a b : BitVec 5) (ty : BitVec 4) : Engine :=
  atomicEngine h d a b fun _ x y => (if (tyOf ty).int y < (tyOf ty).int x then y else x, .zero)

/-- VAMIN (R203): its issue. -/
def execVamin (h : Ex) (d a b : BitVec 5) (ty : BitVec 4) (s : State) : Host.Outcome State Fault Refusal :=
  onCtx s fun _ c' => c'.command (.vamin h d a b ty) h.e h.start h.c (engVamin h d a b ty)

/-- VAMAX (R203). -/
def engVamax (h : Ex) (d a b : BitVec 5) (ty : BitVec 4) : Engine :=
  atomicEngine h d a b fun _ x y => (if (tyOf ty).int x < (tyOf ty).int y then y else x, .zero)

/-- VAMAX (R203): its issue. -/
def execVamax (h : Ex) (d a b : BitVec 5) (ty : BitVec 4) (s : State) : Host.Outcome State Fault Refusal :=
  onCtx s fun _ c' => c'.command (.vamax h d a b ty) h.e h.start h.c (engVamax h d a b ty)

/-- VASWAP (R203). -/
def engVaswap (h : Ex) (d a b : BitVec 5) (_ty : BitVec 4) : Engine :=
  atomicEngine h d a b fun _ _ y => (y, .zero)

/-- VASWAP (R203): its issue. -/
def execVaswap (h : Ex) (d a b : BitVec 5) (ty : BitVec 4) (s : State) : Host.Outcome State Fault Refusal :=
  onCtx s fun _ c' => c'.command (.vaswap h d a b ty) h.e h.start h.c (engVaswap h d a b ty)

end Sys2Proof.Machine
end

