-- ==== Sys2Proof/Machine/Vector.lean ====
section
/-!
DEFINITION. The vector commands that reach no tower: majors 0x30 to 0x35 and 0x38 (R170 to R193, R204, R205). Each form
has its effect in its start cycle (an Engine) and its issue.
-/

namespace Sys2Proof.Machine

/-! Major 0x30: integer arithmetic (R174, R175). -/

/-- VADD (R174): a + b, modulo 2^w. -/
def engVadd (h : Ex) (d a b : BitVec 5) (ty : BitVec 4) : Engine :=
  binEngine h d a b (tyOf ty) 2 fun x y => x + y

/-- VADD (R174): its issue. -/
def execVadd (h : Ex) (d a b : BitVec 5) (ty : BitVec 4) (s : State) : Host.Outcome State Fault Refusal :=
  onCtx s fun _ c' => c'.command (.vadd h d a b ty) h.e h.start h.c (engVadd h d a b ty)

/-- VSUB (R174): a - b, modulo 2^w. -/
def engVsub (h : Ex) (d a b : BitVec 5) (ty : BitVec 4) : Engine :=
  binEngine h d a b (tyOf ty) 2 fun x y => natOf (tyOf ty).width ((x : Int) - y)

/-- VSUB (R174): its issue. -/
def execVsub (h : Ex) (d a b : BitVec 5) (ty : BitVec 4) (s : State) : Host.Outcome State Fault Refusal :=
  onCtx s fun _ c' => c'.command (.vsub h d a b ty) h.e h.start h.c (engVsub h d a b ty)

/-- VMUL (R174): the low half of the product. -/
def engVmul (h : Ex) (d a b : BitVec 5) (ty : BitVec 4) : Engine :=
  binEngine h d a b (tyOf ty) 2 fun x y => x * y

/-- VMUL (R174): its issue. -/
def execVmul (h : Ex) (d a b : BitVec 5) (ty : BitVec 4) (s : State) : Host.Outcome State Fault Refusal :=
  onCtx s fun _ c' => c'.command (.vmul h d a b ty) h.e h.start h.c (engVmul h d a b ty)

/-- VMULH (R174): the high half of the product. -/
def engVmulh (h : Ex) (d a b : BitVec 5) (ty : BitVec 4) : Engine :=
  binEngine h d a b (tyOf ty) 2 fun x y => natOf (tyOf ty).width ((tyOf ty).int x * (tyOf ty).int y / (2 ^ (tyOf ty).width : Nat))

/-- VMULH (R174): its issue. -/
def execVmulh (h : Ex) (d a b : BitVec 5) (ty : BitVec 4) (s : State) : Host.Outcome State Fault Refusal :=
  onCtx s fun _ c' => c'.command (.vmulh h d a b ty) h.e h.start h.c (engVmulh h d a b ty)

/-- VMIN (R174): the lesser. -/
def engVmin (h : Ex) (d a b : BitVec 5) (ty : BitVec 4) : Engine :=
  binEngine h d a b (tyOf ty) 2 fun x y => if (tyOf ty).int y < (tyOf ty).int x then y else x

/-- VMIN (R174): its issue. -/
def execVmin (h : Ex) (d a b : BitVec 5) (ty : BitVec 4) (s : State) : Host.Outcome State Fault Refusal :=
  onCtx s fun _ c' => c'.command (.vmin h d a b ty) h.e h.start h.c (engVmin h d a b ty)

/-- VMAX (R174): the greater. -/
def engVmax (h : Ex) (d a b : BitVec 5) (ty : BitVec 4) : Engine :=
  binEngine h d a b (tyOf ty) 2 fun x y => if (tyOf ty).int x < (tyOf ty).int y then y else x

/-- VMAX (R174): its issue. -/
def execVmax (h : Ex) (d a b : BitVec 5) (ty : BitVec 4) (s : State) : Host.Outcome State Fault Refusal :=
  onCtx s fun _ c' => c'.command (.vmax h d a b ty) h.e h.start h.c (engVmax h d a b ty)

/-- VABS (R174): the magnitude; the minimum stays itself. -/
def engVabs (h : Ex) (d a : BitVec 5) (ty : BitVec 4) : Engine :=
  unEngine h d a (tyOf ty) 2 fun x => ((tyOf ty).int x).natAbs

/-- VABS (R174): its issue. -/
def execVabs (h : Ex) (d a : BitVec 5) (ty : BitVec 4) (s : State) : Host.Outcome State Fault Refusal :=
  onCtx s fun _ c' => c'.command (.vabs h d a ty) h.e h.start h.c (engVabs h d a ty)

/-- VNEG (R174): 0 - a, modulo 2^w. -/
def engVneg (h : Ex) (d a : BitVec 5) (ty : BitVec 4) : Engine :=
  unEngine h d a (tyOf ty) 2 fun x => natOf (tyOf ty).width (-(x : Int))

/-- VNEG (R174): its issue. -/
def execVneg (h : Ex) (d a : BitVec 5) (ty : BitVec 4) (s : State) : Host.Outcome State Fault Refusal :=
  onCtx s fun _ c' => c'.command (.vneg h d a ty) h.e h.start h.c (engVneg h d a ty)

/-- VADDS (R174): a + b, saturating. -/
def engVadds (h : Ex) (d a b : BitVec 5) (ty : BitVec 4) : Engine :=
  elemEngine h d [a, b] (tyOf ty) 2 none fun _ _ _ x i =>
    (tyOf ty).clamp ((tyOf ty).int (x.el (tyOf ty) a i) + (tyOf ty).int (x.el (tyOf ty) b i))

/-- VADDS (R174): its issue. -/
def execVadds (h : Ex) (d a b : BitVec 5) (ty : BitVec 4) (s : State) : Host.Outcome State Fault Refusal :=
  onCtx s fun _ c' => c'.command (.vadds h d a b ty) h.e h.start h.c (engVadds h d a b ty)

/-- VSUBS (R174): a - b, saturating. -/
def engVsubs (h : Ex) (d a b : BitVec 5) (ty : BitVec 4) : Engine :=
  elemEngine h d [a, b] (tyOf ty) 2 none fun _ _ _ x i =>
    (tyOf ty).clamp ((tyOf ty).int (x.el (tyOf ty) a i) - (tyOf ty).int (x.el (tyOf ty) b i))

/-- VSUBS (R174): its issue. -/
def execVsubs (h : Ex) (d a b : BitVec 5) (ty : BitVec 4) (s : State) : Host.Outcome State Fault Refusal :=
  onCtx s fun _ c' => c'.command (.vsubs h d a b ty) h.e h.start h.c (engVsubs h d a b ty)

/-- VAVG (R174): half of a + b + 1, rounded down. -/
def engVavg (h : Ex) (d a b : BitVec 5) (ty : BitVec 4) : Engine :=
  binEngine h d a b (tyOf ty) 2 fun x y => natOf (tyOf ty).width (((tyOf ty).int x + (tyOf ty).int y + 1) / 2)

/-- VAVG (R174): its issue. -/
def execVavg (h : Ex) (d a b : BitVec 5) (ty : BitVec 4) (s : State) : Host.Outcome State Fault Refusal :=
  onCtx s fun _ c' => c'.command (.vavg h d a b ty) h.e h.start h.c (engVavg h d a b ty)

/-- VMAD (R174): d + a b, modulo 2^w. -/
def engVmad (h : Ex) (d a b : BitVec 5) (ty : BitVec 4) : Engine :=
  elemEngine h d [a, b, d] (tyOf ty) 2 none fun _ _ _ x i =>
    (x.el (tyOf ty) d i + x.el (tyOf ty) a i * x.el (tyOf ty) b i, .zero)

/-- VMAD (R174): its issue. -/
def execVmad (h : Ex) (d a b : BitVec 5) (ty : BitVec 4) (s : State) : Host.Outcome State Fault Refusal :=
  onCtx s fun _ c' => c'.command (.vmad h d a b ty) h.e h.start h.c (engVmad h d a b ty)

/-- The sum of the products of the four bytes of lane l (R175). -/
def dot4 (t : Ty) (x y : Line) (l : Nat) : Int :=
  ((List.range 4).map fun k => t.int (elem 8 x (4 * l + k)) * t.int (elem 8 y (4 * l + k))).sum

/-- VDOT4 (R175): lanes of 32 bits, active by the predicate bit of their lowest byte. -/
def engVdot4 (h : Ex) (d a b : BitVec 5) (ty : BitVec 4) : Engine :=
  elemEngine h d [a, b, d] .u32 2 none fun _ _ _ x i =>
    (natOf 32 ((x.el .u32 d i : Int) + dot4 (tyOf ty) (x.rv a) (x.rv b) i), .zero)

/-- VDOT4 (R175): its issue. -/
def execVdot4 (h : Ex) (d a b : BitVec 5) (ty : BitVec 4) (s : State) : Host.Outcome State Fault Refusal :=
  onCtx s fun _ c' => c'.command (.vdot4 h d a b ty) h.e h.start h.c (engVdot4 h d a b ty)

/-! Major 0x31: floating-point arithmetic (R176). -/

/-- VFADD (R176): a + b, rounded once. -/
def engVfadd (h : Ex) (d a b : BitVec 5) (ty : BitVec 4) (rm : BitVec 3) : Engine :=
  floatEngine h d a b (tyOf ty) 3 rm fun m x y => Val.add m x y

/-- VFADD (R176): its issue. -/
def execVfadd (h : Ex) (d a b : BitVec 5) (ty : BitVec 4) (rm : BitVec 3) (s : State) : Host.Outcome State Fault Refusal :=
  onCtx s fun _ c' => c'.command (.vfadd h d a b ty rm) h.e h.start h.c (engVfadd h d a b ty rm)

/-- VFSUB (R176): a - b, rounded once. -/
def engVfsub (h : Ex) (d a b : BitVec 5) (ty : BitVec 4) (rm : BitVec 3) : Engine :=
  floatEngine h d a b (tyOf ty) 3 rm fun m x y => Val.add m x y.neg

/-- VFSUB (R176): its issue. -/
def execVfsub (h : Ex) (d a b : BitVec 5) (ty : BitVec 4) (rm : BitVec 3) (s : State) : Host.Outcome State Fault Refusal :=
  onCtx s fun _ c' => c'.command (.vfsub h d a b ty rm) h.e h.start h.c (engVfsub h d a b ty rm)

/-- VFMUL (R176): a b, rounded once. -/
def engVfmul (h : Ex) (d a b : BitVec 5) (ty : BitVec 4) (rm : BitVec 3) : Engine :=
  floatEngine h d a b (tyOf ty) 3 rm fun _ x y => Val.mul x y

/-- VFMUL (R176): its issue. -/
def execVfmul (h : Ex) (d a b : BitVec 5) (ty : BitVec 4) (rm : BitVec 3) (s : State) : Host.Outcome State Fault Refusal :=
  onCtx s fun _ c' => c'.command (.vfmul h d a b ty rm) h.e h.start h.c (engVfmul h d a b ty rm)

/-- VFMA (R176): a b + d, fused. -/
def engVfma (h : Ex) (d a b : BitVec 5) (ty : BitVec 4) (rm : BitVec 3) : Engine :=
  elemEngine h d [a, b, d] (tyOf ty) 4 (some rm) fun _ r _ x i =>
    let v (k : Reg) : Val := (tyOf ty).val r.ftz (x.el (tyOf ty) k i)
    (tyOf ty).fmt.finish r.mode r.u24 r.ftz (Val.fma r.mode (v a) (v b) (v d))

/-- VFMA (R176): its issue. -/
def execVfma (h : Ex) (d a b : BitVec 5) (ty : BitVec 4) (rm : BitVec 3) (s : State) : Host.Outcome State Fault Refusal :=
  onCtx s fun _ c' => c'.command (.vfma h d a b ty rm) h.e h.start h.c (engVfma h d a b ty rm)

/-- VFMIN (R176, R105): the minimum. -/
def engVfmin (h : Ex) (d a b : BitVec 5) (ty : BitVec 4) : Engine :=
  elemEngine h d [a, b] (tyOf ty) 3 none fun _ r _ x i =>
    let v (k : Reg) : Val := (tyOf ty).val r.ftz (x.el (tyOf ty) k i)
    (tyOf ty).fmt.finish .rne 0 r.ftz (Val.minmax false (v a) (v b), .zero)

/-- VFMIN (R176, R105): its issue. -/
def execVfmin (h : Ex) (d a b : BitVec 5) (ty : BitVec 4) (s : State) : Host.Outcome State Fault Refusal :=
  onCtx s fun _ c' => c'.command (.vfmin h d a b ty) h.e h.start h.c (engVfmin h d a b ty)

/-- VFMAX (R176, R105): the maximum. -/
def engVfmax (h : Ex) (d a b : BitVec 5) (ty : BitVec 4) : Engine :=
  elemEngine h d [a, b] (tyOf ty) 3 none fun _ r _ x i =>
    let v (k : Reg) : Val := (tyOf ty).val r.ftz (x.el (tyOf ty) k i)
    (tyOf ty).fmt.finish .rne 0 r.ftz (Val.minmax true (v a) (v b), .zero)

/-- VFMAX (R176, R105): its issue. -/
def execVfmax (h : Ex) (d a b : BitVec 5) (ty : BitVec 4) (s : State) : Host.Outcome State Fault Refusal :=
  onCtx s fun _ c' => c'.command (.vfmax h d a b ty) h.e h.start h.c (engVfmax h d a b ty)

/-- A float element with its sign bit changed by f; a NaN gives the canonical NaN (R176). -/
def signed (t : Ty) (f : Nat → Nat) (x : Nat) : Nat := if (t.val false x).isNan then t.fmt.nan else f x

/-- VFABS (R176): the sign cleared. -/
def engVfabs (h : Ex) (d a : BitVec 5) (ty : BitVec 4) : Engine :=
  unEngine h d a (tyOf ty) 2 fun x => signed (tyOf ty) (fun y => y % (tyOf ty).fmt.signBit) x

/-- VFABS (R176): its issue. -/
def execVfabs (h : Ex) (d a : BitVec 5) (ty : BitVec 4) (s : State) : Host.Outcome State Fault Refusal :=
  onCtx s fun _ c' => c'.command (.vfabs h d a ty) h.e h.start h.c (engVfabs h d a ty)

/-- VFNEG (R176): the sign inverted. -/
def engVfneg (h : Ex) (d a : BitVec 5) (ty : BitVec 4) : Engine :=
  unEngine h d a (tyOf ty) 2 fun x => signed (tyOf ty) (fun y => (y + (tyOf ty).fmt.signBit) % 2 ^ (tyOf ty).width) x

/-- VFNEG (R176): its issue. -/
def execVfneg (h : Ex) (d a : BitVec 5) (ty : BitVec 4) (s : State) : Host.Outcome State Fault Refusal :=
  onCtx s fun _ c' => c'.command (.vfneg h d a ty) h.e h.start h.c (engVfneg h d a ty)

/-- A value times a power of two (R176). Beyond 4,096 the exponent no longer matters to a format of 32 bits or fewer. -/
def Val.scale (v : Val) (k : Int) : Val :=
  match v with
  | .fin neg m e => .fin neg m (e + max (-4096) (min 4096 k))
  | v => v

/-- VFSCL (R176): a 2^b, rounded once. -/
def engVfscl (h : Ex) (d a b : BitVec 5) (ty : BitVec 4) (rm : BitVec 3) : Engine :=
  elemEngine h d [a, b] (tyOf ty) 3 (some rm) fun _ r _ x i =>
    let k := intOf true (tyOf ty).width (x.el (tyOf ty) b i)
    (tyOf ty).fmt.finish r.mode r.u24 r.ftz (((tyOf ty).val r.ftz (x.el (tyOf ty) a i)).scale k, .zero)

/-- VFSCL (R176): its issue. -/
def execVfscl (h : Ex) (d a b : BitVec 5) (ty : BitVec 4) (rm : BitVec 3) (s : State) : Host.Outcome State Fault Refusal :=
  onCtx s fun _ c' => c'.command (.vfscl h d a b ty rm) h.e h.start h.c (engVfscl h d a b ty rm)

/-- The class mask of a float encoding (R176). -/
def classOf (f : Fmt) (x : Nat) : Nat :=
  let normal := 2 ^ f.mbits ≤ x % f.signBit
  match f.val false x with
  | .nan => 0x100
  | .inf neg => if neg then 0x01 else 0x80
  | .fin neg m _ =>
    if m = 0 then (if neg then 0x08 else 0x10)
    else if normal then (if neg then 0x02 else 0x40)
    else (if neg then 0x04 else 0x20)

/-- VFCLASS (R176): the class mask of the encoding. -/
def engVfclass (h : Ex) (d a : BitVec 5) (ty : BitVec 4) : Engine :=
  unEngine h d a (tyOf ty) 2 fun x => classOf (tyOf ty).fmt x

/-- VFCLASS (R176): its issue. -/
def execVfclass (h : Ex) (d a : BitVec 5) (ty : BitVec 4) (s : State) : Host.Outcome State Fault Refusal :=
  onCtx s fun _ c' => c'.command (.vfclass h d a ty) h.e h.start h.c (engVfclass h d a ty)

/-! Major 0x32: conversions and quantization (R177 to R179). -/

/-- A Q0 command of latency 3 that writes the active elements lo to lo + n - 1 of format t. -/
def partEngine (h : Ex) (d : Reg) (srcs : List Reg) (t : Ty) (rm : Option (BitVec 3)) (lo : QEntry → Nat) (n : Nat)
    (f : QEntry → Rounding → Cell → Nat → Nat × Flags) : Engine :=
  { queue := 0, reads := fun _ => predReads h.p srcs, writes := fun _ => [.v d], round := rm,
    start := fun _ c e => .done (c.landCells e .q0 (c.now + 2) fun k x =>
      elemWrite k d t.width (actAt t.width (x.act h)) (lo e) n fun i => f e (e.rounding c k i) x i) }

/-- VCVT (R177): a part of the source or of the destination. -/
def engVcvt (h : Ex) (d a : BitVec 5) (ts ty : BitVec 4) (hp : BitVec 2) (rm : BitVec 3) : Engine :=
  let td := tyOf ty
  let tsrc := tyOf ts
  let n := Nat.min td.count tsrc.count
  let lo := if tsrc.width ≤ td.width then 0 else hp.toNat * n
  let off := if tsrc.width ≤ td.width then hp.toNat * n else 0
  partEngine h d [a] td (some rm) (fun _ => lo) n fun _ r x i =>
    convert tsrc td r.mode r.u24 r.ftz (x.el tsrc a (i - lo + off))

/-- VCVT (R177): its issue. -/
def execVcvt (h : Ex) (d a : BitVec 5) (ts ty : BitVec 4) (hp : BitVec 2) (rm : BitVec 3) (s : State) : Host.Outcome State Fault Refusal :=
  onCtx s fun _ c' => c'.command (.vcvt h d a ts ty hp rm) h.e h.start h.c (engVcvt h d a ts ty hp rm)

/-- VPACK (R178): signed sources of twice the width, saturated. -/
def engVpack (h : Ex) (d a b : BitVec 5) (ty : BitVec 4) : Engine :=
  let t := tyOf ty
  let m := t.count / 2
  elemEngine h d [a, b] t 3 none fun _ _ _ x i =>
    t.clamp (intOf true (2 * t.width) (elem (2 * t.width) (x.rv (if i < m then a else b)) (if i < m then i else i - m)))

/-- VPACK (R178): its issue. -/
def execVpack (h : Ex) (d a b : BitVec 5) (ty : BitVec 4) (s : State) : Host.Outcome State Fault Refusal :=
  onCtx s fun _ c' => c'.command (.vpack h d a b ty) h.e h.start h.c (engVpack h d a b ty)

/-- VUNPK (R178): elements of half the width, extended. -/
def engVunpk (h : Ex) (d a : BitVec 5) (ty : BitVec 4) (hp : Bool) : Engine :=
  let t := tyOf ty
  elemEngine h d [a] t 3 none fun _ _ _ x i =>
    (natOf t.width (intOf t.signed (t.width / 2) (elem (t.width / 2) (x.rv a) ((if hp then t.count else 0) + i))), .zero)

/-- VUNPK (R178): its issue. -/
def execVunpk (h : Ex) (d a : BitVec 5) (ty : BitVec 4) (hp : Bool) (s : State) : Host.Outcome State Fault Refusal :=
  onCtx s fun _ c' => c'.command (.vunpk h d a ty hp) h.e h.start h.c (engVunpk h d a ty hp)

/-- The fields of the group operand sb (R179). -/
def groupScale (ftz : Bool) (sb : U64) : Val := Fmt.f16.val ftz (sb.extractLsb' 0 16).toNat
def groupZero (t : Ty) (sb : U64) : Nat := (sb.extractLsb' 16 8).toNat % 2 ^ t.width
def groupPart (sb : U64) : Nat := (sb.extractLsb' 24 3).toNat
/-- h is beyond the parts of a type (R179). -/
def groupBad (t : Ty) (sb : U64) : Bool := decide (32 / t.width ≤ groupPart sb)

/-- a / s, rounded to an integer, plus z, clamped (R179). -/
def quantize (t : Ty) (r : Rounding) (a s : Val) (z : Nat) : Nat × Flags :=
  match a, s with
  | .nan, _ | _, .nan | _, .inf _ => (z, .ofNv)
  | .inf x, .fin y n _ => if n = 0 then (z, .ofNv) else (natOf t.width (if x != y then t.minInt else t.maxInt), .ofSat)
  | .fin x m e, .fin y n g =>
    if n = 0 then (z, .ofNv)
    else
      let q := quotient m e n g
      let k := (roundAt r.mode r.u24 (x != y) q.1 q.2.1 0 q.2.2).1
      t.clamp ((if x != y then -(k : Int) else k) + t.int z)

/-- VQNT (R179): F32 into a part of a quantized register. -/
def engVqnt (h : Ex) (d a b : BitVec 5) (ty : BitVec 4) (rm : BitVec 3) : Engine :=
  let t := tyOf ty
  { partEngine h d [a] t (some rm) (fun e => 16 * groupPart e.scal.2) 16 (fun e r x i =>
      quantize t r (f32Val r.ftz (x.el .f32 a (i - 16 * groupPart e.scal.2))) (groupScale r.ftz e.scal.2)
        (groupZero t e.scal.2)) with
    sb := some b, limit := fun c => groupBad t (c.rs b) }

/-- VQNT (R179): its issue. -/
def execVqnt (h : Ex) (d a b : BitVec 5) (ty : BitVec 4) (rm : BitVec 3) (s : State) : Host.Outcome State Fault Refusal :=
  onCtx s fun _ c' => c'.command (.vqnt h d a b ty rm) h.e h.start h.c (engVqnt h d a b ty rm)

/-- VDQNT (R179, R98): s (a - z), exactly. -/
def engVdqnt (h : Ex) (d a b : BitVec 5) (ty : BitVec 4) : Engine :=
  let t := tyOf ty
  { partEngine h d [a] .f32 none (fun _ => 0) 16 (fun e r x i =>
      let q := t.int (x.el t a (16 * groupPart e.scal.2 + i)) - t.int (groupZero t e.scal.2)
      Fmt.f32.finish .rne 0 r.ftz (Val.mul (groupScale r.ftz e.scal.2) (Val.ofInt q))) with
    sb := some b, limit := fun c => groupBad t (c.rs b) }

/-- VDQNT (R179, R98): its issue. -/
def execVdqnt (h : Ex) (d a b : BitVec 5) (ty : BitVec 4) (s : State) : Host.Outcome State Fault Refusal :=
  onCtx s fun _ c' => c'.command (.vdqnt h d a b ty) h.e h.start h.c (engVdqnt h d a b ty)

/-! Major 0x33: logic, shifts and bit counts (R180 to R184). -/

/-- VAND (R180): bitwise and. -/
def engVand (h : Ex) (d a b : BitVec 5) (ty : BitVec 4) : Engine :=
  binEngine h d a b (tyOf ty) 2 fun x y => x &&& y

/-- VAND (R180): its issue. -/
def execVand (h : Ex) (d a b : BitVec 5) (ty : BitVec 4) (s : State) : Host.Outcome State Fault Refusal :=
  onCtx s fun _ c' => c'.command (.vand h d a b ty) h.e h.start h.c (engVand h d a b ty)

/-- VOR (R180): bitwise or. -/
def engVor (h : Ex) (d a b : BitVec 5) (ty : BitVec 4) : Engine :=
  binEngine h d a b (tyOf ty) 2 fun x y => x ||| y

/-- VOR (R180): its issue. -/
def execVor (h : Ex) (d a b : BitVec 5) (ty : BitVec 4) (s : State) : Host.Outcome State Fault Refusal :=
  onCtx s fun _ c' => c'.command (.vor h d a b ty) h.e h.start h.c (engVor h d a b ty)

/-- VXOR (R180): bitwise exclusive or. -/
def engVxor (h : Ex) (d a b : BitVec 5) (ty : BitVec 4) : Engine :=
  binEngine h d a b (tyOf ty) 2 fun x y => x ^^^ y

/-- VXOR (R180): its issue. -/
def execVxor (h : Ex) (d a b : BitVec 5) (ty : BitVec 4) (s : State) : Host.Outcome State Fault Refusal :=
  onCtx s fun _ c' => c'.command (.vxor h d a b ty) h.e h.start h.c (engVxor h d a b ty)

/-- A three-input function of bits by its table, bit by bit (R181). -/
def lop3 (table : BitVec 8) (x y z : Line) : Line :=
  let pick (k : Nat) : Line :=
    (if k / 4 % 2 = 1 then x else ~~~x) &&& (if k / 2 % 2 = 1 then y else ~~~y) &&& (if k % 2 = 1 then z else ~~~z)
  (List.range 8).foldl (fun r k => if bit table k then r ||| pick k else r) 0#512

/-- VLOP3 (R181): predicated by bytes. -/
def engVlop3 (h : Ex) (d a b : BitVec 5) (th tl : BitVec 4) : Engine :=
  { queue := 0, reads := fun _ => predReads h.p [a, b, d], writes := fun _ => [.v d],
    start := fun _ c e => .done (c.landCells e .q0 (c.now + 1) fun n x =>
      (.v n d (lop3 (th ++ tl : BitVec 8) (x.rv a) (x.rv b) (x.rv d)) (x.act h), .zero)) }

/-- VLOP3 (R181): its issue. -/
def execVlop3 (h : Ex) (d a b : BitVec 5) (th tl : BitVec 4) (s : State) : Host.Outcome State Fault Refusal :=
  onCtx s fun _ c' => c'.command (.vlop3 h d a b th tl) h.e h.start h.c (engVlop3 h d a b th tl)

/-- VSHL (R182): a shifted left. -/
def engVshl (h : Ex) (d a b : BitVec 5) (ty : BitVec 4) : Engine :=
  binEngine h d a b (tyOf ty) 2 fun x y => x <<< (y % (tyOf ty).width)

/-- VSHL (R182): its issue. -/
def execVshl (h : Ex) (d a b : BitVec 5) (ty : BitVec 4) (s : State) : Host.Outcome State Fault Refusal :=
  onCtx s fun _ c' => c'.command (.vshl h d a b ty) h.e h.start h.c (engVshl h d a b ty)

/-- VSHR (R182): a shifted right, zeros entering. -/
def engVshr (h : Ex) (d a b : BitVec 5) (ty : BitVec 4) : Engine :=
  binEngine h d a b (tyOf ty) 2 fun x y => x >>> (y % (tyOf ty).width)

/-- VSHR (R182): its issue. -/
def execVshr (h : Ex) (d a b : BitVec 5) (ty : BitVec 4) (s : State) : Host.Outcome State Fault Refusal :=
  onCtx s fun _ c' => c'.command (.vshr h d a b ty) h.e h.start h.c (engVshr h d a b ty)

/-- VSRA (R182): a shifted right, its top bit entering. -/
def engVsra (h : Ex) (d a b : BitVec 5) (ty : BitVec 4) : Engine :=
  binEngine h d a b (tyOf ty) 2 fun x y => natOf (tyOf ty).width (intOf true (tyOf ty).width x / (2 ^ (y % (tyOf ty).width) : Nat))

/-- VSRA (R182): its issue. -/
def execVsra (h : Ex) (d a b : BitVec 5) (ty : BitVec 4) (s : State) : Host.Outcome State Fault Refusal :=
  onCtx s fun _ c' => c'.command (.vsra h d a b ty) h.e h.start h.c (engVsra h d a b ty)

/-- VROT (R182): a rotated left. -/
def engVrot (h : Ex) (d a b : BitVec 5) (ty : BitVec 4) : Engine :=
  binEngine h d a b (tyOf ty) 2 fun x y => x <<< (y % (tyOf ty).width) ||| x >>> ((tyOf ty).width - y % (tyOf ty).width)

/-- VROT (R182): its issue. -/
def execVrot (h : Ex) (d a b : BitVec 5) (ty : BitVec 4) (s : State) : Host.Outcome State Fault Refusal :=
  onCtx s fun _ c' => c'.command (.vrot h d a b ty) h.e h.start h.c (engVrot h d a b ty)

/-- VFUNL (R183). -/
def engVfunl (h : Ex) (d a b : BitVec 5) (ty : BitVec 4) (n : BitVec 5) : Engine :=
  binEngine h d a b (tyOf ty) 2 fun x y => x <<< n.toNat ||| y >>> ((tyOf ty).width - n.toNat)

/-- VFUNL (R183): its issue. -/
def execVfunl (h : Ex) (d a b : BitVec 5) (ty : BitVec 4) (n : BitVec 5) (s : State) : Host.Outcome State Fault Refusal :=
  onCtx s fun _ c' => c'.command (.vfunl h d a b ty n) h.e h.start h.c (engVfunl h d a b ty n)

/-- VFUNR (R183). -/
def engVfunr (h : Ex) (d a b : BitVec 5) (ty : BitVec 4) (n : BitVec 5) : Engine :=
  binEngine h d a b (tyOf ty) 2 fun x y => x >>> n.toNat ||| y <<< ((tyOf ty).width - n.toNat)

/-- VFUNR (R183): its issue. -/
def execVfunr (h : Ex) (d a b : BitVec 5) (ty : BitVec 4) (n : BitVec 5) (s : State) : Host.Outcome State Fault Refusal :=
  onCtx s fun _ c' => c'.command (.vfunr h d a b ty n) h.e h.start h.c (engVfunr h d a b ty n)

/-- VPOPC (R184): the number of 1 bits. -/
def engVpopc (h : Ex) (d a : BitVec 5) (ty : BitVec 4) : Engine :=
  unEngine h d a (tyOf ty) 2 fun x => popcountNat (tyOf ty).width x

/-- VPOPC (R184): its issue. -/
def execVpopc (h : Ex) (d a : BitVec 5) (ty : BitVec 4) (s : State) : Host.Outcome State Fault Refusal :=
  onCtx s fun _ c' => c'.command (.vpopc h d a ty) h.e h.start h.c (engVpopc h d a ty)

/-- VCLZ (R184): the number of leading zeros. -/
def engVclz (h : Ex) (d a : BitVec 5) (ty : BitVec 4) : Engine :=
  unEngine h d a (tyOf ty) 2 fun x => clzNat (tyOf ty).width x

/-- VCLZ (R184): its issue. -/
def execVclz (h : Ex) (d a : BitVec 5) (ty : BitVec 4) (s : State) : Host.Outcome State Fault Refusal :=
  onCtx s fun _ c' => c'.command (.vclz h d a ty) h.e h.start h.c (engVclz h d a ty)

/-! Major 0x34: compares, selects, predicates and votes (R185 to R189). -/

/-- A compare by its code, from less than and equal (R185). -/
def cmpCode (op : Nat) (lt eq : Bool) : Bool :=
  match op with
  | 0 => eq | 1 => !eq | 2 => lt | 3 => lt || eq | 4 => !lt && !eq | 5 => !lt | _ => false

/-- A compare of float values: any NaN makes it unordered (R105, R185). -/
def cmpFloat (op : Nat) (x y : Val) : Bool :=
  if x.isNan || y.isNan then op == 1 || op == 6 else cmpCode op (Val.ltb x y) (Val.eqb x y)

/-- VCMP (R185): by signedness. -/
def engVcmp (h : Ex) (d a b : BitVec 5) (ty : BitVec 4) (op : BitVec 3) : Engine :=
  let t := tyOf ty
  predEngine h d [a, b] t fun x i =>
    let p := t.int (x.el t a i)
    let q := t.int (x.el t b i)
    cmpCode op.toNat (decide (p < q)) (p == q)

/-- VCMP (R185): its issue. -/
def execVcmp (h : Ex) (d a b : BitVec 5) (ty : BitVec 4) (op : BitVec 3) (s : State) : Host.Outcome State Fault Refusal :=
  onCtx s fun _ c' => c'.command (.vcmp h d a b ty op) h.e h.start h.c (engVcmp h d a b ty op)

/-- VFCMP (R185). -/
def engVfcmp (h : Ex) (d a b : BitVec 5) (ty : BitVec 4) (op : BitVec 3) : Engine :=
  let t := tyOf ty
  { predEngine h d [a, b] t (fun _ _ => false) with
    start := fun _ c e => .done (c.landCells e .q0 (c.now + 1) fun n x =>
      (predWrite n d t.width (actAt t.width (x.act h)) fun i =>
        cmpFloat op.toNat (t.val e.ftz (x.el t a i)) (t.val e.ftz (x.el t b i)), .zero)) }

/-- VFCMP (R185): its issue. -/
def execVfcmp (h : Ex) (d a b : BitVec 5) (ty : BitVec 4) (op : BitVec 3) (s : State) : Host.Outcome State Fault Refusal :=
  onCtx s fun _ c' => c'.command (.vfcmp h d a b ty op) h.e h.start h.c (engVfcmp h d a b ty op)

/-- VSEL (R186): every element. -/
def engVsel (h : Ex) (d a b : BitVec 5) (ty : BitVec 4) : Engine :=
  let t := tyOf ty
  { queue := 0, reads := fun _ => predReads h.p [a, b], writes := fun _ => [.v d],
    start := fun _ c e => .done (c.landCells e .q0 (c.now + 1) fun n x =>
      elemWrite n d t.width (fun _ => true) 0 t.count fun i =>
        (x.el t (if actAt t.width (x.act h) i then a else b) i, .zero)) }

/-- VSEL (R186): its issue. -/
def execVsel (h : Ex) (d a b : BitVec 5) (ty : BitVec 4) (s : State) : Host.Outcome State Fault Refusal :=
  onCtx s fun _ c' => c'.command (.vsel h d a b ty) h.e h.start h.c (engVsel h d a b ty)

/-- A bitwise function of two predicates (R187). -/
def plog (op : Nat) (x y : U64) : U64 :=
  match op with
  | 0 => x &&& y | 1 => x ||| y | 2 => x ^^^ y | 3 => x &&& ~~~y | 4 => x ||| ~~~y | 5 => ~~~x | _ => x

/-- VPLOG (R187): not predicated. -/
def engVplog (_h : Ex0) (d a b : BitVec 5) (op : BitVec 3) : Engine :=
  { queue := 0, reads := fun _ => if op.toNat < 5 then [.p a, .p b] else [.p a], writes := fun _ => [.p d],
    start := fun _ c e => .done (c.landCells e .q0 (c.now + 1) fun n x => (.p n d (plog op.toNat (x.rp a) (x.rp b)), .zero)) }

/-- VPLOG (R187): its issue. -/
def execVplog (h : Ex0) (d a b : BitVec 5) (op : BitVec 3) (s : State) : Host.Outcome State Fault Refusal :=
  onCtx s fun _ c' => c'.command (.vplog h d a b op) h.e h.start h.c (engVplog h d a b op)

/-- What a cell votes: whether some active element of it is true, and whether every one is (R188). -/
def Cell.votes (x : Cell) (h : Ex) (a : Reg) (w : Nat) : Bool × Bool :=
  let on := (List.range (512 / w)).filter (actAt w (x.act h))
  (on.any (actAt w (x.rp a)), on.all (actAt w (x.rp a)))

/-- VVOTE (R188): a condition for the whole panel, readable from start + 4. -/
def engVvote (h : Ex) (d a : BitVec 5) (ty : BitVec 4) (al : Bool) : Engine :=
  { queue := 0, reads := fun _ => [.p h.p, .p a], writes := fun _ => [.c (d.setWidth 3)],
    start := fun _ c e =>
      let vs := c.cells.toList.map fun x => x.votes h a (tyOf ty).width
      .done (c.landE e .q0 (c.now + 3) (.c (d.setWidth 3) (if al then vs.all (·.2) else vs.any (·.1)))) }

/-- VVOTE (R188): its issue. -/
def execVvote (h : Ex) (d a : BitVec 5) (ty : BitVec 4) (al : Bool) (s : State) : Host.Outcome State Fault Refusal :=
  onCtx s fun _ c' => c'.command (.vvote h d a ty al) h.e h.start h.c (engVvote h d a ty al)

/-- VPCNT (R189): the count in every lane, whatever the predicate. -/
def engVpcnt (h : Ex) (d a : BitVec 5) (ty : BitVec 4) : Engine :=
  let w := (tyOf ty).width
  { queue := 0, reads := fun _ => [.p h.p, .p a], writes := fun _ => [.v d],
    start := fun _ c e => .done (c.landCells e .q0 (c.now + 1) fun n x =>
      let k := ((List.range (512 / w)).filter fun i => actAt w (x.act h) i && actAt w (x.rp a) i).length
      elemWrite n d 32 (fun _ => true) 0 16 fun _ => (k, .zero)) }

/-- VPCNT (R189): its issue. -/
def execVpcnt (h : Ex) (d a : BitVec 5) (ty : BitVec 4) (s : State) : Host.Outcome State Fault Refusal :=
  onCtx s fun _ c' => c'.command (.vpcnt h d a ty) h.e h.start h.c (engVpcnt h d a ty)

/-! Major 0x35: permutes, reductions and identities (R190 to R193). -/

/-- VPERM (R190). -/
def engVperm (h : Ex) (d a b : BitVec 5) (ty : BitVec 4) : Engine :=
  let t := tyOf ty
  elemEngine h d [a, b] t 3 none fun _ _ _ x i =>
    let k := x.el t b i
    (if 2 ^ (t.width - 1) ≤ k then 0 else x.el t a (k % t.count), .zero)

/-- VPERM (R190): its issue. -/
def execVperm (h : Ex) (d a b : BitVec 5) (ty : BitVec 4) (s : State) : Host.Outcome State Fault Refusal :=
  onCtx s fun _ c' => c'.command (.vperm h d a b ty) h.e h.start h.c (engVperm h d a b ty)

/-- VBCAST (R190): a scalar. -/
def engVbcast (h : Ex) (d a : BitVec 5) (ty : BitVec 4) : Engine :=
  let t := tyOf ty
  { elemEngine h d [] t 3 none (fun e _ _ _ _ => (e.scal.1.toNat % 2 ^ t.width, .zero)) with sa := some a }

/-- VBCAST (R190): its issue. -/
def execVbcast (h : Ex) (d a : BitVec 5) (ty : BitVec 4) (s : State) : Host.Outcome State Fault Refusal :=
  onCtx s fun _ c' => c'.command (.vbcast h d a ty) h.e h.start h.c (engVbcast h d a ty)

/-- VLANE (R190): element sb modulo n. -/
def engVlane (h : Ex) (d a b : BitVec 5) (ty : BitVec 4) : Engine :=
  let t := tyOf ty
  { elemEngine h d [a] t 3 none (fun e _ _ x _ => (x.el t a (e.scal.2.toNat % t.count), .zero)) with sb := some b }

/-- VLANE (R190): its issue. -/
def execVlane (h : Ex) (d a b : BitVec 5) (ty : BitVec 4) (s : State) : Host.Outcome State Fault Refusal :=
  onCtx s fun _ c' => c'.command (.vlane h d a b ty) h.e h.start h.c (engVlane h d a b ty)

/-- The source of element i of n of a shuffle: from b or not, and which element (R191). -/
def shufAt (op n i : Nat) : Bool × Nat :=
  match op with
  | 0 => if i < n - 1 then (false, i + 1) else (true, 0)
  | 1 => if i = 0 then (true, n - 1) else (false, i - 1)
  | 2 => (decide (i % 2 = 1), i / 2)
  | 3 => (decide (i % 2 = 1), n / 2 + i / 2)
  | _ => (false, n - 1 - i)

/-- VSHUF (R191). -/
def engVshuf (h : Ex) (d a b : BitVec 5) (ty : BitVec 4) (op : BitVec 3) : Engine :=
  let t := tyOf ty
  elemEngine h d (if op.toNat = 4 then [a] else [a, b]) t 3 none fun _ _ _ x i =>
    let k := shufAt op.toNat t.count i
    (x.el t (if k.1 then b else a) k.2, .zero)

/-- VSHUF (R191): its issue. -/
def execVshuf (h : Ex) (d a b : BitVec 5) (ty : BitVec 4) (op : BitVec 3) (s : State) : Host.Outcome State Fault Refusal :=
  onCtx s fun _ c' => c'.command (.vshuf h d a b ty op) h.e h.start h.c (engVshuf h d a b ty op)

/-- One operation of a reduction (R192). -/
def redStep (t : Ty) (op : Nat) (ftz : Bool) (x y : Nat) : Nat × Flags :=
  if t.isInt then
    (match op with
     | 0 => (x + y) % 2 ^ t.width
     | 1 => if t.int y < t.int x then y else x
     | 2 => if t.int x < t.int y then y else x
     | 3 => x &&& y | 4 => x ||| y | _ => x ^^^ y, .zero)
  else
    let p := t.val ftz x
    let q := t.val ftz y
    t.fmt.finish .rne 0 ftz
      (match op with
       | 0 => Val.add .rne p q
       | 1 => (Val.minmax false p q, .zero)
       | _ => (Val.minmax true p q, .zero))

/-- The reduction of some elements in order; the first passes on as it stands (R192). -/
def redList (t : Ty) (op : Nat) (ftz : Bool) : List Nat → Nat × Flags
  | [] => (0, .zero)
  | x :: xs => xs.foldl (fun r y => let z := redStep t op ftz r.1 y; (z.1, r.2.or z.2)) (x, .zero)

/-- The active elements of a register below element n. -/
def Cell.activeBelow (x : Cell) (h : Ex) (t : Ty) (a : Reg) (n : Nat) : List Nat :=
  ((List.range n).filter (actAt t.width (x.act h))).map (x.el t a)

/-- VRED (R192). (Log entry 51: DEDUCED.) -/
def engVred (h : Ex) (d a : BitVec 5) (ty : BitVec 4) (op : BitVec 3) : Engine :=
  elemEngine h d [a] (tyOf ty) 5 none fun _ r _ x _ =>
    redList (tyOf ty) op.toNat r.ftz (x.activeBelow h (tyOf ty) a (tyOf ty).count)

/-- VRED (R192): its issue. -/
def execVred (h : Ex) (d a : BitVec 5) (ty : BitVec 4) (op : BitVec 3) (s : State) : Host.Outcome State Fault Refusal :=
  onCtx s fun _ c' => c'.command (.vred h d a ty op) h.e h.start h.c (engVred h d a ty op)

/-- VSCAN (R192). -/
def engVscan (h : Ex) (d a : BitVec 5) (ty : BitVec 4) (op : BitVec 3) : Engine :=
  elemEngine h d [a] (tyOf ty) 5 none fun _ r _ x i =>
    redList (tyOf ty) op.toNat r.ftz (x.activeBelow h (tyOf ty) a (i + 1))

/-- VSCAN (R192): its issue. -/
def execVscan (h : Ex) (d a : BitVec 5) (ty : BitVec 4) (op : BitVec 3) (s : State) : Host.Outcome State Fault Refusal :=
  onCtx s fun _ c' => c'.command (.vscan h d a ty op) h.e h.start h.c (engVscan h d a ty op)

/-- VIDX (R190): sa + i. -/
def engVidx (h : Ex) (d a : BitVec 5) (ty : BitVec 4) : Engine :=
  { elemEngine h d [] (tyOf ty) 2 none (fun e _ _ _ i => (e.scal.1.toNat + i, .zero)) with sa := some a }

/-- VIDX (R190): its issue. -/
def execVidx (h : Ex) (d a : BitVec 5) (ty : BitVec 4) (s : State) : Host.Outcome State Fault Refusal :=
  onCtx s fun _ c' => c'.command (.vidx h d a ty) h.e h.start h.c (engVidx h d a ty)

/-- VCELL (R193): logical coordinates; cell n is 4 y + x. -/
def engVcell (h : Ex) (d : BitVec 5) (_ty : BitVec 4) (sl : BitVec 2) : Engine :=
  { queue := 0, reads := fun _ => [.p h.p], writes := fun _ => [.v d],
    start := fun _ c e => .done (c.landCells e .q0 (c.now + 1) fun n x =>
      elemWrite n d 32 (actAt 32 (x.act h)) 0 16 fun _ =>
        (match sl.toNat with | 0 => n | 1 => n % 4 | 2 => n / 4 | _ => 16 * c.index + n, .zero)) }

/-- VCELL (R193): its issue. -/
def execVcell (h : Ex) (d : BitVec 5) (ty : BitVec 4) (sl : BitVec 2) (s : State) : Host.Outcome State Fault Refusal :=
  onCtx s fun _ c' => c'.command (.vcell h d ty sl) h.e h.start h.c (engVcell h d ty sl)

/-! Major 0x38: transcendentals, division and randomness (R204, R205). -/

/-- VEXP2 (R204, R115): 2^a. -/
def engVexp2 (h : Ex) (d a : BitVec 5) (ty : BitVec 4) : Engine :=
  elemEngine h d [a] (tyOf ty) 10 none fun _ r _ x i => fexp2 r.ftz (f32Val r.ftz (x.el .f32 a i))

/-- VEXP2 (R204, R115): its issue. -/
def execVexp2 (h : Ex) (d a : BitVec 5) (ty : BitVec 4) (s : State) : Host.Outcome State Fault Refusal :=
  onCtx s fun _ c' => c'.command (.vexp2 h d a ty) h.e h.start h.c (engVexp2 h d a ty)

/-- VLOG2 (R204, R115): log2 a. -/
def engVlog2 (h : Ex) (d a : BitVec 5) (ty : BitVec 4) : Engine :=
  elemEngine h d [a] (tyOf ty) 10 none fun _ r _ x i => flog2 r.ftz (f32Val r.ftz (x.el .f32 a i))

/-- VLOG2 (R204, R115): its issue. -/
def execVlog2 (h : Ex) (d a : BitVec 5) (ty : BitVec 4) (s : State) : Host.Outcome State Fault Refusal :=
  onCtx s fun _ c' => c'.command (.vlog2 h d a ty) h.e h.start h.c (engVlog2 h d a ty)

/-- VRCP (R204, R115): 1 / a. -/
def engVrcp (h : Ex) (d a : BitVec 5) (ty : BitVec 4) : Engine :=
  elemEngine h d [a] (tyOf ty) 10 none fun _ r _ x i => frcp r.ftz (f32Val r.ftz (x.el .f32 a i))

/-- VRCP (R204, R115): its issue. -/
def execVrcp (h : Ex) (d a : BitVec 5) (ty : BitVec 4) (s : State) : Host.Outcome State Fault Refusal :=
  onCtx s fun _ c' => c'.command (.vrcp h d a ty) h.e h.start h.c (engVrcp h d a ty)

/-- VRSQ (R204, R115): 1 over the root of a. -/
def engVrsq (h : Ex) (d a : BitVec 5) (ty : BitVec 4) : Engine :=
  elemEngine h d [a] (tyOf ty) 10 none fun _ r _ x i => frsq r.ftz (f32Val r.ftz (x.el .f32 a i))

/-- VRSQ (R204, R115): its issue. -/
def execVrsq (h : Ex) (d a : BitVec 5) (ty : BitVec 4) (s : State) : Host.Outcome State Fault Refusal :=
  onCtx s fun _ c' => c'.command (.vrsq h d a ty) h.e h.start h.c (engVrsq h d a ty)

/-- VTANH (R204, R115): tanh a. -/
def engVtanh (h : Ex) (d a : BitVec 5) (ty : BitVec 4) : Engine :=
  elemEngine h d [a] (tyOf ty) 10 none fun _ r _ x i => ftanh r.ftz (f32Val r.ftz (x.el .f32 a i))

/-- VTANH (R204, R115): its issue. -/
def execVtanh (h : Ex) (d a : BitVec 5) (ty : BitVec 4) (s : State) : Host.Outcome State Fault Refusal :=
  onCtx s fun _ c' => c'.command (.vtanh h d a ty) h.e h.start h.c (engVtanh h d a ty)

/-- VDIV (R204, R115): a / b. -/
def engVdiv (h : Ex) (d a b : BitVec 5) (ty : BitVec 4) (rm : BitVec 3) : Engine :=
  elemEngine h d [a, b] (tyOf ty) 18 (some rm) fun _ r _ x i =>
    divF32 r.mode r.u24 r.ftz (f32Val r.ftz (x.el .f32 a i)) (f32Val r.ftz (x.el .f32 b i))

/-- VDIV (R204, R115): its issue. -/
def execVdiv (h : Ex) (d a b : BitVec 5) (ty : BitVec 4) (rm : BitVec 3) (s : State) : Host.Outcome State Fault Refusal :=
  onCtx s fun _ c' => c'.command (.vdiv h d a b ty rm) h.e h.start h.c (engVdiv h d a b ty rm)

/-- The 64-bit value e of a draw: b over a (R204). -/
def drawOf (x : Cell) (a b : Reg) (i : Nat) : U64 := BitVec.ofNat 64 (x.el .u32 b i * 2 ^ 32 + x.el .u32 a i)

/-- VRND (R204, R117): word w of the draw. -/
def engVrnd (h : Ex) (d a b : BitVec 5) (ty : BitVec 4) (w : BitVec 2) : Engine :=
  elemEngine h d [a, b] (tyOf ty) 8 none fun e _ _ x i =>
    let z := e.rng.draw (drawOf x a b i)
    ((match w.toNat with | 0 => z.1 | 1 => z.2.1 | 2 => z.2.2.1 | _ => z.2.2.2).toNat, .zero)

/-- VRND (R204, R117): its issue. -/
def execVrnd (h : Ex) (d a b : BitVec 5) (ty : BitVec 4) (w : BitVec 2) (s : State) : Host.Outcome State Fault Refusal :=
  onCtx s fun _ c' => c'.command (.vrnd h d a b ty w) h.e h.start h.c (engVrnd h d a b ty w)

/-- VGUMB (R204, R118). -/
def engVgumb (h : Ex) (d a b : BitVec 5) (ty : BitVec 4) : Engine :=
  elemEngine h d [a, b] (tyOf ty) 12 none fun e _ _ x i => (gumbel (e.rng.draw (drawOf x a b i)).1, .zero)

/-- VGUMB (R204, R118): its issue. -/
def execVgumb (h : Ex) (d a b : BitVec 5) (ty : BitVec 4) (s : State) : Host.Outcome State Fault Refusal :=
  onCtx s fun _ c' => c'.command (.vgumb h d a b ty) h.e h.start h.c (engVgumb h d a b ty)

/-- One lane folded into the running best (R205): best, its index, and the flags. A NaN score sets no flag. -/
def sampStep (ftz : Bool) (rng : Rng) (invT : Nat) (r : Nat × Nat × Flags) (logit v : Nat) : Nat × Nat × Flags :=
  let g := gumbel (rng.draw (BitVec.ofNat 64 v)).1
  let p := f32Mul ftz logit invT
  let q := f32Add ftz p.1 g
  let score := f32Val ftz q.1
  let best := f32Val ftz r.1
  let fl : Flags := { p.2.or q.2 with nv := false }
  if !score.isNan && (best.isNan || Val.ltb best score || (Val.eqb score best && decide (v < r.2.1))) then
    (q.1, v, r.2.2.or fl)
  else (r.1, r.2.1, r.2.2.or fl)

/-- VSAMP (R205): lanes 2 to 15 keep their values. -/
def engVsamp (h : Ex) (d a b : BitVec 5) (ty : BitVec 4) : Engine :=
  { queue := 0, reads := fun _ => predReads h.p [a, b, d], writes := fun _ => [.v d],
    start := fun _ c e => .done (c.landCells e .q0 (c.now + 5) fun n x =>
      let r := ((List.range 16).filter (actAt 32 (x.act h))).foldl
        (fun r l => sampStep e.ftz e.rng (x.el (tyOf ty) d 2) r (x.el .f32 a l) (x.el .u32 b l))
        (x.el .f32 d 0, x.el .u32 d 1, .zero)
      (.v n d (BitVec.ofNat 512 (r.1 + r.2.1 * 2 ^ 32)) 0xFF#64, r.2.2)) }

/-- VSAMP (R205): its issue. -/
def execVsamp (h : Ex) (d a b : BitVec 5) (ty : BitVec 4) (s : State) : Host.Outcome State Fault Refusal :=
  onCtx s fun _ c' => c'.command (.vsamp h d a b ty) h.e h.start h.c (engVsamp h d a b ty)

end Sys2Proof.Machine
end

