-- ==== Sys2Proof/Machine/Matrix.lean ====
section
/-!
DEFINITION. The matrix commands, major 0x3B: format words (R107, R141, R207, R208), products with their scales and exact
sums (R108 to R111, R210 to R217), the checksum (R113), and the commands that zero, read out and store the accumulators
(R218 to R220).
-/

namespace Sys2Proof.Machine

/-! Format words (R107, R141). -/

/-- The fields of a format word. -/
def fmtA (w : U64) : BitVec 4 := w.extractLsb' 60 4
def fmtB (w : U64) : BitVec 4 := w.extractLsb' 56 4
def fmtAcc (w : U64) : Ty := tyOf (w.extractLsb' 52 4)
def fmtScale (w : U64) : Nat := (w.extractLsb' 50 2).toNat
def fmtGroup (w : U64) : Nat := (w.extractLsb' 48 2).toNat
def fmtS (w : U64) : Nat := (w.extractLsb' 45 3).toNat
def fmtZ (w : U64) : Nat := (w.extractLsb' 42 3).toNat
def fmtRound (w : U64) : RMode := match (w.extractLsb' 40 2).toNat with | 0 => .rne | 1 => .rtz | _ => .sr
def fmtChk (w : U64) : Bool := bit w 39
def fmtFtz (w : U64) : Bool := bit w 38

/-- The checks of R141 that hold for every command. -/
def fmtFields (w : U64) : Bool :=
  let acc := (w.extractLsb' 52 4).toNat
  (acc == 8 || acc == 6 || acc == 4) && fmtScale w != 3 && fmtGroup w != 3 && (fmtScale w == 1 || fmtGroup w == 0) &&
    (fmtScale w != 0 || (fmtS w == 0 && fmtZ w == 0)) && (w.extractLsb' 40 2).toNat != 3 && w.extractLsb' 0 38 == 0#38

/-- The products that one element sums exactly, g, by the row of R107 that a word matches. -/
def mmaRow (w : U64) : Option Nat :=
  let a := (fmtA w).toNat
  let b := (fmtB w).toNat
  let acc := (w.extractLsb' 52 4).toNat
  let both (p : Nat → Bool) : Bool := p a && p b
  let float : Bool := acc == 8 || acc == 6
  match fmtScale w with
  | 0 =>
    if a == 8 && b == 8 && acc == 8 then some 1
    else if both (fun x => x == 6 || x == 7) && float then some 2
    else if both (fun x => x == 9 || x == 10) && float then some 4
    else if both (fun x => x == 0 || x == 1) && acc == 4 then some 4
    else if a == 11 && b == 11 && float then some 8
    else if both (fun x => x == 12 || x == 13) && acc == 4 then some 8
    else none
  | 1 =>
    if both (fun x => x == 0 || x == 1) && acc == 8 then some 4
    else if both (fun x => x == 12 || x == 13) && acc == 8 then some 8
    else none
  | _ =>
    if (both (fun x => x == 9 || x == 10) || (a == 0 && b == 0)) && acc == 8 then some 4
    else if ((a == 11 && b == 11) || (a == 12 && b == 12)) && acc == 8 then some 8
    else none

/-- The word passes the checks at a pop by MMA (scale 0), MMAQ (1) or MMAB (2). -/
def fmtOk (w : U64) (scale : Nat) : Bool := fmtFields w && (mmaRow w).isSome && fmtScale w == scale

/-! The product commands. -/

/-- The fields of MMA, MMAQ and MMAB: the scale mode of the form, and the pop bits. -/
structure MatOp where
  h : Ex
  scale : Nat
  tile : Nat
  ra : Nat
  rb : Nat
  n : Nat
  m : Nat
  tr : Bool
  z : Bool
  pa : Bool
  pb : Bool
  ps : Bool

/-- The product command that an instruction is. -/
def matOpOf : Instr → Option MatOp
  | .mma h t ra rb n m tr z pa pb => some ⟨h, 0, t.toNat, ra.toNat, rb.toNat, colsOf n, rowsOf m, tr, z, pa, pb, false⟩
  | .mmaq h t ra rb n m tr z pa pb ps => some ⟨h, 1, t.toNat, ra.toNat, rb.toNat, colsOf n, rowsOf m, tr, z, pa, pb, ps⟩
  | .mmab h t ra rb n m tr z pa pb ps => some ⟨h, 2, t.toNat, ra.toNat, rb.toNat, colsOf n, rowsOf m, tr, z, pa, pb, ps⟩
  | _ => none

/-- The first slot of the block. -/
def MatOp.lo (o : MatOp) : Nat := 1024 * o.tile
/-- Its number of slots. -/
def MatOp.slots (o : MatOp) : Nat := o.m * o.n
/-- Its occupancy (R216). -/
def MatOp.occ (o : MatOp) : Nat := o.m * o.n / 16

/-- Reduction elements per command for an element width (R107). -/
def mmaK (w : U64) : Nat := 512 / codeWidth (fmtA w)
/-- Positions per quantization group (R111). -/
def groupSize (w : U64) : Nat := 32 * 2 ^ fmtGroup w
/-- Groups per command and column (R213). -/
def groupsOf (w : U64) : Nat := Nat.max 1 (mmaK w / groupSize w)
/-- Blocks of 32 in a number of rows or columns; 16 counts as one (R214). -/
def blocksOf (n : Nat) : Nat := (n + 31) / 32

/-- The bytes that a command uses of SRING's and ZRING's slots (R213, R214). -/
def scaleBytes (o : MatOp) (w : U64) : Nat × Nat :=
  if fmtScale w = 1 then (2 * o.n * groupsOf w, o.n * groupsOf w)
  else if fmtScale w = 2 then (blocksOf o.m * (mmaK w / 32), blocksOf o.n * (mmaK w / 32))
  else (0, 0)

/-- The rings a command reads under a format word, with the lines it reads of each, as operand numbers (R212 to R215). -/
def MatOp.rings (o : MatOp) (w : U64) : List (Nat × Nat × Nat) :=
  let s := scaleBytes o w
  let lines (n : Nat) : Nat := (n + 63) / 64
  [(0, o.ra, o.m), (1, o.rb, o.n)] ++
    (if fmtScale w = 1 ∨ fmtScale w = 2 then [(2, fmtS w, lines s.1), (3, fmtZ w, lines s.2)] else [])

/-- The cycle after the start in which line l of an operand is read (R309). -/
def MatOp.readAt (o : MatOp) (which l : Nat) : Nat := if which = 0 then l / 16 * o.n + l % 16 else l

/-- The tag checks of the rings a command reads, at HEAD, in order (R215): the lowest-numbered cell with a mismatch and its
first mismatched ring, and otherwise a pending tag. -/
def ringTags (c : Ctx) (ms : List Nat) : Option Started :=
  let at_ (n m : Nat) : TagState := let r := (c.cell n).ring m; r.check (r.position 0).1 (r.position 0).2
  let bad := (List.range 16).findSome? fun n => ms.findSome? fun m =>
    let r := (c.cell n).ring m
    match at_ n m with
    | .mismatch => some (Started.fault causeSchedule 0#8 (tagTval (r.tag r.hslot) r.head))
    | _ => none
  match bad with
  | some x => some x
  | none => if (List.range 16).any fun n => ms.any fun m => at_ n m matches .pending then some (.hold 1) else none

/-- The accumulator slots that a cell's uncorrectable errors make unreadable: TVAL (R281). -/
def Ctx.badSlot (c : Ctx) (cells : List Nat) (lo n : Nat) : Option U64 :=
  cells.findSome? fun k =>
    ((c.cell k).badSlots.find? fun s => decide (lo ≤ s) && decide (s < lo + n)).map fun s => cellTval 2 k s

/-- The context after a pop of the format queue (R207), and after a successful one (R208). -/
def Ctx.popFmt (c : Ctx) : Ctx := { c with fmt := { c.fmt with queue := c.fmt.queue.drop 1 } }
def Ctx.takeFmt (c : Ctx) (w : U64) (srctr : U32) : Ctx :=
  { c with fmt := { c.fmt with queue := c.fmt.queue.drop 1, word := w, srctr := srctr } }

/-- The cells in which a matrix command is active: bit 0 of its predicate (R210). -/
def Ctx.matCells (c : Ctx) (h : Ex) : List Nat := (List.range 16).filter fun n => bit ((c.cell n).act h) 0

/-- The rings that a product's pop bits name: a ring that one bit names in two fields is popped once for it (R216). -/
def MatOp.pops (o : MatOp) (w : U64) : List (Bool × Nat) :=
  [(o.pa, o.ra), (o.pb, o.rb), (o.ps, fmtS w), (o.ps && fmtS w != fmtZ w, fmtZ w)]

/-- The place of an operand's lines among the accesses of one cycle: B, A, SRING, ZRING (R309, R311). -/
def operandRank (which : Nat) : Nat := match which with | 0 => 1 | 1 => 0 | n => n

/-- Bring the ring pops of a command to its last cycle of occupancy (R216). -/
def Ctx.popRings (c : Ctx) (e : QEntry) (due : Nat) : List (Bool × Nat) → Ctx
  | [] => c
  | (p, m) :: xs => Ctx.popRings (if p then c.landE e .q1 due (.ring m (.pop 1)) else c) e due xs

/-- MMA, MMAQ and MMAB start (R212 to R217): the checks of R215 in order, the pop, the operand reads, the ring pops.
(Log entry 61: DEDUCED.) -/
def startMat (o : MatOp) (c : Ctx) (e : QEntry) : Started :=
  let words := e.instr.tvalWords
  let short (m lines : Nat) : Bool := c.cells.toList.any fun x => !(x.ring m).conf || decide ((x.ring m).size < lines)
  if short o.ra o.m || short o.rb o.n then .fault causeIllegal 0x08#8 words
  else
    match c.fmt.queue with
    | [] => .fault causeFmtqEmpty 0#8 words
    | w :: _ =>
      let rs := o.rings w
      if (rs.drop 2).any fun r => short r.2.1 r.2.2 then .fault causeIllegal 0x08#8 words
      else
        match ringTags c (rs.map fun r => r.2.1) with
        | some x => x
        | none =>
          if !fmtOk w o.scale then .spoilt c.popFmt causeIllegal 0x0B#8 w
          else
            let on := c.matCells o.h
            match if o.z then none else c.badSlot on o.lo o.slots with
            | some t => .fault causeUncorrectable 0#8 t
            | none =>
              let plan := c.planCells fun n x => Plan.all (rs.flatMap fun r =>
                (List.range r.2.2).map fun l =>
                  let ring := x.ring r.2.1
                  let p := c.readPlan e .q1 (2048 * operandRank r.1 + l) n (c.now + o.readAt r.1 l) (ring.lineAt ring.hslot l) 64
                    (.operand r.1 l)
                  if on.contains n then p else { p with lines := [] })
              c.startPlan plan fun c' =>
                let c1 := c'.takeFmt w e.srctr
                let old : List (List U32) :=
                  if fmtChk w && !o.z then c.cells.toList.map fun x => Store.getList x.acc o.lo o.slots else []
                let f : Flight := { ord := e.ord, trap := c.trap.tctx, start := c.now, entry := e, fmt := w,
                                    active := (List.range 16).map on.contains, lines := [], olds := old }
                let due := c.now + o.occ - 1
                .done ({ c1 with flights := c1.flights ++ [f] }.popRings e due (o.pops w))

/-! The product (R108, R110, R111, R212 to R214). -/

/-- Line l of an operand in a cell, as read; a line not read yet is zero. -/
def Flight.line (f : Flight) (cell which l : Nat) : Line :=
  match f.lines.find? fun x => x.1 == cell && x.2.1 == which && x.2.2.1 == l with
  | some x => x.2.2.2
  | none => 0#512

/-- Byte b of an operand's slot in a cell. -/
def Flight.byte (f : Flight) (cell which b : Nat) : Nat := elem 8 (f.line cell which (b / 64)) (b % 64)

/-- The value 2^(e - 127) of an E8M0 scale; 255 is NaN (R97). -/
def e8m0 (x : Nat) : Val := if x = 255 then .nan else .fin false 1 ((x : Int) - 127)

/-- The value of A(i, k) after its scale (R110, R111). -/
def Flight.valA (f : Flight) (cell i k : Nat) : Val × Flags :=
  let t := tyOf (fmtA f.fmt)
  let v := t.val (fmtFtz f.fmt) (elem t.width (f.line cell 0 i) k)
  if fmtScale f.fmt = 2 then Val.mul v (e8m0 (f.byte cell 2 (i / 32 * (mmaK f.fmt / 32) + k / 32))) else (v, .zero)

/-- The value of B(k, j) after its scale. -/
def Flight.valB (f : Flight) (o : MatOp) (cell k j : Nat) : Val × Flags :=
  let w := f.fmt
  let t := tyOf (fmtB w)
  let idx := if o.tr then k * o.n + j else j * mmaK w + k
  let x := elem t.width (f.line cell 1 (idx / t.count)) (idx % t.count)
  match fmtScale w with
  | 0 => (t.val (fmtFtz w) x, .zero)
  | 1 =>
    let q := j * groupsOf w + k / Nat.min (groupSize w) (mmaK w)
    let s := Fmt.f16.val (fmtFtz w) (f.byte cell 2 (2 * q) + 256 * f.byte cell 2 (2 * q + 1))
    Val.mul s (Val.ofInt (t.int x - t.int (f.byte cell 3 q % 2 ^ t.width)))
  | _ =>
    let q := if o.tr then k / 32 * blocksOf o.n + j / 32 else j / 32 * (mmaK w / 32) + k / 32
    Val.mul (t.val (fmtFtz w) x) (e8m0 (f.byte cell 3 q))

/-- The exact sum of some products (R108): NaN when one is NaN, NaN with NV for opposite infinities. -/
def groupSum (ps : List (Val × Flags)) : Val × Flags :=
  let vs := ps.map (·.1)
  let fl := ps.foldl (fun r p => r.or p.2) Flags.zero
  if vs.any Val.isNan then (.nan, fl)
  else if vs.contains (.inf true) && vs.contains (.inf false) then (.nan, fl.or .ofNv)
  else
    match vs with
    | [] => (.fin false 0 0, fl)
    | v :: vs => (vs.foldl (fun r x => (Val.add .rne r x).1) v, fl)

/-- acc_round(acc + s) for an accumulator type (R108). -/
def accRound (t : Ty) (ftz : Bool) (acc : Nat) (s : Val) : Nat × Flags :=
  match t with
  | .f16 =>
    let a := Fmt.f16.val ftz acc
    let r := Fmt.f16.finish .rne 0 ftz (Val.add .rne a s)
    if a.isFinite && s.isFinite && r.2.ovf then (Fmt.f16.withSign (decide (2 ^ 15 ≤ r.1)) Fmt.f16.maxFinite, .ofSat) else r
  | .i32 =>
    let k : Int := match s with | .fin neg m e => (if neg then -1 else 1) * ((m <<< e.toNat : Nat) : Int) | _ => 0
    Ty.i32.clamp (Ty.i32.int acc + k)
  | _ => Fmt.f32.finish .rne 0 ftz (Val.add .rne (f32Val ftz acc) s)

/-- One output element (R108). -/
def Flight.element (f : Flight) (o : MatOp) (cell i j acc : Nat) : Nat × Flags :=
  let g := (mmaRow f.fmt).getD 1
  (List.range (mmaK f.fmt / g)).foldl (fun r q =>
    let s := groupSum ((List.range g).map fun t =>
      let a := f.valA cell i (g * q + t)
      let b := f.valB o cell (g * q + t) j
      let p := Val.mul a.1 b.1
      (p.1, (a.2.or b.2).or p.2))
    let y := accRound (fmtAcc f.fmt) (fmtFtz f.fmt) r.1 s.1
    (y.1, (r.2.or s.2).or y.2)) (acc, .zero)

/-- A cell's accumulator store with the writes of Q1 commands earlier than ord that are still to land (R217).
(Log entry 63: DEDUCED.) -/
def Ctx.chained (c : Ctx) (cell ord : Nat) (trap : Bool) : Store 32 :=
  (sortLandings ((c.landings.filter fun l => l.unit == .q1 && l.trap == trap && decide (l.ord < ord)).reverse)).foldl (fun m l =>
    match l.write with
    | .acc n lo xs => if n = cell then Store.setList m lo xs else m
    | .accZero n lo k => if n = cell then Store.clear m lo k else m
    | _ => m) (c.cell cell).acc

/-- The slot values of the block in a cell, with their flags. -/
def Flight.block (f : Flight) (o : MatOp) (cell : Nat) (acc : Store 32) : List (Nat × Flags) :=
  (List.range o.slots).map fun s =>
    let x := (Store.get acc (o.lo + s)).toNat
    f.element o cell (s / o.n) (s % o.n) (if o.z then 0 else if fmtAcc f.fmt = .f16 then x % 65536 else x)

/-! The checksum (R113). -/

/-- One F32 step of a sum, with RNE. -/
def chkAdd (ftz : Bool) (x : Nat) (v : Val) : Nat := (Fmt.f32.finish .rne 0 ftz (Val.add .rne (f32Val ftz x) v)).1

/-- A value rounded to F32. -/
def chkF32 (ftz : Bool) (v : Val) : Val := f32Val ftz (Fmt.f32.ofVal .rne 0 ftz v).1

/-- A reference and a check value agree, or are not checked (R113). -/
def chkPass (tol : Nat) (ref chk : Nat) : Bool :=
  let x := f32Val false ref
  let y := f32Val false chk
  let mag (v : Val) : Val := if v.isNeg then v.neg else v
  if !x.isFinite || !y.isFinite then true
  else
    let d := mag (Val.add .rne x y.neg).1
    let m := if Val.ltb (mag x) (mag y) then mag y else mag x
    !Val.ltb (Val.mul (f32Val false tol) m).1 d

/-- The checks of the columns, when rows is false, or of the rows of a block in a cell: whether each passes. news and olds
are the slot values. -/
def Flight.lineChecks (f : Flight) (o : MatOp) (cell : Nat) (rows : Bool) (tol : Nat) (news olds : Nat → Nat) : List Bool :=
  let t := fmtAcc f.fmt
  let ftz := fmtFtz f.fmt
  let k := mmaK f.fmt
  let len := if rows then o.n else o.m
  let slot (a b : Nat) : Nat := if rows then a * o.n + b else b * o.n + a
  (List.range (if rows then o.m else o.n)).map fun a =>
    if t = .i32 then
      let ref : Int := ((List.range len).map fun b => Ty.i32.int (news (slot a b)) - Ty.i32.int (olds (slot a b))).sum
      let int (v : Val) : Int := match v with | .fin neg m e => (if neg then -1 else 1) * ((m <<< e.toNat : Nat) : Int) | _ => 0
      let chk : Int := ((List.range k).map fun q =>
        let side : Int := ((List.range len).map fun b =>
          int (if rows then (f.valB o cell q b).1 else (f.valA cell b q).1)).sum
        side * int (if rows then (f.valA cell a q).1 else (f.valB o cell q a).1)).sum
      (ref - chk) % (2 ^ 32 : Int) == 0
    else
      let terms := (List.range len).map fun b =>
        (t.val ftz (news (slot a b)), t.val ftz (olds (slot a b)))
      let ref := terms.foldl (fun r p => chkAdd ftz r (chkF32 ftz (Val.add .rne p.1 p.2.neg).1)) 0
      let chk := (List.range k).foldl (fun r q =>
        let side := (List.range len).foldl (fun r b =>
          chkAdd ftz r (if rows then (f.valB o cell q b).1 else (f.valA cell b q).1)) 0
        (Fmt.f32.finish .rne 0 ftz (Val.fma .rne (f32Val ftz side)
          (if rows then (f.valA cell a q).1 else (f.valB o cell q a).1) (f32Val ftz r))).1) 0
      terms.any (fun p => !p.1.isFinite || !p.2.isFinite) || chkPass tol ref chk

/-- The position of the first false. -/
def firstFalse : List Bool → Option Nat
  | [] => none
  | b :: bs => if b then (firstFalse bs).map (· + 1) else some 0

/-- TVAL of a failed checksum over the active cells: the first failing column, or the first failing row when no column
fails (R113), modulo 256. (Log entry 77: DESIGN CHOICE.) -/
def Flight.checksum (f : Flight) (o : MatOp) (tol : Nat) (cells : List (Nat × List Nat)) : Option U64 :=
  let olds (n s : Nat) : Nat := if o.z then 0 else ((f.olds.getD n []).getD s 0#32).toNat
  let first (rows : Bool) : Option Nat :=
    (cells.filterMap fun x => firstFalse (f.lineChecks o x.1 rows tol (fun s => x.2.getD s 0) (olds x.1))).min?
  match first false with
  | some j => some (u64 (o.tile + j % 256 * 256))
  | none => (first true).map fun i => u64 (o.tile + i % 256 * 256 + 65536)

/-- A command whose operands have all been read: its results, due at the end of t + O + 5 (R216), and its checksum. The flags
and the verdict come with the results, at the end of that cycle; CHKTOL is as the command took it at issue (R162).
(Log entry 77: DESIGN CHOICE.) -/
def Ctx.finishFlight (c : Ctx) (f : Flight) : Ctx :=
  match matOpOf f.entry.instr with
  | none => c
  | some o =>
    let due := f.start + o.occ + 5
    let on := (List.range 16).filter fun n => f.active.getD n false
    let done := on.map fun n => (n, f.block o n (c.chained n f.ord f.trap))
    let lands := done.map fun x =>
      let fl := x.2.foldl (fun r y => r.or y.2) Flags.zero
      (⟨f.ord, .q1, due, f.trap, .acc x.1 o.lo (x.2.map fun y => BitVec.ofNat 32 y.1), fl⟩ : Landing)
    let clamped : Bool := fmtAcc f.fmt == .i32 && lands.any fun l => l.flags.sat
    let fails :=
      if fmtChk f.fmt && !clamped then f.checksum o f.entry.chkTol.toNat (done.map fun x => (x.1, x.2.map (·.1))) else none
    let chk : List Landing := match fails with
      | some t => [⟨f.ord, .q1, due, f.trap, .checksum t f.entry.chkMode, .zero⟩]
      | none => []
    { c with landings := c.landings ++ lands ++ chk }

/-- Finish the product commands that wait for no more operand lines. -/
def Ctx.finishFlights (c : Ctx) : Ctx :=
  let waits (f : Flight) : Bool := c.towerOps.any fun o =>
    o.ord == f.ord && (match o.act with | .read _ (.operand _ _) => true | _ => false)
  (c.flights.filter fun f => !waits f).foldl Ctx.finishFlight { c with flights := c.flights.filter waits }

/-! Major 0x3B (R210 to R220). -/

/-- A product command. -/
def matEngine (o : MatOp) : Engine :=
  { queue := 1, occ := o.occ, counts := true, rings := [o.ra, o.rb],
    sees := some fun c => .p o.h.p :: (if !o.z && fmtChk (c.fmt.queue.headD 0#64) then [.acc o.lo o.slots] else []),
    reads := fun _ => .p o.h.p :: (if o.z then [] else [.acc o.lo o.slots]), writes := fun _ => [.acc o.lo o.slots],
    start := fun _ c e => startMat o c e }

/-- MMA (R217). -/
def engMma (h : Ex) (t : BitVec 6) (ra rb : BitVec 3) (n : BitVec 6) (m : BitVec 2) (tr z pa pb : Bool) : Engine :=
  matEngine ⟨h, 0, t.toNat, ra.toNat, rb.toNat, colsOf n, rowsOf m, tr, z, pa, pb, false⟩

/-- MMA (R217): its issue. -/
def execMma (h : Ex) (t : BitVec 6) (ra rb : BitVec 3) (n : BitVec 6) (m : BitVec 2) (tr z pa pb : Bool) (s : State) : Host.Outcome State Fault Refusal :=
  onCtx s fun _ c' => c'.command (.mma h t ra rb n m tr z pa pb) h.e h.start h.c (engMma h t ra rb n m tr z pa pb)

/-- MMAQ (R217). -/
def engMmaq (h : Ex) (t : BitVec 6) (ra rb : BitVec 3) (n : BitVec 6) (m : BitVec 2) (tr z pa pb pz : Bool) : Engine :=
  matEngine ⟨h, 1, t.toNat, ra.toNat, rb.toNat, colsOf n, rowsOf m, tr, z, pa, pb, pz⟩

/-- MMAQ (R217): its issue. -/
def execMmaq (h : Ex) (t : BitVec 6) (ra rb : BitVec 3) (n : BitVec 6) (m : BitVec 2) (tr z pa pb pz : Bool) (s : State) : Host.Outcome State Fault Refusal :=
  onCtx s fun _ c' => c'.command (.mmaq h t ra rb n m tr z pa pb pz) h.e h.start h.c (engMmaq h t ra rb n m tr z pa pb pz)

/-- MMAB (R217). -/
def engMmab (h : Ex) (t : BitVec 6) (ra rb : BitVec 3) (n : BitVec 6) (m : BitVec 2) (tr z pa pb pz : Bool) : Engine :=
  matEngine ⟨h, 2, t.toNat, ra.toNat, rb.toNat, colsOf n, rowsOf m, tr, z, pa, pb, pz⟩

/-- MMAB (R217): its issue. -/
def execMmab (h : Ex) (t : BitVec 6) (ra rb : BitVec 3) (n : BitVec 6) (m : BitVec 2) (tr z pa pb pz : Bool) (s : State) : Host.Outcome State Fault Refusal :=
  onCtx s fun _ c' => c'.command (.mmab h t ra rb n m tr z pa pb pz) h.e h.start h.c (engMmab h t ra rb n m tr z pa pb pz)

/-- MZERO (R218). -/
def engMzero (h : Ex) (t n : BitVec 6) : Engine :=
  let k := n.toNat + 1
  { queue := 1, occ := k, reads := fun _ => [.p h.p], writes := fun _ => [.acc (1024 * t.toNat) (1024 * k)],
    start := fun _ c e => .done ((c.matCells h).foldl (fun d x =>
      d.landE e .q1 (c.now + k + 5) (.accZero x (1024 * t.toNat) (1024 * k))) c) }

/-- MZERO (R218): its issue. -/
def execMzero (h : Ex) (t n : BitVec 6) (s : State) : Host.Outcome State Fault Refusal :=
  onCtx s fun _ c' => c'.command (.mzero h t n) h.e h.start h.c (engMzero h t n)

/-- A slot's value of an accumulator type. -/
def slotOf (t : Ty) (x : U32) : Nat := if t = .f16 then x.toNat % 65536 else x.toNat

/-- A conversion out of the accumulators under a format word, of element j (R106, R219, R220). -/
def fromAcc (w : U64) (td : Ty) (rng : Rng) (srctr : U32) (index cell j : Nat) (x : U32) : Nat × Flags :=
  let mode := fmtRound w
  convert (fmtAcc w) td mode (if mode = .sr then rng.srDraw srctr index cell j else 0) (fmtFtz w) (slotOf (fmtAcc w) x)

/-- MTOV (R219). -/
def engMtov (h : Ex) (t : BitVec 6) (d : BitVec 5) (l : BitVec 6) (ty : BitVec 4) : Engine :=
  let td := tyOf ty
  let lo := 1024 * t.toNat + 16 * l.toNat
  let n := td.count
  { queue := 1, occ := n / 16, reads := fun _ => [.p h.p, .acc lo n], writes := fun _ => [.v d],
    start := fun _ c e =>
      let on := (List.range 16).filter fun k => (List.range n).any (actAt td.width ((c.cell k).act h))
      match c.badSlot on lo n with
      | some x => .fault causeUncorrectable 0#8 x
      | none => .done (c.landCells e .q1 (c.now + n / 16 + 2) fun k x =>
          elemWrite k d td.width (actAt td.width (x.act h)) 0 n fun s =>
            fromAcc c.fmt.word td e.rng c.fmt.srctr c.index k s (Store.get x.acc (lo + s))) }

/-- MTOV (R219): its issue. -/
def execMtov (h : Ex) (t : BitVec 6) (d : BitVec 5) (l : BitVec 6) (ty : BitVec 4) (s : State) : Host.Outcome State Fault Refusal :=
  onCtx s fun _ c' => c'.command (.mtov h t d l ty) h.e h.start h.c (engMtov h t d l ty)

/-- The elements of the fill that MTOT makes in a cell: index in the slot, value and flags (R220). -/
def mtotElems (w : U64) (e : QEntry) (index cell : Nat) (acc : Store 32) (lo m n : Nat) (tr : Bool) : List (Nat × Nat × Flags) :=
  (List.range (m * n)).map fun s =>
    let j := if tr then s % n * m + s / n else s
    (j, fromAcc w (tyOf (fmtA w)) e.rng e.srctr index cell j (Store.get acc (lo + s)))

/-- Line l of a fill of elements of a width, and the flags of those elements. -/
def fillLine (width l : Nat) (xs : List (Nat × Nat × Flags)) : Line × Flags :=
  let ys := xs.filter fun x => width * x.1 / 512 == l
  (BitVec.ofNat 512 ((ys.map fun x => (x.2.1 % 2 ^ width) <<< (width * x.1 % 512)).sum), ys.foldl (fun f x => f.or x.2.2) .zero)

/-- A word whose types a row of R107 takes, when its B type is of no account (R141, R220). -/
def fmtForMtot (w : U64) : Bool :=
  let like : U64 := (w &&& ~~~0x0F00000000000000#64) ||| ((fmtA w).setWidth 64 <<< 56)
  fmtFields w && (mmaRow like).isSome && fmtScale w == 0

/-- MTOT (R220). Its ring is tested before its format word is popped. (Log entry 61: DEDUCED.) -/
def engMtot (h : Ex) (t : BitVec 6) (ra : BitVec 3) (n : BitVec 6) (m : BitVec 2) (tr z : Bool) : Engine :=
  let rows := rowsOf m
  let cols := colsOf n
  let lo := 1024 * t.toNat
  let occ := rows * cols / 64
  let ring := ra.toNat
  { queue := 1, occ := occ, counts := true, rings := [ring], reads := fun _ => [.p h.p, .acc lo (rows * cols)],
    writes := fun _ => if z then [.acc lo (rows * cols)] else [],
    start := fun _ c e =>
      let words := e.instr.tvalWords
      let on := c.matCells h
      if c.cells.toList.any fun x => !(x.ring ring).conf then .fault causeIllegal 0x08#8 words
      else
        match c.fmt.queue with
        | [] => .fault causeFmtqEmpty 0#8 words
        | w :: _ =>
          match on.find? fun k => ((c.cell k).ring ring).full with
          | some k =>
            let r := (c.cell k).ring ring
            .fault causeSchedule 0#8 (tagTval r.nexttag r.head)
          | none =>
            if !fmtForMtot w then .spoilt c.popFmt causeIllegal 0x0B#8 w
            else if 512 * ((c.cell 0).ring ring).size < rows * cols * codeWidth (fmtA w) then
              .spoilt c.popFmt causeIllegal 0x08#8 words
            else
              match c.badSlot on lo (rows * cols) with
              | some x => .fault causeUncorrectable 0#8 x
              | none =>
                let size := ((c.cell 0).ring ring).size
                let line (k l : Nat) : Line × Flags :=
                  fillLine (codeWidth (fmtA w)) l (mtotElems w e c.index k (c.cell k).acc lo rows cols tr)
                let at_ (l : Nat) : Nat := c.now + 3 + l * occ / size
                let plan := c.planCells fun k x =>
                  if on.contains k then
                    let r := x.ring ring
                    Plan.all ((List.range size).map fun l =>
                      let off := r.lineAt r.fslot l
                      { ops := [c.op e .q1 l k (at_ l) off (.matrixWrite (line k l).1 (~~~0#64))], watch := [(k, off, true)] })
                  else {}
                c.startPlan plan fun c' =>
                  let c1 := (c'.takeFmt w e.srctr).mapCells fun k x =>
                    if on.contains k then x.setRing ring ((x.ring ring).reserve (some e.ord) fun _ => []) else x
                  .done (on.foldl (fun d k =>
                    let d := (List.range size).foldl (fun d l => d.landE e .q1 (at_ l) .flagsOnly (line k l).2) d
                    let d := d.landE e .q1 (c.now + occ + 4) (.fillDone k ring e.ord)
                    if z then d.landE e .q1 (c.now + occ + 5) (.accZero k lo (rows * cols)) else d) c1) }

/-- MTOT (R220): its issue. -/
def execMtot (h : Ex) (t : BitVec 6) (ra : BitVec 3) (n : BitVec 6) (m : BitVec 2) (tr z : Bool) (s : State) : Host.Outcome State Fault Refusal :=
  onCtx s fun _ c' => c'.command (.mtot h t ra n m tr z) h.e h.start h.c (engMtot h t ra n m tr z)

end Sys2Proof.Machine
end

