-- ==== Sys2Proof/Machine/Motif.lean ====
section
/-!
DEFINITION. Motifs: the value of a source, the operation of a unit, the evaluation of a lane (R256, R343, R344, R346), the
checks of an image (R341, R345), and the call, major 0x39 (R260).
-/

namespace Sys2Proof.Machine

/-! Evaluation. -/

/-- The inputs of a lane. -/
structure LaneIn where
  a : Nat
  b : Nat
  c : Nat
  e : Nat

/-- The value that a source code names, with the results so far (R343). -/
def sourceVal (x : LaneIn) (imm : Nat) (rs : List Nat) (code : Nat) : Nat :=
  if code < 0x30 then rs.getD code 0
  else
    match code with
    | 0x40 => x.a | 0x41 => x.b | 0x42 => x.c | 0x43 => x.e | 0x44 => imm | _ => 0

/-- The BF16 halves of a word. -/
def bfHalf (ftz : Bool) (x k : Nat) : Val := Ty.bf16.val ftz (x >>> (16 * k) % 65536)

/-- The exact sum of a value and two products: a NaN among them is carried on, and otherwise infinities of both signs make one
(R105, R346). (Log entry 96: DEDUCED.) -/
def Val.dot2 (c : Val) (p q : Val × Flags) : Val × Flags :=
  let r := Val.add .rne c p.1
  let t := Val.add .rne r.1 q.1
  if c = .nan ∨ p.1 = .nan ∨ q.1 = .nan then (.nan, p.2.or q.2) else (t.1, r.2.or t.2)

/-- The operation of a unit on its operands, with FTZ at the call's issue (R344). Results are taken modulo 2^32. -/
def unitOp (ftz : Bool) (u : MotifUnit) (a b c : Nat) : Nat × Flags :=
  match u.op with
  | 0 => (a + b, .zero)
  | 1 => (natOf 32 ((a : Int) - b), .zero)
  | 2 => (natOf 32 (intOf (u.sub == 0) 16 a * intOf (u.sub == 0) 16 b), .zero)
  | 3 => f32Fma ftz a b c
  | 4 =>
    Fmt.f32.finish .rne 0 ftz (Val.dot2 (f32Val ftz c) (Val.mul (bfHalf ftz a 0) (bfHalf ftz b 0))
      (Val.mul (bfHalf ftz a 1) (bfHalf ftz b 1)))
  | 5 | 6 =>
    if u.sub = 2 then Fmt.f32.finish .rne 0 ftz (Val.minmax (u.op == 6) (f32Val ftz a) (f32Val ftz b), .zero)
    else
      let less : Bool := decide (intOf (u.sub == 0) 32 a < intOf (u.sub == 0) 32 b)
      (if less == (u.op == 5) then a else b, .zero)
  | 7 =>
    let bits := (List.range 32).map fun k =>
      if u.sub / 2 ^ (4 * (a / 2 ^ k % 2) + 2 * (b / 2 ^ k % 2) + c / 2 ^ k % 2) % 2 = 1 then 2 ^ k else 0
    (bits.sum, .zero)
  | 8 =>
    let n := b % 32
    (match u.sub with
     | 0 => a <<< n
     | 1 => a >>> n
     | 2 => natOf 32 (intOf true 32 a / (2 ^ n : Nat))
     | _ => a <<< n ||| a >>> (32 - n), .zero)
  | 9 => (if c = 0 then b else a, .zero)
  | 10 =>
    let r :=
      if u.sub / 8 = 2 then cmpFloat (u.sub % 8) (f32Val ftz a) (f32Val ftz b)
      else
        let p := intOf (u.sub / 8 == 0) 32 a
        let q := intOf (u.sub / 8 == 0) 32 b
        cmpCode (u.sub % 8) (decide (p < q)) (p == q)
    (if r then 1 else 0, .zero)
  | _ => (u.imm.toNat >>> (8 * (a % 8)) % 256, .zero)

/-- The results of the units of a lane, in order, and their flags (R346). -/
def evalUnits (ftz : Bool) (x : LaneIn) : List MotifUnit → List Nat → Flags → List Nat × Flags
  | [], rs, fl => (rs, fl)
  | u :: us, rs, fl =>
    let imm := u.imm.toNat % 2 ^ 32
    let v (code : Nat) : Nat := sourceVal x imm rs code
    let r := unitOp ftz u (v u.src.1) (v u.src.2.1) (v u.src.2.2)
    evalUnits ftz x us (rs ++ [r.1 % 2 ^ 32]) (fl.or r.2)

/-- The outputs of a lane and its flags. -/
def Motif.eval (m : Motif) (ftz : Bool) (x : LaneIn) : Nat × Nat × Flags :=
  let r := evalUnits ftz x m.units [] .zero
  (sourceVal x 0 r.1 m.y0, sourceVal x 0 r.1 m.y1, r.2)

/-! The image (R341 to R345). -/

/-- Operands that an operation uses (R344). -/
def unitOperands (op : Nat) : Nat :=
  match op with
  | 3 | 4 | 7 | 9 => 3
  | 11 => 1
  | _ => 2

/-- Its latency (R344). -/
def unitLatency (op : Nat) : Nat := match op with | 2 => 2 | 3 => 3 | 4 => 3 | _ => 1

/-- A variant that the operation lists (R344). -/
def unitSubOk (op sub : Nat) : Bool :=
  match op with
  | 2 => decide (sub < 2)
  | 5 | 6 => decide (sub < 3)
  | 7 => true
  | 8 => decide (sub < 4)
  | 10 => decide (sub < 24) && (decide (sub % 8 < 6) || (sub % 8 == 6 && sub / 8 == 2))
  | _ => sub == 0

/-- The ready cycle of a source of unit u, or of an output, when it may be named (R343). -/
def sourceReady (nin : Nat) (ein : Bool) (ready : List Nat) (imm : Bool) (code : Nat) : Option Nat :=
  if code < 0x30 then ready[code]?
  else if 0x40 ≤ code ∧ code ≤ 0x42 then (if code - 0x40 < nin then some 0 else none)
  else if code = 0x43 then (if ein then some 0 else none)
  else if code = 0x44 then (if imm then some 0 else none)
  else if code = 0x45 then some 0
  else none

/-- Bits lo to lo + n - 1 of a doubleword. -/
def dwBits (x : U64) (lo n : Nat) : Nat := x.toNat / 2 ^ lo % 2 ^ n

/-- One unit record, checked against the ready cycles of the units before it (R342, R345). -/
def checkUnit (nin : Nat) (ein : Bool) (ready : List Nat) (w0 w1 : U64) : Option MotifUnit :=
  let u : MotifUnit := { op := dwBits w0 0 8, sub := dwBits w0 40 8, ready := dwBits w0 32 6,
                         src := (dwBits w0 8 8, dwBits w0 16 8, dwBits w0 24 8), imm := w1 }
  let n := unitOperands u.op
  let used := [u.src.1, u.src.2.1, u.src.2.2].take n
  let spare := [u.src.1, u.src.2.1, u.src.2.2].drop n
  let at_ := used.map (sourceReady nin ein ready (u.op != 11))
  if dwBits w0 48 16 = 0 ∧ dwBits w0 38 2 = 0 ∧ u.op < 12 ∧ unitSubOk u.op u.sub ∧ spare.all (· == 0x45) ∧
      at_.all Option.isSome ∧ (u.op = 11 ∨ dwBits w1 32 32 = 0) ∧ 1 ≤ u.ready ∧ u.ready ≤ 32 ∧
      u.ready = (at_.filterMap id).foldl Nat.max 0 + unitLatency u.op then some u
  else none

/-- The unit records from number k on. -/
def checkUnits (dw : Nat → U64) (nin : Nat) (ein : Bool) : Nat → Nat → List MotifUnit → Option (List MotifUnit)
  | 0, _, us => some us
  | n + 1, k, us =>
    match checkUnit nin ein (us.map (·.ready)) (dw (2 + 2 * k)) (dw (3 + 2 * k)) with
    | some u => checkUnits dw nin ein n (k + 1) (us ++ [u])
    | none => none

/-- How often unit k is named. -/
def namedTimes (us : List MotifUnit) (y0 y1 k : Nat) : Nat :=
  (us.map fun u => ([u.src.1, u.src.2.1, u.src.2.2].filter (· == k)).length).sum + ([y0, y1].filter (· == k)).length

/-- The motif of an image whose doublewords are dw, when it passes validation (R345). -/
def validate (dw : Nat → U64) : Option Motif :=
  let h0 := dw 0
  let h1 := dw 1
  let n := dwBits h0 18 6
  let nin := dwBits h0 8 2
  let ein := dwBits h0 10 1 == 1
  let nout := dwBits h0 11 2
  let lat := dwBits h0 13 5 + 1
  let y0 := dwBits h1 0 8
  let y1 := dwBits h1 8 8
  if dwBits h0 24 40 = 0 ∧ 1 ≤ n ∧ n ≤ 48 ∧ (nout = 1 ∨ nout = 2) ∧ dwBits h0 0 8 = 1 ∧ dwBits h1 16 48 = 0 ∧
      (nout = 2 ∨ y1 = 0x45) then
    match checkUnits dw nin ein n 0 [] with
    | some us =>
      let out (y : Nat) : Bool :=
        match sourceReady nin ein (us.map (·.ready)) false y with
        | some t => decide (t ≤ lat)
        | none => false
      if out y0 && out y1 && (List.range n).all (fun k => decide (namedTimes us y0 y1 k ≤ 4)) then
        some { nin := nin, ein := ein, nout := nout, lat := lat, y0 := y0, y1 := y1, units := us }
      else none
    | none => none
  else none

/-! The call (R260). -/

/-- The register that receives Y1, where there is one. -/
def motY1 (d y : Reg) (ep : Bool) : Option Reg := if !ep then some y else if d = 31#5 then none else some (d + 1#5)

/-- The motif that a code calls now. -/
def Ctx.motifOf (c : Ctx) (cd : BitVec 6) : Option Motif :=
  match vget none c.motif.bind cd.toNat with
  | some k => match vget .empty c.motif.slots k.toNat with | .loaded m => some m | _ => none
  | none => none

/-- What the motif declares does not fit the call's fields: it refuses the call (R260, step 2). -/
def Motif.motRefuses (m : Motif) (d : Reg) (ep : Bool) : Bool := m.ein != ep || (ep && m.nout == 2 && d == 31#5)

/-- The values that a call reads in its start cycle: none where it does not reach them, and else the inputs that the motif declares
(R260). -/
def Ctx.motInputs (c : Ctx) (h : ExM) (cd : BitVec 6) (d a b : BitVec 5) (ep : Bool) (x : BitVec 5) : List Ref :=
  match c.motifOf cd with
  | some m => if m.motRefuses d ep then [] else predReads h.p ([a, b, x].take m.nin)
  | none => []

/-- MOT (R256, R260, R346). -/
def engMot (h : ExM) (cd : BitVec 6) (d a b : BitVec 5) (ep : Bool) (x y : BitVec 5) : Engine :=
  { queue := 0, sa := if ep then some y else none,
    sees := some fun c => c.motInputs h cd d a b ep x,
    reads := fun _ => predReads h.p [a, b, x], writes := fun _ => .v d :: (motY1 d y ep).toList.map .v,
    start := fun _ c e =>
      match c.motifOf cd with
      | none => .fault causeMotifMiss 0#8 e.instr.tvalWords
      | some m =>
        if m.motRefuses d ep then .fault causeIllegal 0x08#8 e.instr.tvalWords
        else
          let due := c.now + m.lat - 1
          let act (cell : Cell) : Nat → Bool := actAt 32 (cell.active h.p h.ps)
          let lane (cell : Cell) (l : Nat) : Nat × Nat × Flags :=
            m.eval e.ftz ⟨cell.el .u32 a l, cell.el .u32 b l, cell.el .u32 x l, e.scal.1.toNat % 2 ^ 32⟩
          let c1 := c.landCells e .q0 due fun n cell =>
            elemWrite n d 32 (act cell) 0 16 fun l => ((lane cell l).1, (lane cell l).2.2)
          let c2 := match motY1 d y ep with
            | some r => c1.landCells e .q0 due fun n cell =>
                if m.nout = 2 then elemWrite n r 32 (act cell) 0 16 fun l => ((lane cell l).2.1, .zero)
                else (.v n r 0#512 0#64, .zero)
            | none => c1
          .done { c2 with motif :=
            if c.trap.tctx then { c2.motif with untilTrap := Nat.max c2.motif.untilTrap (due + 1) }
            else { c2.motif with until_ := Nat.max c2.motif.until_ (due + 1) } } }

/-- MOT (R256, R260, R346): its issue. -/
def execMot (h : ExM) (cd : BitVec 6) (d a b : BitVec 5) (ep : Bool) (x y : BitVec 5) (s : State) : Host.Outcome State Fault Refusal :=
  onCtx s fun _ c' => c'.command (.mot h cd d a b ep x y) h.e h.start 0#5 (engMot h cd d a b ep x y)

end Sys2Proof.Machine
end

