-- ==== Sys2Proof/Machine/Move.lean ====
section
/-!
DEFINITION. The movement commands, major 0x3A: shifts and border buffers, express sends and ports, and joins (R14, R221 to
R228, R313).
-/

namespace Sys2Proof.Machine

/-! Neighbours and routes. -/

/-- One step towards N, E, S or W from (x, y), inside a panel of 4 by 4 cells: the cell, or none across the edge. -/
def stepCell (dir n : Nat) : Option Nat :=
  match dir with
  | 0 => if 4 ≤ n then some (n - 4) else none
  | 1 => if n % 4 < 3 then some (n + 1) else none
  | 2 => if n < 12 then some (n + 4) else none
  | _ => if 1 ≤ n % 4 then some (n - 1) else none

/-- The opposite direction. -/
def opposite (dir : Nat) : Nat := (dir + 2) % 4

/-- The entry of a border buffer that belongs to a cell: x on N and S, y on E and W (R223). -/
def borderEntry (side n : Nat) : Nat := if side % 2 = 0 then n % 4 else n / 4

/-- The logical position next to (tx, ty) of a task of w by h panels, where there is one (R223). -/
def stepPanel (w h dir tx ty : Nat) : Option (Nat × Nat) :=
  match dir with
  | 0 => if 1 ≤ ty then some (tx, ty - 1) else none
  | 1 => if tx + 1 < w then some (tx + 1, ty) else none
  | 2 => if ty + 1 < h then some (tx, ty + 1) else none
  | _ => if 1 ≤ tx then some (tx - 1, ty) else none

/-- The die that a message goes to next on its way between two dies (R14): across a diagonal it passes die 1 or die 0. -/
def nextDie (from_ to_ : Nat) : Nat := if from_ + to_ = 3 then (if from_ = 0 ∨ from_ = 3 then 1 else 0) else to_

/-- The torus link that leaves a panel of a die, by row and column, towards N, E, S or W. -/
def torusLink (d r k dir : Nat) : Nat := 256 * d + 32 * r + 4 * k + dir
/-- The bridge that leaves a die towards N, E, S or W. -/
def dieBridge (d dir : Nat) : Nat := 1024 + 4 * d + dir

/-- The hops on a ring of eight from a to b, by the shorter way round, up at a distance of 4: the places that they leave, and the
direction (R313). -/
def ringHops (a b up down : Nat) : List (Nat × Nat) :=
  let d := (b + 8 - a) % 8
  if d ≤ 4 then (List.range d).map fun i => ((a + i) % 8, up) else (List.range (8 - d)).map fun i => ((a + 8 - i) % 8, down)

/-- The hops along a row, and those along a column. -/
def rowHops (d r k k' : Nat) : List Nat := (ringHops k k' 1 3).map fun x => torusLink d r x.1 x.2
def colHops (d k r r' : Nat) : List Nat := (ringHops r r' 2 0).map fun x => torusLink d x.1 k x.2

/-- The links and bridges of a route from (die, row, col) to (die, row, col), in the order in which they are passed; at most two
bridges (R14, R313). -/
def route : Nat → Nat × Nat × Nat → Nat × Nat × Nat → List Nat
  | 0, _, _ => []
  | fuel + 1, (d, r, k), (d', r', k') =>
    if d = d' then rowHops d r k k' ++ colHops d k' r r'
    else
      let n := nextDie d d'
      -- an east-west bridge joins dies 0 and 1, and 2 and 3; the facing edge is column 7 of the western die
      if n / 2 = d / 2 then
        let edge := if d % 2 = 0 then 7 else 0
        rowHops d r k edge ++ dieBridge d (if d % 2 = 0 then 1 else 3) :: route fuel (n, r, 7 - edge) (d', r', k')
      else
        let edge := if d / 2 = 0 then 7 else 0
        colHops d k r edge ++ dieBridge d (if d / 2 = 0 then 2 else 0) :: route fuel (n, 7 - edge, k) (d', r', k')

/-- The wall cycles that a link or a bridge adds to a route (R14, R313). -/
def linkTime (link : Nat) : Nat := if link < 1024 then 2 else 20

/-- The route between two panels. -/
def expressRoute (p q : Nat) : List Nat := route 3 (dieOf p, dieRow p, dieCol p) (dieOf q, dieRow q, dieCol q)

/-- The wall cycles from a VXSEND's start to the arrival of its message, between two panels (R14, R313). -/
def expressTime (p q : Nat) : Nat := 6 + ((expressRoute p q).map linkTime).sum

/-- The wall cycles in which a message passes the links of its route, from wall cycle t on. (Log entry 87: DESIGN CHOICE.) -/
def passes : Nat → List Nat → List (Nat × Nat)
  | _, [] => []
  | t, l :: ls => (l, t) :: passes (t + linkTime l) ls

/-- A link of a route is still taken by earlier messages in the wall cycle in which it would be passed: the route is congested (R14). -/
def Env.congested (v : Env) (uses : List (Nat × Nat)) : Bool := uses.any fun u => v.net.any fun x => x.1 == u.1 && decide (2500 * u.2 < x.2)

/-- What a message of 64 bytes takes of a link or a bridge, in 1/2500 of a wall cycle: a link carries 64 bytes in a cycle of the 1.05 GHz
clock, a bridge 8 TB in a second (R2, R14). -/
def linkCost (link : Nat) : Nat := if link < 1024 then 2500 else 21

/-- The links taken after a message has taken one. -/
def takeLink (net : List (Nat × Nat)) (u : Nat × Nat) : List (Nat × Nat) :=
  let old := ((net.find? fun x => x.1 == u.1).map (·.2)).getD 0
  (u.1, Nat.max old (2500 * u.2) + linkCost u.1) :: net.filter fun x => x.1 != u.1

/-- The panel that the task's panel at logical position (tx, ty) stands on (R22). -/
def Ctx.panelOf (c : Ctx) (tx ty : Nat) : Nat :=
  panelAt (gridRow c.id.panel + ty - c.ty) (gridCol c.id.panel + tx - c.tx)

/-! Major 0x3A (R221 to R228). -/

/-- A movement command is active in a cell (R221). -/
def Cell.moves (x : Cell) (h : Ex) : Bool := bit (x.act h) 0

/-- The tag operand: the low half of a scalar. -/
def tagOf (e : QEntry) : U32 := e.scal.1.extractLsb' 0 32

/-- VSHIFT (R222). -/
def engVshift (h : Ex) (dr : BitVec 2) (d a : BitVec 5) (eg : BitVec 2) (tg : BitVec 5) : Engine :=
  { queue := 2, sa := if eg = 2#2 then some tg else none, reads := fun _ => predReads h.p [a], writes := fun _ => [.v d],
    start := fun _ c e =>
      let dir := dr.toNat
      let c1 := c.landCells e .q2 (c.now + 1) fun n x =>
        let mask : BitVec 64 := if x.moves h then x.act h else 0#64
        match stepCell (opposite dir) n with
        | some k => (.v n d ((c.cell k).rv a) mask, .zero)
        | none => (.v n d 0#512 (if eg = 1#2 then mask else 0#64), .zero)
      let out := (List.range 16).filterMap fun n =>
        let x := c.cell n
        if eg = 2#2 ∧ (stepCell dir n).isNone ∧ x.moves h then
          (stepPanel c.width c.height dir c.tx c.ty).map fun t =>
            Outbox.border { tx := t.1, ty := t.2, side := opposite dir, entry := borderEntry dir n, data := x.rv a, tag := tagOf e }
        else none
      .done { c1 with outbox := c1.outbox ++ out } }

/-- VSHIFT (R222): its issue. -/
def execVshift (h : Ex) (dr : BitVec 2) (d a : BitVec 5) (eg : BitVec 2) (tg : BitVec 5) (s : State) : Host.Outcome State Fault Refusal :=
  onCtx s fun _ c' => c'.command (.vshift h dr d a eg tg) h.e h.start h.c (engVshift h dr d a eg tg)

/-- A destination word outside its limits (R225). -/
def badDest (panels : Nat) (w : U32) : Bool :=
  decide (w.toNat / 2 ^ 18 ≠ 0) || (bit w 15 && w.extractLsb' 16 2 != 0#2) || (!bit w 15 && w.extractLsb' 12 3 != 0#3) ||
    decide (panels ≤ w.toNat % 256)

/-- The destination word of a cell: lane 0 of vdst. -/
def Cell.dest (x : Cell) (d : Reg) : U32 := BitVec.ofNat 32 (x.el .u32 d 0)

/-- The panel that a destination word names (R225). -/
def Ctx.destPanel (c : Ctx) (w : U32) : Nat := let k := w.toNat % 256; c.panelOf (k % c.width) (k / c.width)

/-- The links and bridges that the messages of some cells would pass when they were sent in wall cycle g. -/
def Ctx.linkUses (c : Ctx) (on : List Nat) (d : Reg) (g : Nat) : List (Nat × Nat) :=
  on.flatMap fun n => passes (g + 6) (expressRoute c.id.panel (c.destPanel ((c.cell n).dest d)))

/-- VXSEND (R225, R226): a congested route is as a full buffer (R14). -/
def engVxsend (h : Ex) (d a tg : BitVec 5) : Engine :=
  { queue := 2, sa := some tg, reads := fun _ => predReads h.p [d, a],
    start := fun v c e =>
      let on := (List.range 16).filter fun n => (c.cell n).moves h
      match on.find? fun n => badDest (c.width * c.height) ((c.cell n).dest d) with
      | some n => .fault causeIllegal 0x08#8 (((c.cell n).dest d).setWidth 64)
      | none =>
        let uses := c.linkUses on d v.gcyc
        if (on.any fun n => 4 ≤ (c.cell n).send.length) || v.congested uses then .hold 5
        else
          let send (n : Nat) (x : Cell) : Cell :=
            if x.moves h ∧ n < 16 then
              let w := x.dest d
              { x with send := x.send ++ [{ data := x.rv a, tag := tagOf e, dest := w, arrive := v.gcyc + expressTime c.id.panel (c.destPanel w) }] }
            else x
          .done { (c.mapCells send) with outbox := c.outbox ++ (if uses = [] then [] else [.express uses]) } }

/-- VXSEND (R225, R226): its issue. -/
def execVxsend (h : Ex) (d a tg : BitVec 5) (s : State) : Host.Outcome State Fault Refusal :=
  onCtx s fun _ c' => c'.command (.vxsend h d a tg) h.e h.start h.c (engVxsend h d a tg)

/-- A tagged read in every active cell (R224, R227): a mismatch of the lowest-numbered cell, with the tag found, and
otherwise a pending one. -/
def tagged (c : Ctx) (h : Ex) (want : U32) (found : Nat → Cell → Option U32) (pending : Option U32 → Bool) : Option Started :=
  let on := (List.range 16).filter fun n => (c.cell n).moves h
  let seen (n : Nat) : Option U32 := found n (c.cell n)
  match on.find? fun n => seen n != some want && !pending (seen n) with
  | some n => some (.fault causeSchedule 0#8 (tagTval ((seen n).getD 0#32) want))
  | none => if on.any fun n => seen n != some want then some (.hold 1) else none

/-- The bytes a movement command writes in a cell (R221). -/
def Cell.moveMask (x : Cell) (h : Ex) : BitVec 64 := if x.moves h then x.act h else 0#64

/-- VXRECV (R227). -/
def engVxrecv (h : Ex) (dr : BitVec 2) (d tg : BitVec 5) : Engine :=
  { queue := 2, sa := some tg, reads := fun _ => [.p h.p], writes := fun _ => [.v d],
    start := fun _ c e =>
      let port (x : Cell) : Option PortMsg := vget none x.ports dr.toNat
      match tagged c h (tagOf e) (fun _ x => (port x).map (·.tag)) Option.isNone with
      | some r => r
      | none =>
        let c1 := c.landCells e .q2 (c.now + 1) fun n x => (.v n d (((port x).map (·.data)).getD 0#512) (x.moveMask h), .zero)
        .done (((List.range 16).filter fun n => (c.cell n).moves h).foldl
          (fun c n => c.landE e .q2 c.now (.portEmpty n dr.toNat)) c1) }

/-- VXRECV (R227): its issue. -/
def execVxrecv (h : Ex) (dr : BitVec 2) (d tg : BitVec 5) (s : State) : Host.Outcome State Fault Refusal :=
  onCtx s fun _ c' => c'.command (.vxrecv h dr d tg) h.e h.start h.c (engVxrecv h dr d tg)

/-- VBORD (R224). -/
def engVbord (h : Ex) (dr : BitVec 2) (d tg : BitVec 5) : Engine :=
  { queue := 2, sa := some tg, reads := fun _ => [.p h.p], writes := fun _ => [.v d],
    start := fun _ c e =>
      let side := dr.toNat
      let entry (n : Nat) : Border := vget {} (vget (Vector.replicate 4 {}) c.borders side) (borderEntry side n)
      match tagged c h (tagOf e) (fun n _ => some (entry n).tag) (fun t => t == some (tagOf e - 1#32)) with
      | some r => r
      | none => .done (c.landCells e .q2 (c.now + 1) fun n x => (.v n d (entry n).data (x.moveMask h), .zero)) }

/-- VBORD (R224): its issue. -/
def execVbord (h : Ex) (dr : BitVec 2) (d tg : BitVec 5) (s : State) : Host.Outcome State Fault Refusal :=
  onCtx s fun _ c' => c'.command (.vbord h dr d tg) h.e h.start h.c (engVbord h dr d tg)

/-- ARGMAX over (score, index) pairs: the greatest score that is not NaN, then the lowest index (R228). -/
def argmax (xs : List (Nat × Nat)) : Option (Nat × Nat) :=
  xs.foldl (fun r x =>
    let p := f32Val false x.1
    if p.isNan then r
    else
      match r with
      | none => some x
      | some y =>
        let q := f32Val false y.1
        if Val.ltb q p || (Val.eqb q p && (decide (x.2 < y.2) || (x.2 == y.2 && decide (x.1 < y.1)))) then some x else r) none

/-- What VJOIN makes of the values of the active cells (R228). (Log entry 62: DEDUCED.) -/
def join (op : Nat) (xs : List (Nat × Nat)) : U64 :=
  let zs := xs.map (·.1)
  match op with
  | 0 => match argmax xs with | some x => u64 (x.1 * 2 ^ 32 + x.2) | none => 0xFF800000FFFFFFFF#64
  | 1 => u64 (zs.sum % 2 ^ 32)
  | 2 =>
    match zs with
    | [] => 0xFF800000#64
    | z :: zs => u64 (Fmt.f32.ofVal .rne 0 false (zs.foldl (fun r y => Val.minmax true r (f32Val false y)) (f32Val false z))).1
  | _ => u64 (zs.foldl (· ||| ·) 0)

/-- VJOIN (R228). -/
def engVjoin (h : Ex) (dr : BitVec 2) (d a : BitVec 5) : Engine :=
  { queue := 2, reads := fun _ => predReads h.p [a], writes := fun _ => [.s d],
    start := fun _ c e =>
      let on := (List.range 16).filter fun n => (c.cell n).moves h
      .done (c.landE e .q2 (c.now + 7) (.s d (join dr.toNat (on.map fun n => ((c.cell n).el .u32 a 0, (c.cell n).el .u32 a 1))))) }

/-- VJOIN (R228): its issue. -/
def execVjoin (h : Ex) (dr : BitVec 2) (d a : BitVec 5) (s : State) : Host.Outcome State Fault Refusal :=
  onCtx s fun _ c' => c'.command (.vjoin h dr d a) h.e h.start h.c (engVjoin h dr d a)

end Sys2Proof.Machine
end

