-- ==== Sys2Proof/Machine/Engine.lean ====
section
/-!
DEFINITION. The start of engine commands: presentation (R33, R35, R36), readiness (R37, R278), the early reads and the
residue check of the start cycle (R114, R283), and what comes of it.
-/

namespace Sys2Proof.Machine

/-- The engine command that an instruction is, if it is one. -/
def engineOf : Instr → Option Engine
  | .vadd h d a b ty => some (engVadd h d a b ty)
  | .vsub h d a b ty => some (engVsub h d a b ty)
  | .vmul h d a b ty => some (engVmul h d a b ty)
  | .vmulh h d a b ty => some (engVmulh h d a b ty)
  | .vmin h d a b ty => some (engVmin h d a b ty)
  | .vmax h d a b ty => some (engVmax h d a b ty)
  | .vabs h d a ty => some (engVabs h d a ty)
  | .vneg h d a ty => some (engVneg h d a ty)
  | .vadds h d a b ty => some (engVadds h d a b ty)
  | .vsubs h d a b ty => some (engVsubs h d a b ty)
  | .vavg h d a b ty => some (engVavg h d a b ty)
  | .vmad h d a b ty => some (engVmad h d a b ty)
  | .vdot4 h d a b ty => some (engVdot4 h d a b ty)
  | .vfadd h d a b ty rm => some (engVfadd h d a b ty rm)
  | .vfsub h d a b ty rm => some (engVfsub h d a b ty rm)
  | .vfmul h d a b ty rm => some (engVfmul h d a b ty rm)
  | .vfma h d a b ty rm => some (engVfma h d a b ty rm)
  | .vfmin h d a b ty => some (engVfmin h d a b ty)
  | .vfmax h d a b ty => some (engVfmax h d a b ty)
  | .vfabs h d a ty => some (engVfabs h d a ty)
  | .vfneg h d a ty => some (engVfneg h d a ty)
  | .vfscl h d a b ty rm => some (engVfscl h d a b ty rm)
  | .vfclass h d a ty => some (engVfclass h d a ty)
  | .vcvt h d a ts ty hp rm => some (engVcvt h d a ts ty hp rm)
  | .vpack h d a b ty => some (engVpack h d a b ty)
  | .vunpk h d a ty hp => some (engVunpk h d a ty hp)
  | .vqnt h d a b ty rm => some (engVqnt h d a b ty rm)
  | .vdqnt h d a b ty => some (engVdqnt h d a b ty)
  | .vand h d a b ty => some (engVand h d a b ty)
  | .vor h d a b ty => some (engVor h d a b ty)
  | .vxor h d a b ty => some (engVxor h d a b ty)
  | .vlop3 h d a b th tl => some (engVlop3 h d a b th tl)
  | .vshl h d a b ty => some (engVshl h d a b ty)
  | .vshr h d a b ty => some (engVshr h d a b ty)
  | .vsra h d a b ty => some (engVsra h d a b ty)
  | .vrot h d a b ty => some (engVrot h d a b ty)
  | .vfunl h d a b ty n => some (engVfunl h d a b ty n)
  | .vfunr h d a b ty n => some (engVfunr h d a b ty n)
  | .vpopc h d a ty => some (engVpopc h d a ty)
  | .vclz h d a ty => some (engVclz h d a ty)
  | .vcmp h d a b ty op => some (engVcmp h d a b ty op)
  | .vfcmp h d a b ty op => some (engVfcmp h d a b ty op)
  | .vsel h d a b ty => some (engVsel h d a b ty)
  | .vplog h d a b op => some (engVplog h d a b op)
  | .vvote h d a ty al => some (engVvote h d a ty al)
  | .vpcnt h d a ty => some (engVpcnt h d a ty)
  | .vperm h d a b ty => some (engVperm h d a b ty)
  | .vbcast h d a ty => some (engVbcast h d a ty)
  | .vlane h d a b ty => some (engVlane h d a b ty)
  | .vshuf h d a b ty op => some (engVshuf h d a b ty op)
  | .vred h d a ty op => some (engVred h d a ty op)
  | .vscan h d a ty op => some (engVscan h d a ty op)
  | .vidx h d a ty => some (engVidx h d a ty)
  | .vcell h d ty sl => some (engVcell h d ty sl)
  | .vld h d a i => some (engVld h d a i)
  | .vst h d a i => some (engVst h d a i)
  | .vlds h d a i k => some (engVlds h d a i k)
  | .vsts h d a i k => some (engVsts h d a i k)
  | .vldx h d a i k => some (engVldx h d a i k)
  | .vstx h d a i k => some (engVstx h d a i k)
  | .vldr h d m ll i lh => some (engVldr h d m ll i lh)
  | .vstr h d m ll lh => some (engVstr h d m ll lh)
  | .vaadd h d a b ty => some (engVaadd h d a b ty)
  | .vafadd h d a b ty => some (engVafadd h d a b ty)
  | .vamin h d a b ty => some (engVamin h d a b ty)
  | .vamax h d a b ty => some (engVamax h d a b ty)
  | .vaswap h d a b ty => some (engVaswap h d a b ty)
  | .vexp2 h d a ty => some (engVexp2 h d a ty)
  | .vlog2 h d a ty => some (engVlog2 h d a ty)
  | .vrcp h d a ty => some (engVrcp h d a ty)
  | .vrsq h d a ty => some (engVrsq h d a ty)
  | .vtanh h d a ty => some (engVtanh h d a ty)
  | .vdiv h d a b ty rm => some (engVdiv h d a b ty rm)
  | .vrnd h d a b ty w => some (engVrnd h d a b ty w)
  | .vgumb h d a b ty => some (engVgumb h d a b ty)
  | .vsamp h d a b ty => some (engVsamp h d a b ty)
  | .mot h cd d a b ep x y => some (engMot h cd d a b ep x y)
  | .vshift h dr d a eg tg => some (engVshift h dr d a eg tg)
  | .vxsend h d a tg => some (engVxsend h d a tg)
  | .vxrecv h dr d tg => some (engVxrecv h dr d tg)
  | .vbord h dr d tg => some (engVbord h dr d tg)
  | .vjoin h dr d a => some (engVjoin h dr d a)
  | .mma h t ra rb n m tr z pa pb => some (engMma h t ra rb n m tr z pa pb)
  | .mmaq h t ra rb n m tr z pa pb pz => some (engMmaq h t ra rb n m tr z pa pb pz)
  | .mmab h t ra rb n m tr z pa pb pz => some (engMmab h t ra rb n m tr z pa pb pz)
  | .mzero h t n => some (engMzero h t n)
  | .mtov h t d l ty => some (engMtov h t d l ty)
  | .mtot h t ra n m tr z => some (engMtot h t ra n m tr z)
  | .cfill h a qc ax => some (engCfill h a qc ax)
  | .cdrain h a qc ax => some (engCdrain h a qc ax)
  | .cpair h a qc ax => some (engCpair h a qc ax)
  | .cgath h a qc ax => some (engCgath h a qc ax)
  | .ccopy h a qc ax => some (engCcopy h a qc ax)
  | .cred h a qc ax => some (engCred h a qc ax)
  | _ => none

/-! Readiness (R37). -/

/-- Two values share a register, a predicate or an accumulator tile. -/
def Ref.meets (x y : Ref) : Bool :=
  match x, y with
  | .acc lo n, .acc lo' n' =>
    decide (0 < n) && decide (0 < n') && decide (lo / 1024 ≤ (lo' + n' - 1) / 1024) && decide (lo' / 1024 ≤ (lo + n - 1) / 1024)
  | x, y => x == y

/-- What a write writes, as a value. -/
def Write.ref : Write → Option Ref
  | .s r _ => some (.s r)
  | .b n _ => some (.b n)
  | .c n _ => some (.c n)
  | .v _ r _ _ => some (.v r)
  | .p _ r _ => some (.p r)
  | .acc _ lo xs => some (.acc lo xs.length)
  | .accZero _ lo n => some (.acc lo n)
  | .ring _ _ | .fillDone _ _ _ | .ringTo _ _ _ _ | .portEmpty _ _ | .checksum _ _ | .flagsOnly => none

/-- A register whose writes are discarded: s0, c0 and p0 (R18). -/
def Ref.fixed : Ref → Bool
  | .s r | .p r => r == 0#5
  | .c n => n == 0#3
  | _ => false

/-- Earlier work that has still to write a value: a landing, a queued command, a product under way, or a tower read whose
bytes are to reach a register. In trap context only the work of that context counts (R278). (Log entry 23: DEDUCED.) -/
def Ctx.awaited (c : Ctx) (ord : Nat) (r : Ref) : Bool :=
  let mine (trap : Bool) (o : Nat) : Bool := decide (o < ord) && (trap || !c.trap.tctx) && !r.fixed
  c.landings.any (fun l => mine l.trap l.ord && match l.write.ref with | some x => x.meets r | none => false) ||
    c.eng.q.toList.any (fun qs => qs.any fun e =>
      mine e.trap e.ord && match engineOf e.instr with | some g => (g.writes c).any (fun x => x.meets r) | none => false) ||
    c.flights.any (fun f => mine f.trap f.ord && match engineOf f.entry.instr with
      | some g => (g.writes c).any (fun x => x.meets r) | none => false) ||
    c.towerOps.any (fun o => mine o.trap o.ord && match o.act with
      | .read _ (.vreg x _ _ _) => (Ref.v x).meets r | _ => false)

/-- Every value a command reads is ready (R37). -/
def Ctx.ready (c : Ctx) (e : QEntry) (g : Engine) : Bool := (g.reads c).all fun r => !c.awaited e.ord r

/-! Presentation (R33). -/

/-- The head of a queue as the running context of execution sees it: a handler's commands are served ahead of the frozen
ones (R278). -/
def Ctx.headOf (c : Ctx) (q : Nat) : Option QEntry := (vget [] c.eng.q q).find? fun e => e.trap == c.trap.tctx

/-- A command whose start makes tower accesses, or hands over a column job: what adjoint mode applies to (R200, R247). -/
def QEntry.accesses (e : QEntry) : Bool :=
  match e.instr with
  | .vld _ _ _ _ | .vst _ _ _ _ | .vlds _ _ _ _ _ | .vsts _ _ _ _ _ | .vldx _ _ _ _ _ | .vstx _ _ _ _ _ | .vldr _ _ _ _ _ _
  | .vstr _ _ _ _ _ | .vaadd _ _ _ _ _ | .vafadd _ _ _ _ _ | .vamin _ _ _ _ _ | .vamax _ _ _ _ _ | .vaswap _ _ _ _ _
  | .mma _ _ _ _ _ _ _ _ _ _ | .mmaq _ _ _ _ _ _ _ _ _ _ _ | .mmab _ _ _ _ _ _ _ _ _ _ _ | .mtot _ _ _ _ _ _ _
  | .cfill _ _ _ _ | .cdrain _ _ _ _ | .cpair _ _ _ _ | .cgath _ _ _ _ | .ccopy _ _ _ _ | .cred _ _ _ _ => true
  | _ => false

/-- An access issued before an ADMODE has not started, and this one was issued after it: it does not start yet, whatever its queue
(R247). (Log entry 78: DEDUCED.) -/
def Ctx.fenced (c : Ctx) (e : QEntry) : Bool :=
  !e.trap && e.accesses && c.eng.q.toList.any fun qs => qs.any fun f => !f.trap && f.accesses && decide (f.gen < e.gen)

/-- The head of a queue, when it is presented: its engine is free, the cycle is later than that of its issue, for Q3 fewer than 8
jobs run, and no ADMODE keeps it back (R33, R229, R247, R278). -/
def Ctx.presented (c : Ctx) (q : Nat) : Option QEntry :=
  match c.headOf q with
  | some e =>
    let free := if c.trap.tctx then vget 0 c.eng.freeTrap q else vget 0 c.eng.free q
    if free ≤ c.now ∧ e.issued < c.now ∧ (q ≠ 3 ∨ c.jobs < 8) ∧ c.fenced e = false then some e else none
  | none => none

/-- A presented command that starts, or is late, in this cycle (R35, R36). -/
def Ctx.comes (c : Ctx) (q : Nat) : Option QEntry :=
  match c.presented q with
  | some e =>
    match e.due, engineOf e.instr with
    | some d, some _ => if d ≤ c.now then some e else none
    | none, some g => if c.ready e g then some e else none
    | _, none => none
  | none => none

/-! The start. -/

/-- A queue without one of its entries. -/
def Ctx.dequeue (c : Ctx) (q : Nat) (e : QEntry) : Ctx :=
  { c with eng := { c.eng with q := vset c.eng.q q ((vget [] c.eng.q q).filter fun x => x.ord != e.ord) } }

/-- The engine of a queue busy until a cycle of the running clock. -/
def Ctx.busy (c : Ctx) (q t : Nat) : Ctx :=
  if c.trap.tctx then { c with eng := { c.eng with freeTrap := vset c.eng.freeTrap q t, ownTrap := vset c.eng.ownTrap q t } }
  else { c with eng := { c.eng with free := vset c.eng.free q t } }

/-- A command has writes that are still due. -/
def Ctx.stillDue (c : Ctx) (ord : Nat) : Bool := (c.landings.any fun l => l.ord == ord) || c.flights.any fun f => f.ord == ord

/-- The context with a started command of Q1 among those whose writes are still due (R273, R406). -/
def Ctx.recall (c : Ctx) (q : Nat) (e : QEntry) : Ctx :=
  if q = 1 then { c with eng := { c.eng with recent := (e.ord, e.instr) :: c.eng.recent.filter fun x => c.stillDue x.1 } } else c

/-- TVAL of TIMING (R274): the cycle of presentation and the due cycle, each modulo 2^32. -/
def timingTval (now due : Nat) : U64 := BitVec.ofNat 64 (now % 2 ^ 32 * 2 ^ 32 + due % 2 ^ 32)

/-- The start of the entry e of queue q (R35): late (R36), an early read (R283), or its effect, unless a residue check
fails on it (R114). -/
def Ctx.startEntry (c : Ctx) (v : Env) (q : Nat) (e : QEntry) (g : Engine) : Ctx :=
  let late : Bool := match e.due with | some d => decide (d < c.now) | none => false
  if late then c.faultAt q causeTiming 0#8 (timingTval c.now (e.due.getD 0))
  else if g.rings.any c.lateRing then c
  else
    match c.early ((g.sees.getD g.reads) c) with
    | some t => c.faultAt q causeEarlyRead 0#8 t
    | none =>
      match g.start v c e with
      | .done c' =>
        match c.eng.residue.find? (fun r => r.1 == q) with
        | some r =>
          let t := u64 (r.2.1 % 16 + r.2.2 % 4 * 256)
          (({ c with eng := { c.eng with residue := c.eng.residue.filter fun x => x.1 != q } }).note 2 (some (r.2.1 % 16)) t).faultAt
            q causeResidue 0#8 t
        | none => ((c'.dequeue q e).busy q (c.now + g.occ)).recall q e
      | .fault code sub t => c.faultAt q code sub t
      | .spoilt c' code sub t => c'.faultAt q code sub t
      | .hold code => { c with time := { c.time with heldQ := c.time.heldQ ++ [(q, code)] } }

/-- QUEUE_ENTRY_START (R33 to R36): the head of queue q of panel p, in the cycle in which it starts or is late. Without
such a head nothing happens. -/
def execQueueEntryStart (p q : Nat) (s : State) : Host.Outcome State Fault Refusal :=
  .next (s.mapCtx p fun v c =>
    match c.comes q with
    | some e => match engineOf e.instr with | some g => c.startEntry v q e g | none => c
    | none => c)

/-- The queues whose heads start or are late in this cycle, in program order of the heads. -/
def insertHead (x : Nat × Nat) : List (Nat × Nat) → List (Nat × Nat)
  | [] => [x]
  | y :: ys => if x.1 < y.1 then x :: y :: ys else y :: insertHead x ys

/-- The queues that have a command to start, in the order in which the commands were issued. -/
def Ctx.starters (c : Ctx) : List Nat :=
  ((List.range 4).foldl (fun xs q => match c.comes q with | some e => insertHead (e.ord, q) xs | none => xs) []).map (·.2)

end Sys2Proof.Machine
end

