-- ==== Sys2Proof/Machine/Views.lean ====
section
/-!
DEFINITION. Global memory: the homes, the four views of the dies and the view of the host, and the log of writes that some
view has not applied (R80 to R93).

The log is in coherence order: a write stands behind every write that was performed before it. Its place there fixes its
place in the coherence order of each byte (R83). A write that every view has applied leaves the log for the memory.
-/

namespace Sys2Proof.Machine

/-- The view of the host; those of the dies are 0 to 3 (R86). -/
def hostView : Nat := 4
/-- All views. -/
def allViews : BitVec 5 := 0x1F#5

/-- Whether a write covers a byte. -/
def GWrite.covers (w : GWrite) (host : Bool) (a : Nat) : Bool :=
  w.onHost == host && decide (w.addr ≤ a) && decide (a < w.addr + w.data.length) && !w.holes.contains (a - w.addr)

/-- Whether a write shares a byte with n bytes from a. -/
def GWrite.touches (w : GWrite) (host : Bool) (a n : Nat) : Bool :=
  w.onHost == host && decide (w.addr < a + n) && decide (a < w.addr + w.data.length)

/-- A view has applied a write. -/
def GWrite.isIn (w : GWrite) (view : Nat) : Bool := w.views.getLsbD view

/-- The byte that the memory holds: every write in it has been applied everywhere. -/
def State.memByte (s : State) (host : Bool) (a : Nat) : Byte := Store.get (if host then s.hostMem else s.hbm) a

/-- The byte after those writes of a list, in order, that satisfy a test. -/
def byteAfter (p : GWrite → Bool) (host : Bool) (a : Nat) (x : Byte) : List GWrite → Byte
  | [] => x
  | w :: ws => byteAfter p host a (if w.covers host a && p w then w.data.getD (a - w.addr) 0#8 else x) ws

/-- What an agent reads of a byte (R87): the coherence-latest of its own writes and of those that its view has applied. -/
def State.readByte (s : State) (view : Nat) (me : Agent) (host : Bool) (a : Nat) : Byte :=
  byteAfter (fun w => w.isIn view || w.agent == me) host a (s.memByte host a) s.writes

/-- Bytes that an agent reads. -/
def State.readBytes (s : State) (view : Nat) (me : Agent) (host : Bool) (a n : Nat) : List Byte :=
  (List.range n).map fun k => s.readByte view me host (a + k)

/-- A number that an agent reads, least significant byte first. -/
def State.readNum (s : State) (view : Nat) (me : Agent) (host : Bool) (a n : Nat) : Nat := natOfBytes (s.readBytes view me host a n)

/-- Bytes at their home: the coherence-latest (R83, R92). -/
def State.homeNum (s : State) (host : Bool) (a n : Nat) : Nat :=
  natOfBytes ((List.range n).map fun k => byteAfter (fun _ => true) host (a + k) (s.memByte host (a + k)) s.writes)

/-- The coherence-latest writes, among those that some view has not applied, of n bytes from a. -/
def State.latestIds (s : State) (host : Bool) (a n : Nat) : List Nat :=
  (List.range n).filterMap fun k => ((s.writes.filter fun w => w.covers host (a + k)).getLast?).map (·.id)

/-- A line of HBM that holds an uncorrectable error is among n bytes from a. -/
def State.corrupt (s : State) (host : Bool) (a n : Nat) : Bool :=
  !host && s.badHbm.any fun l => decide (l * 64 < a + n) && decide (a < l * 64 + 64)

/-! Application of writes to views (R83, R86). -/

/-- The writes, of some that are earlier in the log, that a view must have applied before a write: those it needs, and those
to a common byte. -/
def GWrite.after (w : GWrite) (view : Nat) (earlier : List GWrite) : List Nat :=
  (earlier.filter fun x =>
    w.needs.any (fun n => n.1 == x.id && n.2.getLsbD view) || x.touches w.onHost w.addr w.data.length).map (·.id)

/-- The writes, of a log given newest first, that a view must have applied once it has applied the wanted ones. -/
def closure (view : Nat) : List GWrite → List Nat → List Nat
  | [], want => want
  | w :: ws, want => closure view ws (if want.contains w.id then want ++ w.after view ws else want)

/-- The log with some writes applied to a view. -/
def applyIds (view : Nat) (ids : List Nat) (ws : List GWrite) : List GWrite :=
  ws.map fun w => if ids.contains w.id then { w with views := w.views ||| BitVec.ofNat 5 (2 ^ view) } else w

/-- The log without the leading writes that every view has applied, and the memories that have taken them. -/
def retire : Bytes → Bytes → List GWrite → Bytes × Bytes × List GWrite
  | hbm, host, [] => (hbm, host, [])
  | hbm, host, w :: ws =>
    if w.views = allViews then
      if w.onHost then retire hbm (Store.setHoles host w.addr w.data w.holes 0) ws
      else retire (Store.setHoles hbm w.addr w.data w.holes 0) host ws
    else (hbm, host, w :: ws)

/-- The package with the log shortened. -/
def State.retireLog (s : State) : State :=
  let r := retire s.hbm s.hostMem s.writes
  { s with hbm := r.1, hostMem := r.2.1, writes := r.2.2 }

/-- The writes of a list before one. -/
def earlierThan (id : Nat) (ws : List GWrite) : List GWrite := ws.takeWhile fun w => w.id != id

/-- A view may apply a write now: it has applied everything that must come before. (Log entry 9: DEDUCED.) -/
def State.mayApply (s : State) (w : GWrite) (view : Nat) : Bool :=
  let es := earlierThan w.id s.writes
  (w.after view es).all fun id => es.all fun x => x.id != id || x.isIn view

/-- WRITE_APPLIED_TO_VIEW (R86): in causal order and in coherence order. -/
def execWriteAppliedToView (w view : Nat) (s : State) : Host.Outcome State Fault Refusal :=
  .next (match s.writes.find? (fun x => x.id == w) with
    | some x => if s.mayApply x view then ({ s with writes := applyIds view [w] s.writes }).retireLog else s
    | none => s)

/-- The package with some writes, and what must come before them, applied to some views (R86). -/
def State.settle (s : State) (views : BitVec 5) (ids : List Nat) : State :=
  let vs := (List.range 5).filter fun v => views.getLsbD v
  ({ s with writes := vs.foldl (fun l v => applyIds v (closure v l.reverse ids) l) s.writes }).retireLog

/-- Every view has applied every write: what a change of panel makes sure of. (Log entry 26: DEDUCED.) -/
def State.flush (s : State) : State := ({ s with writes := s.writes.map fun (w : GWrite) => { w with views := allViews } }).retireLog

/-! Performing a write. -/

/-- A write to be performed. -/
structure WriteReq where
  agent : Agent
  /-- the view it is applied to when it is performed -/
  view : Nat
  onHost : Bool := false
  addr : Nat
  data : List Byte
  holes : List Nat := []
  needs : List (Nat × BitVec 5) := []
  /-- a release: the views it is applied to at the same instant (R88) -/
  together : BitVec 5 := 0#5

/-- The views of a release's scope hold everything that comes before it: it may be performed (R86, R88). -/
def State.releasable (s : State) (r : WriteReq) : Bool :=
  (List.range 5).all fun v => !r.together.getLsbD v || s.writes.all fun x =>
    x.isIn v || !(r.needs.any (fun n => n.1 == x.id && n.2.getLsbD v) || x.touches r.onHost r.addr r.data.length)

/-- Perform a write: it takes the next place in coherence order and is applied to its own view, which first applies what must
come before, and with a release to every view of its scope (R86, R88). A write of a whole line leaves no corrupt line
behind. -/
def State.perform (s : State) (r : WriteReq) : State :=
  let id := s.fresh
  let w : GWrite := { id := id, agent := r.agent, born := s.gcyc, onHost := r.onHost, addr := r.addr, data := r.data, holes := r.holes,
                      views := 0#5, needs := r.needs, together := r.together }
  let log := s.writes ++ [w]
  let views := (List.range 5).filter fun v => v == r.view || r.together.getLsbD v
  let log := views.foldl (fun l v => applyIds v (closure v l.reverse [id]) l) log
  let clean : List Nat :=
    if r.onHost then s.badHbm
    else s.badHbm.filter fun l => !(decide (r.addr ≤ l * 64) && decide (l * 64 + 64 ≤ r.addr + r.data.length))
  ({ s with writes := log, fresh := id + 1, badHbm := clean }).retireLog

/-- The number that the next write performed will have. -/
def State.nextWrite (s : State) : Nat := s.fresh

/-- A write of the steward to HBM, as a release at system scope. -/
def State.stewardWrite (s : State) (a : Nat) (data : List Byte) : State :=
  s.perform { agent := .steward, view := 0, addr := a, data := data, together := allViews,
              needs := (s.writes.filter fun w => w.agent == .steward).map fun w => (w.id, allViews) }

/-- What the steward reads of HBM. -/
def State.stewardRead (s : State) (a n : Nat) : Nat := s.readNum 0 .steward false a n

/-- The bytes the steward reads of HBM. -/
def State.stewardBytes (s : State) (a n : Nat) : List Byte := s.readBytes 0 .steward false a n

/-- The package with a message for the outside world. -/
def State.emit (s : State) (o : Output) : State := { s with outputs := s.outputs ++ [o] }

end Sys2Proof.Machine
end

