-- ==== Sys2Proof/Machine/Translate.lean ====
section
/-!
DEFINITION. Address translation (R385 to R399): the walk of the page tables, the sheets' translation units, the notices of
pages that are not present, and invalidation.
-/

namespace Sys2Proof.Machine

/-! The walk (R387 to R391). -/

/-- How a walk ends. -/
inductive WalkEnd where
  /-- a leaf: the page's first virtual address, its size, its physical address, and the leaf's bits -/
  | leaf (va size pa : Nat) (bits : U64)
  | absent (level : Nat)
  /-- an invalid entry, its level and physical address (R391) -/
  | invalid (level addr : Nat)
  deriving DecidableEq, Repr

/-- A field of a table entry. -/
def fieldOf (x : U64) (lo n : Nat) : Nat := x.toNat / 2 ^ lo % 2 ^ n

/-- An entry that names the next table is invalid (R388). -/
def tableBad (x : U64) : Bool := fieldOf x 56 8 != 0 || decide (2 ^ 39 ≤ fieldOf x 13 43 * 8192) || fieldOf x 2 11 != 0

/-- A leaf is invalid at a level (R389, R390). -/
def leafBad (x : U64) (level : Nat) : Bool :=
  fieldOf x 56 8 != 0 || fieldOf x 12 4 != 0 || decide (2 ≤ fieldOf x 4 2) || bit x 1 ||
    (fieldOf x 4 2 == 0 && decide (2 ^ 39 ≤ fieldOf x 16 40 * 65536)) ||
    (if level = 2 then !bit x 9 || bit x 8 else if level = 3 then bit x 9 else true)

/-- The size of the page of a leaf (R390). -/
def leafSize (x : U64) (level : Nat) : Nat := if level = 2 then 2 ^ 30 else if bit x 8 then 2 ^ 21 else 2 ^ 16

/-- The walk from a level down: read gives the entry at a physical address, n levels remain (R387).
(Log entry 25: DEDUCED.) -/
def walkFrom (read : Nat → U64) (va : Nat) : Nat → Nat → WalkEnd
  | 0, _ => .absent 3
  | n + 1, table =>
    let level := 3 - n
    let addr := table + 8 * (va / 2 ^ (16 + 10 * n) % 1024)
    let x := read addr
    if !bit x 0 then .absent level
    else if bit x 1 && decide (level < 3) then
      if tableBad x then .invalid level addr else walkFrom read va n (fieldOf x 13 43 * 8192)
    else if leafBad x level then .invalid level addr
    else
      let size := leafSize x level
      .leaf (va / size * size) size (fieldOf x 16 40 * 65536 / size * size) x

/-- The root of the main table or of the span table (R385). -/
def rootOf (span : Bool) : Nat := if span then 0x4000 else 0

/-- A walk by the unit of a sheet, which reads through its die's view. -/
def State.walk (s : State) (sheet : Nat) (span : Bool) (va : Nat) : WalkEnd :=
  walkFrom (fun a => BitVec.ofNat 64 (s.readNum (sheet / 2) .steward false a 8)) va 4 (rootOf span)

/-! Translation units (R393). -/

/-- A unit with an entry more: one may be evicted, and one is when the unit is full. (Log entry 8: DESIGN CHOICE.) -/
def tlbInsert (tlb : List TlbEntry) (e : TlbEntry) (k : Nat) : List TlbEntry :=
  let kept := tlb.eraseIdx (Config.evict k)
  (if kept.length < 16384 then kept else kept.eraseIdx (Config.evict k % 16384)) ++ [e]

/-- What a translation gives. -/
inductive Trans where
  | leaf (pa : Nat) (bits : U64)
  | absent (level : Nat)
  | invalid
  deriving DecidableEq, Repr

/-- The steward records an invalid entry that a walk has read: its level and physical address (R391, R411), which stand together in the entry of
the event log. (Log entry 111: DESIGN CHOICE.) -/
def State.badEntry (s : State) (sheet level addr : Nat) : State :=
  s.noteError { cls := 8, scope := 1, sheet := sheet, detail := u64 (level * 2 ^ 56 + addr) }

/-- Translate an address in the unit of a sheet; a walk that meets an invalid entry is recorded (R391, R411). -/
def State.translate (s : State) (sheet : Nat) (span : Bool) (va : Nat) : Trans × State :=
  let x := s.sheet sheet
  match tlbFind x.tlb span va with
  | some t => (.leaf (t.pa + (va - t.va)) t.leaf, s)
  | none =>
    match s.walk sheet span va with
    | .leaf base size pa bits =>
      (.leaf (pa + (va - base)) bits,
        { (s.putSheet sheet { x with tlb := tlbInsert x.tlb ⟨span, base, size, pa, bits⟩ s.fresh }) with fresh := s.fresh + 1 })
    | .absent level => (.absent level, s)
    | .invalid level addr =>
      (.invalid, s.badEntry sheet level addr)

/-! Notices (R396, R398). -/

/-- The physical address of the notice ring's entry of notice k. -/
def noticeAddr (k : Nat) : Nat := 0x2100 + 32 * (k % 64)

/-- The bytes of a notice. -/
def Notice.bytes (n : Notice) : List Byte :=
  bytesOfNat 8 n.va.toNat ++
    bytesOfNat 8 (n.access + n.level * 2 ^ 8 + n.sheet * 2 ^ 16 + n.panel % 256 * 2 ^ 24 + n.number % 2 ^ 32 * 2 ^ 32) ++
    bytesOfNat 8 0 ++ bytesOfNat 8 0

/-- Notice k may take its place in the ring: the notice 64 before it has been answered. -/
def State.noticeRoom (s : State) (k : Nat) : Bool := !s.fleet.notices.any fun n => n.number + 64 ≤ k

/-- Post the oldest notices for which the ring has room: the notice, then NTAIL as a release, then vector 64. -/
def State.postNotices (s : State) : List Notice → State
  | [] => s
  | n :: ns =>
    let s :=
      if !n.posted && s.noticeRoom n.number then
        let s := s.stewardWrite (noticeAddr n.number) n.bytes
        let s := s.stewardWrite 0x2028 (bytesOfNat 8 (n.number + 1))
        let put (m : Notice) : Notice :=
          if m.number = n.number then { m with posted := true, deadline := s.gcyc + s.settings.faultlim } else m
        ({ s with fleet := { s.fleet with ntail := n.number + 1, notices := s.fleet.notices.map put } }).emit (.msix 64)
      else s
    s.postNotices ns

/-- The number of the next notice: no number is used twice (R398). -/
def State.nextNotice (s : State) : Nat :=
  match s.fleet.notices.getLast? with
  | some n => Nat.max (n.number + 1) s.fleet.ntail
  | none => s.fleet.ntail

/-- Ask the steward for a page: a notice still pending for the page and the kind of access is shared; with 1,024 waiting there
is no room (R396, R398). The number of the notice, if one serves. -/
def State.askPage (s : State) (va : U64) (access panel sheet level : Nat) : Option Nat × State :=
  match s.fleet.notices.find? (fun n => !n.expired && n.access == access && n.va.toNat / 65536 == va.toNat / 65536) with
  | some n => (some n.number, s)
  | none =>
    if 1024 ≤ (s.fleet.notices.filter fun n => !n.posted).length then (none, s)
    else
      let k := s.nextNotice
      let n : Notice := { number := k, va := va, access := access, panel := panel, sheet := sheet, level := level,
                          deadline := 0, posted := false }
      let s := { s with fleet := { s.fleet with notices := s.fleet.notices ++ [n] } }
      (some k, s.postNotices [n])

/-- The kind of an access as a notice names it (R398); a LAUNCH that has read its packet writes its queue's entry. -/
def GAccess.noticeCode (a : GAccess) : Nat :=
  match a.kind with
  | .store => 1
  | .atomic _ => 2
  | .launch _ => if a.data = 1#64 then 1 else 0
  | _ => 0

/-! Translation of the accesses of a sequencer (R151, R152, R397). -/

/-- The access with the outcome of a walk: the leaf decides (R392). -/
def GAccess.meetLeaf (a : GAccess) (pa : Nat) (leaf : U64) : GAccess :=
  if leafRefuses leaf a.kind then { a with walk := .refused causeProtection }
  else { a with walk := .done pa (leafHost leaf) (leafSysat leaf) }

/-- Replace an access of a panel. -/
def State.putAccess (s : State) (p : Nat) (a : GAccess) : State :=
  s.mapCtx p fun _ c => { c with glob := { c.glob with queue := c.glob.queue.map fun b => if b.id = a.id then a else b } }

/-- The access of panel p with number k. -/
def State.access? (s : State) (p k : Nat) : Option GAccess :=
  match s.ctx? p with
  | some c => c.glob.queue.find? fun a => a.id == k
  | none => none

/-- The shadow scalar context may serve a miss of the context that runs: the panel holds under code 0x03, and no earlier access of the
panel waits for its walk (R397). (Log entry 89: DEDUCED.) -/
def State.mayServe (s : State) (p : Nat) (a : GAccess) : Bool :=
  match s.ctx? p with
  | some c =>
    bit c.time.holding 3 && a.trap == c.trap.tctx && !c.glob.queue.any fun b =>
      decide (b.ord < a.ord) && b.trap == c.trap.tctx && !c.isPending b &&
        match b.walk with | .walking | .notice _ | .posting => true | _ => false
  | none => false

/-- The walk of an access: a leaf, an invalid entry, or a page that the steward is asked for; after the steward's reply a
page that is still absent is refused (R396, R397). -/
def State.walkAccess (s : State) (p : Nat) (a : GAccess) (again : Bool) : State :=
  let r := s.translate (sheetOf p) false a.va.toNat
  match r.1 with
  | .leaf pa leaf => r.2.putAccess p (a.meetLeaf pa leaf)
  | .invalid => r.2.putAccess p { a with walk := .refused causeTranslation }
  | .absent level =>
    if again then r.2.putAccess p { a with walk := .refused causeTranslation }
    else if !r.2.mayServe p a then r.2.putAccess p { a with walk := .posting }
    else
      let q := r.2.askPage a.va a.noticeCode (p % 32) (sheetOf p) level
      q.2.putAccess p { a with walk := match q.1 with | some k => .notice k | none => .posting }

/-- PAGE_WALK (R387): the walk of access k of panel p. -/
def execPageWalk (p k : Nat) (s : State) : Host.Outcome State Fault Refusal :=
  .next (match s.access? p k with
    | some a => match a.walk with | .walking | .posting => s.walkAccess p a false | _ => s
    | none => s)

/-- The accesses of all panels that wait for a notice: panel and access. -/
def State.waiters (s : State) (k : Nat) : List (Nat × GAccess) :=
  s.ctxs.flatMap fun c => (c.glob.queue.filter fun a => a.walk == .notice k).map fun a => (c.id.panel, a)

/-- The jobs that wait for a notice, told what came of it: true to walk again, false for a refusal. -/
def State.answerJobs (s : State) (k : Nat) (walk : Bool) : State :=
  let put (j : Job) : Job :=
    if j.walk = .notice k then { j with walk := if walk then .walking else .refused causeTranslation, again := walk } else j
  { s with sheets := vmap (fun _ (x : Sheet) => { x with jobs := x.jobs.map put }) s.sheets }

/-- NOTICE_REPLY (R396, R398): the driver has written a nonzero REPLY to notice k; the steward walks once more, or refuses,
and the ring's entry is free again. -/
def execNoticeReply (k : Nat) (s : State) : Host.Outcome State Fault Refusal :=
  .next (match s.fleet.notices.find? (fun n => n.number == k && n.posted) with
    | none => s
    | some n =>
      let reply := s.stewardRead (noticeAddr k + 24) 8
      if reply = 0 then s
      else
        let s := { s with fleet := { s.fleet with notices := s.fleet.notices.filter fun m => m.number != k } }
        let s :=
          if n.expired then s
          else
            let s := (s.waiters k).foldl (fun s x =>
              if reply = 1 then s.walkAccess x.1 x.2 true
              else s.putAccess x.1 { x.2 with walk := .refused causeTranslation }) s
            s.answerJobs k (reply == 1)
        s.postNotices s.fleet.notices)

/-- FAULTLIM_EXPIRY (R396): no reply came to notice k in time. -/
def execFaultlimExpiry (k : Nat) (s : State) : Host.Outcome State Fault Refusal :=
  .next (match s.fleet.notices.find? (fun n => n.number == k && n.posted && !n.expired) with
    | none => s
    | some n =>
      if s.gcyc < n.deadline then s
      else
        let put (m : Notice) : Notice := if m.number = k then { m with expired := true } else m
        let s := { s with fleet := { s.fleet with notices := s.fleet.notices.map put } }
        let s := (s.waiters k).foldl (fun s x => s.putAccess x.1 { x.2 with walk := .refused causeTranslation }) s
        s.answerJobs k false)

/-- A TLB entry meets an invalidation: all of a table, or a range of it. -/
def TlbEntry.dropped (t : TlbEntry) (span all : Bool) (start len : Nat) : Bool :=
  t.span == span && (all || (decide (t.va < start + len) && decide (start < t.va + t.size)))

end Sys2Proof.Machine
end

