-- ==== Sys2Proof/Machine/GlobalMem.lean ====
section
/-!
DEFINITION. The sequencer's accesses to global memory and to flags, performed by the memory system: their order (R84,
R85), their values and effects (R86 to R92), and the return of data (R153, R267, R269).
-/

namespace Sys2Proof.Machine

/-! Order (R84, R85). -/

/-- A kind of access that loads, for fences: atomics both load and store (R85). -/
def GKind.loads : GKind → Bool
  | .load _ | .atomic _ | .rcfg _ | .launch _ | .image => true
  | _ => false

/-- A kind of access to the flag file. -/
def GKind.flag? : GKind → Option Nat
  | .finc f | .fset f | .fread f | .fwait f => some f
  | _ => none

/-- Two ranges of addresses share one. -/
def spansMeet (a n b m : Nat) : Bool := decide (a < b + m) && decide (b < a + n)

/-- Two accesses may touch a common byte, or are to one flag. Where a walk has not found the page, the access may touch any byte
(R84). -/
def GAccess.meets (a b : GAccess) : Bool :=
  match a.kind.flag?, b.kind.flag? with
  | some f, some k => f == k
  | none, none =>
    a.kind.memory && b.kind.memory &&
      match a.walk, b.walk with
      | .done pa h _, .done pb h' _ => h == h' && spansMeet pa a.width pb b.width
      | _, _ => true
  | _, _ => false

/-- A fence orders an access at place ord in program order, which loads or stores as given, before a later one (R85). -/
def FenceMark.orders (f : FenceMark) (ord : Nat) (loads stores : Bool) (b : GAccess) : Bool :=
  decide (ord < f.ord) && decide (f.ord < b.ord) &&
    ((loads && b.kind.loads && bit f.kinds 0) || (loads && b.kind.writes && bit f.kinds 1) ||
      (stores && b.kind.writes && bit f.kinds 2) || (stores && b.kind.loads && bit f.kinds 3))

/-- An earlier access that must be performed first (R84); stores are performed in program order (R154).
(Log entry 79: DEDUCED.) -/
def GAccess.before (a b : GAccess) (fences : List FenceMark) : Bool :=
  decide (a.ord < b.ord) && (a.meets b || a.acquire || b.release || (a.kind == .store && b.kind == .store) ||
    fences.any fun f => f.orders a.ord a.kind.loads a.kind.writes b)

/-- Nothing that must come first is still to be performed. -/
def Ctx.unblocked (c : Ctx) (b : GAccess) : Bool :=
  !c.glob.queue.any fun a => !a.performed && !c.isPending a && a.before b c.glob.fences

/-! Causal precedence (R86). -/

/-- The views in which the writes of an earlier access are bound to precede a write b, for what orders the two. -/
def Past.binds (q : Past) (die : Nat) (b : GAccess) (host : Bool) (addr : Nat) (fences : List FenceMark) : BitVec 5 :=
  let fence (f : FenceMark) : BitVec 5 := if f.orders q.ord q.loads q.stores b then scopeViews die f.scope else 0#5
  (if q.onHost == host && spansMeet q.addr q.width addr b.width && b.kind.memory then allViews else 0#5) |||
    (if q.acquire then scopeViews die q.scope else 0#5) ||| (if b.release then scopeViews die b.scope else 0#5) |||
    fences.foldl (fun m f => m ||| fence f) 0#5

/-- The writes that causally precede a write of the context, with the views each precedence binds. -/
def Ctx.needs (c : Ctx) (b : GAccess) (host : Bool) (addr : Nat) : List (Nat × BitVec 5) :=
  c.glob.past.flatMap fun q =>
    let m := if q.ord < b.ord ∨ q.ord = b.ord then q.binds (dieOf c.id.panel) b host addr c.glob.fences else 0#5
    if m = 0#5 then [] else q.writes.map fun w => (w, m)

/-- The writes that a read of some bytes returns, of those still in the log. -/
def State.returnedIds (s : State) (view : Nat) (me : Agent) (host : Bool) (a n : Nat) : List Nat :=
  (List.range n).filterMap fun k =>
    ((s.writes.filter fun w => w.covers host (a + k) && (w.isIn view || w.agent == me)).getLast?).map (·.id)

/-- The context's past with an access more, and without what every view has applied. -/
def Ctx.remember (c : Ctx) (log : List GWrite) (q : Past) : Ctx :=
  let live (p : Past) : Bool := p.writes.any fun i => log.any fun w => w.id == i
  { c with glob := { c.glob with past := (c.glob.past ++ [q]).filter live } }

/-- The context without an access. -/
def Ctx.dropAccess (c : Ctx) (a : GAccess) : Ctx :=
  { c with glob := { c.glob with queue := c.glob.queue.filter fun b => b.id != a.id } }

/-- The context with an access changed. -/
def Ctx.setAccess (c : Ctx) (a : GAccess) : Ctx :=
  { c with glob := { c.glob with queue := c.glob.queue.map fun b => if b.id = a.id then a else b } }

/-- The result of an access, due when the access is due; one that comes later is written before the next packet issues
(R40, R424). -/
def Ctx.giveResult (c : Ctx) (a : GAccess) (x : U64) : Ctx :=
  match a.dest with
  | some d => { c with landings := c.landings ++ [⟨a.ord, .seq, a.due, a.trap, .s d x, .zero⟩] }
  | none => c

/-! The sheet cache, which serves the scalar loads of a sheet's panels (R9, R10). -/

/-- 32 MiB in lines of 64 bytes. -/
def cacheLines : Nat := 524288

/-- A scalar load through the sheet cache. -/
def GKind.cached : GKind → Bool
  | .load _ | .rcfg _ | .image | .launch _ => true
  | _ => false

/-- The line of a translated access is in the sheet cache. -/
def State.cacheHit (s : State) (sheet : Nat) (a : GAccess) : Bool :=
  match a.walk with
  | .done addr host _ => a.kind.cached && (s.sheet sheet).lines.contains (host, addr / 64)
  | _ => false

/-- A line comes into the sheet cache; one line may leave it, and one does when it is full. (Log entry 95: DESIGN CHOICE.) -/
def State.cacheLine (s : State) (sheet : Nat) (host : Bool) (addr : Nat) : State :=
  let x := s.sheet sheet
  let k := (host, addr / 64)
  if x.lines.contains k then s
  else
    let kept := x.lines.eraseIdx (Config.evict s.fresh)
    let room := if kept.length < cacheLines then kept else kept.eraseIdx (Config.evict s.fresh % cacheLines)
    { (s.putSheet sheet { x with lines := room ++ [k] }) with fresh := s.fresh + 1 }

/-- The memory system has the data of an access at hand: on a hit at once, and otherwise after its delay (R40, R153). -/
def State.atHand (s : State) (c : Ctx) (a : GAccess) : Bool := decide (a.ready ≤ s.gcyc) || s.cacheHit (sheetOf c.id.panel) a

/-! Performing. -/

/-- A write of the context. -/
def Ctx.writeReq (c : Ctx) (a : GAccess) (host : Bool) (addr : Nat) (data : List Byte) : WriteReq :=
  { agent := c.agent, view := dieOf c.id.panel, onHost := host, addr := addr, data := data, needs := c.needs a host addr,
    together := if a.release then scopeViews (dieOf c.id.panel) a.scope else 0#5 }

/-- The past entry of an access: the writes it made or returned. -/
def GAccess.asPast (a : GAccess) (writes : List Nat) (host : Bool) (addr : Nat) : Past :=
  { ord := a.ord, loads := a.kind.loads, stores := a.kind.writes, writes := writes, acquire := a.acquire, scope := a.scope, onHost := host, addr := addr, width := a.width }

/-- A load is performed (R87): its value, or none when the data is corrupt (R152). -/
def State.performLoad (s : State) (c : Ctx) (a : GAccess) (host : Bool) (addr : Nat) (signed : Bool) : State :=
  let v := dieOf c.id.panel
  if s.corrupt host addr a.width then s.putCtx (c.setAccess { a with performed := true })
  else
    let s := s.cacheLine (sheetOf c.id.panel) host addr
    let x := loadValue a.width signed (s.readNum v c.agent host addr a.width)
    let c := c.remember s.writes (a.asPast (s.returnedIds v c.agent host addr a.width) host addr)
    match a.kind with
    | .rcfg _ => s.putCtx (c.setAccess { a with performed := true, value := some x })
    | _ => s.putCtx ((c.dropAccess a).giveResult a x)

/-- A store is performed (R86, R88); a release waits for its scope's views. -/
def State.performStore (s : State) (c : Ctx) (a : GAccess) (host : Bool) (addr : Nat) : State :=
  let r := c.writeReq a host addr (bytesOfNat a.width a.data.toNat)
  if !s.releasable r then s
  else
    let id := s.nextWrite
    let s := s.perform r
    s.putCtx ((c.dropAccess a).remember s.writes (a.asPast [id] host addr))

/-- An atomic is performed (R92, R155): between its read and its write nothing enters the coherence order of its bytes.
(Log entry 27: DEDUCED.) -/
def State.performAtomic (s : State) (c : Ctx) (a : GAccess) (op : Nat) (host : Bool) (addr : Nat) : State :=
  if s.corrupt host addr a.width then s.putCtx (c.setAccess { a with performed := true })
  else
    let old := s.homeNum host addr a.width
    let m := 256 ^ a.width
    let ids := s.latestIds host addr a.width
    match atomicNew op (8 * a.width) old (a.data.toNat % m) (a.expect.toNat % m) with
    | none =>
      -- what it has read is in its view from now on (R83)
      let s := s.settle (BitVec.ofNat 5 (2 ^ dieOf c.id.panel)) ids
      let c := c.remember s.writes (a.asPast ids host addr)
      s.putCtx ((c.dropAccess a).giveResult a (BitVec.ofNat 64 old))
    | some x =>
      let r := c.writeReq a host addr (bytesOfNat a.width x)
      if !s.releasable r then s
      else
        let id := s.nextWrite
        let s := s.perform r
        let c := c.remember s.writes (a.asPast (ids ++ [id]) host addr)
        s.putCtx ((c.dropAccess a).giveResult a (BitVec.ofNat 64 old))

/-- The earlier writes of the context that a release at its scope must find in the scope's views are there. -/
def State.flagReady (s : State) (c : Ctx) (a : GAccess) : Bool :=
  !a.release || s.releasable { agent := c.agent, view := dieOf c.id.panel, addr := 0, data := [], needs := c.needs a false 0,
                               together := scopeViews (dieOf c.id.panel) a.scope }

/-- The wait on a flag that the context has in progress. -/
def Ctx.flagWait? (c : Ctx) : Option GAccess := c.glob.queue.findRev? fun a => a.isWait && a.trap == c.trap.tctx

/-- The context's own operations on a flag up to a wait on it have all reached the flag's home; a BAR's increment is one (R73, R267). -/
def Ctx.flagSettled (c : Ctx) (w : GAccess) : Bool :=
  !c.glob.queue.any fun a => !a.performed && !a.isWait && decide (a.ord ≤ w.ord) && a.kind.flag? == w.kind.flag?

/-- The condition of a wait on a flag is true at the flag's home, where the wait is performed after what must come before it (R73, R74,
R84, R267). (Log entry 56: DEDUCED.) -/
def State.flagReached (s : State) (c : Ctx) (w : GAccess) : Bool :=
  c.unblocked w && c.flagSettled w &&
    match w.kind with
    | .fwait f => !(s.flag c f - w.data.extractLsb' 0 32).msb
    | _ => false

/-- A flag of a context's partition replaced (R72). -/
def State.setFlag (s : State) (c : Ctx) (f : Nat) (x : U32) : State :=
  let h := s.sheet c.flagHome
  s.putSheet c.flagHome { h with flags := Store.set h.flags (c.flagFirst + f) x }

/-- 100 ms in wall cycles. -/
def tenthSecond : Nat := 105000000

/-- A link that has stayed down for 100 ms (R374). -/
def Link.dead (k : Link) (g : Nat) : Bool := !k.up && decide (k.since + tenthSecond ≤ g)

/-- Span links are in use: feature 4 is in force, and boot has not left them down (R363, R423). -/
def State.spanOn (s : State) : Bool := bit s.bar0.feats 4 && !s.boot.noSpan

/-- A flag operation reaches its home (R73, R267). A remote increment waits for a link that is down; it is dropped where no route
is, or with a link that stays down for 100 ms (R268). (Log entry 91: DESIGN CHOICE.) -/
def State.performFlag (s : State) (c : Ctx) (a : GAccess) : State :=
  if !s.flagReady c a then s
  else
    let x : U32 := a.data.extractLsb' 0 32
    match a.kind with
    | .finc f => (s.setFlag c f (s.flag c f + x)).putCtx (c.dropAccess a)
    | .fset f => (s.setFlag c f x).putCtx (c.dropAccess a)
    | .fread f => s.putCtx ((c.dropAccess a).giveResult a ((s.flag c f).setWidth 64))
    | .remoteFinc f target =>
      let wait := s
      let s := s.putCtx (c.dropAccess a)
      let pkg := (target.extractLsb' 20 12).toNat
      let grant := (target.extractLsb' 4 16).toNat
      match s.spanTable with
      | none => s
      | some t =>
        if pkg = t.self then { s with agenda := .ev (.remoteFincArrival grant f x) :: s.agenda }
        else
          match t.route[pkg]? with
          | some l =>
            let m := SpanMsg.finc pkg grant f x
            if !decide (l < 18) || !s.spanOn || (vget {} s.links l).dead s.gcyc then s
            else if (vget {} s.links l).up then ({ s with remote := s.remote ++ [m] }).emit (.span m)
            else wait
          | none => s
    | _ => s

/-! Launches (R269, R358, R359). -/

/-- QCTL's fields. -/
def HostQueue.enabled (q : HostQueue) : Bool := bit q.ctl 0
def HostQueue.irqEn (q : HostQueue) : Bool := bit q.ctl 1
def HostQueue.deviceFed (q : HostQueue) : Bool := bit q.ctl 2
/-- The number of slots of a queue. -/
def HostQueue.size (q : HostQueue) : Nat := 2 ^ ((q.ctl.extractLsb' 4 4).toNat + 4)
/-- The virtual address of the slot of count k (R358). -/
def HostQueue.slotAddr (q : HostQueue) (k : U32) : Nat := q.base.toNat + 64 * (k.toNat % q.size)
/-- The queue with its reader awake, when there is something to read (R359, R360). -/
def HostQueue.wake (q : HostQueue) (g : Nat) : HostQueue :=
  match q.reader with
  | .asleep => if q.head = q.tail then q else { q with reader := .reading 0 g }
  | .reading _ _ => q

/-- The package with a queue replaced. -/
def State.putQueue (s : State) (k : Nat) (q : HostQueue) : State := { s with queues := vset s.queues k q }
/-- A queue of the package. -/
def State.queue (s : State) (k : Nat) : HostQueue := vget {} s.queues k

/-- The packet that a LAUNCH enqueues: its sequence field names its entry. -/
def withSeq (packet : List Byte) (k : U32) : List Byte := bytesOfNat 2 k.toNat ++ packet.drop 2

/-- The target write of a LAUNCH to the entry at physical address addr, a release at package scope: the entry, the new tail, and
the status (R269). -/
def State.enqueueLaunch (s : State) (c : Ctx) (a : GAccess) (q : Nat) (packet : List Byte) (host : Bool) (addr : Nat) : State :=
  let h := s.queue q
  let r := { c.writeReq a host addr (withSeq packet h.tail) with together := 0x0F#5 }
  if !s.releasable r then s
  else
    let id := s.nextWrite
    let s := s.perform r
    let c := (c.dropAccess a).remember s.writes (a.asPast [id] host addr)
    let s := s.putQueue q (({ h with tail := h.tail + 1#32, launchers := h.launchers ++ [(h.tail, c.id.taskId)] }).wake s.gcyc)
    s.putCtx (c.giveResult a 0#64)

/-- A LAUNCH whose packet stands at physical address addr: its entry's page decides (R269, R270, R392). A translation of that page that
is still to come is that of the access; the packet's virtual address is kept beside it. (Log entry 18: DESIGN CHOICE.) -/
def State.launchFrom (s : State) (c : Ctx) (a : GAccess) (q : Nat) (host : Bool) (addr : Nat) : State :=
  let place := (s.queue q).slotAddr (s.queue q).tail
  if c.committed then s.putCtx (c.setAccess { a with va := u64 place, walk := .refused causeProtection })
  else if s.corrupt host addr 64 then s.putCtx (c.setAccess { a with performed := true })
  else
    let s := s.cacheLine (sheetOf c.id.panel) host addr
    let packet := s.readBytes (dieOf c.id.panel) c.agent host addr 64
    let kept := { a with va := u64 place, data := 1#64, expect := if a.data = 1#64 then a.expect else a.va }
    let r := s.translate (sheetOf c.id.panel) false place
    match r.1 with
    | .leaf p leaf =>
      if !leafWritable leaf then r.2.putCtx (c.setAccess { kept with walk := .refused causeProtection })
      else r.2.enqueueLaunch c a q packet (leafHost leaf) p
    | .invalid => r.2.putCtx (c.setAccess { kept with walk := .refused causeTranslation })
    | .absent _ => r.2.putCtx (c.setAccess { kept with walk := .posting })

/-- A LAUNCH is performed: the queue's state decides (R269). One that has waited for its entry's page finds its packet anew: no
translation outlives an invalidation in it (R395). -/
def State.performLaunch (s : State) (c : Ctx) (a : GAccess) (q : Nat) (host : Bool) (addr : Nat) : State :=
  let h := s.queue q
  let done (n : Nat) : State := s.putCtx ((c.dropAccess a).giveResult a (u64 n))
  if !(h.enabled && h.deviceFed) then done 2
  else if h.size ≤ (h.tail - h.head).toNat then done 1
  else if a.data ≠ 1#64 then s.launchFrom c a q host addr
  else
    let r := s.translate (sheetOf c.id.panel) false a.expect.toNat
    match r.1 with
    | .leaf p leaf => r.2.launchFrom c a q (leafHost leaf) p
    | _ => r.2.putCtx (c.setAccess { a with va := a.expect, data := 0#64, walk := .walking })

/-! Motif images (R258). -/

/-- The context without what the load under way has still to read: a fetch that cannot be completed fails it (R258). -/
def Ctx.failLoad (c : Ctx) (l : Loading) : Ctx :=
  { c with
    motif := { c.motif with load := some { l with failed := true } }
    glob := { c.glob with queue := c.glob.queue.filter fun a => !(a.kind == .image && a.ord == l.ord) } }

/-- A doubleword of the motif image that is loading has been read, or cannot be; after the two of the header the units' are asked for
(R341). -/
def Ctx.gotImage (c : Ctx) (v : Env) (a : GAccess) (x : Option U64) : Ctx :=
  let c := c.dropAccess a
  match c.motif.load with
  | none => c
  | some l =>
    if l.ord ≠ a.ord then c
    else
      match x with
      | none => c.failLoad l
      | some y =>
        let l := { l with got := l.got ++ [(a.expect.toNat, y)] }
        let units : Nat := ((l.got.find? fun y => y.1 == 0).map fun y => y.2.toNat / 2 ^ 18 % 64).getD 0
        let more : Bool := l.asked = 2 && decide (l.got.length = 2) && decide (1 ≤ units) && decide (units ≤ 48)
        let l2 := if more then { l with asked := 2 + 2 * units } else l
        let c := { c with motif := { c.motif with load := some l2 } }
        if more then (List.range (2 * units)).foldl (fun c k => c.imageRead v l (2 + k)) c else c

/-- SCALAR_DATA_RETURN (R153, R267): access k of panel p is performed, once its translation is done and what must come before
it has been performed; its data returns. -/
def execScalarDataReturn (p k : Nat) (s : State) : Host.Outcome State Fault Refusal :=
  .next (match s.ctx? p, s.access? p k with
    | some c, some a =>
      if a.performed || !s.atHand c a || c.imageWatched a then s
      else
        match a.walk with
        | .done addr host _ =>
          if !c.unblocked a then s
          else
            match a.kind with
            | .load signed => s.performLoad c a host addr signed
            | .rcfg _ => s.performLoad c a host addr false
            | .store => s.performStore c a host addr
            | .atomic op => s.performAtomic c a op host addr
            | .launch q => s.performLaunch c a q host addr
            | .image =>
              let bad := s.corrupt host addr 8
              let s := s.cacheLine (sheetOf p) host addr
              let x := BitVec.ofNat 64 (s.readNum (dieOf p) c.agent host addr 8)
              s.putCtx (c.gotImage (s.env p) a (if bad then none else some x))
            | .fwait _ => if s.flagReached c a then s.putCtx (c.setAccess { a with performed := true, value := some 0#64 }) else s
            | _ => s.performFlag c a
        | .refused _ => if a.kind == .image then s.putCtx (c.gotImage (s.env p) a none) else s
        | _ => s
    | _, _ => s)

/-- An access that could be performed now, so that the memory system takes it up. -/
def State.accessDue (s : State) (c : Ctx) (a : GAccess) : Bool :=
  !a.performed && s.atHand c a && (!a.isWait || s.flagReached c a) && !c.isPending a && !c.imageWatched a &&
    match a.walk with
    | .done _ _ _ => true
    | .refused _ => a.kind == .image
    | _ => false

end Sys2Proof.Machine
end

