-- ==== Sys2Proof/Machine/PanelEvents.lean ====
section
/-!
DEFINITION. What happens in a panel beside its instructions: the end of a cycle (R26, R272, R277), holds (R39 to R43),
loop passes (R44 to R49), waits (R54), landings into rings, ports and border buffers (R67, R223, R226, R312), refresh (R75
to R77), pre-emption's stops (R285 to R287), and the end of a motif load (R258).
-/

namespace Sys2Proof.Machine

/-! The end of a cycle. -/

/-- The banks that the accesses and windows of cycle t of a clock use: cell and bank (R312). -/
def Ctx.bankUse (c : Ctx) (trap : Bool) (t : Nat) : List (Nat × Nat) :=
  ((c.towerOps.filter fun o => o.trap == trap && o.cycle == t).map fun o => (o.cell, bankOf o.off)) ++
    ((c.windows.filter fun w => w.trap == trap && decide (w.first ≤ t) && decide (t ≤ w.last)).map fun w => (w.cell, w.bank))

/-- The banks inside windows that are open while the panel stands before cycle t (R41). -/
def Ctx.openBanks (c : Ctx) : List (Nat × Nat) :=
  (c.windows.filter fun w => w.trap == c.trap.tctx && decide (w.first < c.now) && decide (c.now ≤ w.last)).map
    fun w => (w.cell, w.bank)

/-- The running clock one cycle on (R34). -/
def Ctx.nextCycle (c : Ctx) : Ctx :=
  if c.trap.tctx then { c with time := { c.time with xtime := c.time.xtime + 1 } }
  else { c with time := { c.time with ptime := c.time.ptime + 1 } }

/-- One unheld cycle less of a motif load (R258). (Log entry 55: DEDUCED.) -/
def Ctx.loadCycle (c : Ctx) : Ctx :=
  { c with motif := { c.motif with load := c.motif.load.map fun l => { l with left := l.left - 1 } } }

/-- A descriptor word is invalid (R241). -/
def ringWordBad (x : U64) : Bool :=
  someBit x 40 63 || someBit x 0 5 ||
    decide (2 ^ 23 < (x.extractLsb' 0 23).toNat + 64 * ((x.extractLsb' 24 8).toNat + 1) * ((x.extractLsb' 32 8).toNat + 1))

/-- A ring as a descriptor word configures it (R65, R66, R241): fills under way write their bytes and nothing else. A command's
fill writes its own bytes and leaves no record, so it keeps no later fill waiting. -/
def Ring.configure (r : Ring) (x : U64) : Ring :=
  let n := (x.extractLsb' 32 8).toNat + 1
  { conf := true, base := (x.extractLsb' 0 23).toNat, size := (x.extractLsb' 24 8).toNat + 1, count := n, explicit := bit x 23,
    tags := (List.range n).map fun s => BitVec.ofNat 32 s - BitVec.ofNat 32 n,
    fills := (r.fills.filter fun f => f.ord.isNone).map fun f => { f with discarded := true } }

/-- The ring descriptors whose words are due take effect at the end of the cycle (R68, R241). (Log entry 16: DEDUCED.) -/
def Ctx.configRings (c : Ctx) : Ctx :=
  let mine (a : GAccess) : Bool :=
    match a.kind with
    | .rcfg _ => a.trap == c.trap.tctx && a.performed && a.value.isSome && decide (a.due < c.now)
    | _ => false
  let done := c.glob.queue.filter mine
  let c := { c with glob := { c.glob with queue := c.glob.queue.filter fun a => !mine a } }
  done.foldl (fun c a =>
    match a.kind, a.value with
    | .rcfg m, some x => c.mapCells fun _ y => y.setRing m ((y.ring m).configure x)
    | _, _ => c) c

/-- The writes of the cycle that ends: tower accesses, results of products, and what falls due (R26, R61). -/
def Ctx.endWrites (c : Ctx) (g : Nat) : Ctx :=
  let t := c.now
  let tr := c.trap.tctx
  let c := { c with time := { c.time with taken := c.bankUse tr t, ran := true } }
  ((c.towerCycle tr t g).finishFlights.writeDue tr t g).configRings.loadCycle

/-- A trap taken, with the products that have then read all their operands (R272, R277). -/
def Ctx.stopFor (c : Ctx) (r : Raise) (g : Nat) : Ctx := (c.takeTrap r g).finishFlights

/-- Some elements of a list without its first occurrence of one. -/
def dropRaise (r : Raise) : List Raise → List Raise
  | [] => []
  | x :: xs => if x = r then xs else x :: dropRaise r xs

/-- The return of an RFT (R279): a deferred fault is taken instead; after UNCORRECTABLE the task is aborted; after PREEMPT
the stop is performed. -/
def Ctx.endHandler (c : Ctx) (g : Nat) : Ctx :=
  match c.trap.deferred with
  | some d =>
    let uncorrectable := d.cause.extractLsb' 0 8 == causeUncorrectable
    { c with
      trap := { c.trap with deferred := none, cause := d.cause, tval := d.tval, fatal := c.trap.fatal || uncorrectable }
      issue := { c.issue with leaving := false, closed := true, checked := false, done := 0, wait := .until (g + 16),
                              pc := 0x00FF000000100000#64 + BitVec.ofNat 64 (64 * (c.trap.offset.toNat + d.cause.toNat % 256)) } }
  | none =>
    if c.trap.fatal then { c with preempt := { c.preempt with stop := .aborted } }
    else if c.trap.preempts then
      let c := c.leaveTrap g
      { c with trap := { c.trap with preempts := false }, preempt := { c.preempt with stop := .draining } }
    else c.leaveTrap g

/-- The trap that the cycle brings, if any, and the return that was waiting for its end (R277, R279). -/
def Ctx.endTraps (c : Ctx) (g : Nat) : Ctx :=
  match pickRaise c.raised with
  | some r => ((dropRaise r c.raised).foldl Ctx.defer c).stopFor r g
  | none => if c.issue.leaving && c.trapIdle then c.endHandler g else c

/-- The end of an unheld cycle. -/
def Ctx.endCycle (c : Ctx) (g : Nat) : Ctx := ((c.endWrites g).nextCycle).endTraps g

/-- RESULT_WRITEBACK (R26): the end of an unheld cycle of a panel. -/
def execResultWriteback (p : Nat) (s : State) : Host.Outcome State Fault Refusal :=
  .next (s.mapCtx p fun v c => c.endCycle v.gcyc)

/-! Holds (R39 to R43). -/

/-- A walk that has not finished. -/
def Walk.unfinished : Walk → Bool
  | .walking | .notice _ | .posting => true
  | _ => false

/-- The kinds of access that hold the panel on their own account: a motif image's reads hold it only at the end of the load
(R258), and a waiting flag operation does not. -/
def GKind.holds : GKind → Bool
  | .image | .fwait _ | .finc _ | .fset _ | .remoteFinc _ _ => false
  | _ => true

/-- An access holds under code 0x03: its translation was not finished in its due cycle, and it has not been made since. -/
def Ctx.holds3 (c : Ctx) (a : GAccess) : Bool :=
  c.overdue a && a.kind.holds && !a.performed && (a.missed || a.walk.unfinished)

/-- A load holds under code 0x02: its data was not written by its due cycle. -/
def Ctx.holds2 (c : Ctx) (a : GAccess) : Bool :=
  c.overdue a && a.kind.holds && !a.returned && !c.holds3 a &&
    match a.kind with
    | .load _ | .atomic _ | .launch _ | .fread _ => true
    | .rcfg _ => !a.performed
    | _ => false

/-- What the load under way has still to read waits for the return from a handler: a read that the trap record marks as pending, or one
of the normal context that is watched. (Log entry 93: DESIGN CHOICE.) -/
def Ctx.loadStands (c : Ctx) : Bool :=
  c.trap.tctx && c.glob.queue.any fun a => !a.trap && a.kind == .image && (c.isPending a || c.imageWatched a)

/-- A motif load has reached its end without all of its image (R258). -/
def Ctx.loadWaits (c : Ctx) : Option Bool :=
  match c.motif.load with
  | some l =>
    if l.left = 0 && !l.failed && decide (l.got.length < l.asked) && !c.loadStands then
      some (c.glob.queue.any fun a => a.kind == .image && a.walk.unfinished)
    else none
  | none => none

/-- The causes of R40 by which a panel is held, but for those that a command's start finds: bit k for code k. -/
def Ctx.holdBits (c : Ctx) (g : Nat) (cut : Bool) : BitVec 8 :=
  let b2 := c.glob.queue.any c.holds2 || c.loadWaits == some false
  let b3 := c.glob.queue.any c.holds3 || c.loadWaits == some true
  (if b2 then 4#8 else 0#8) ||| (if b3 then 8#8 else 0#8) ||| (if g < c.time.refreshUntil then 16#8 else 0#8) |||
    (if cut then 64#8 else 0#8)

/-- The bits of the codes at which queue heads hold. -/
def headBits (xs : List (Nat × Nat)) : BitVec 8 :=
  xs.foldl (fun b x => b ||| BitVec.ofNat 8 (2 ^ x.2)) 0#8

/-- Codes 0x01, 0x02, 0x03 and 0x05 count toward HOLDMAX (R43). -/
def countsHold (b : BitVec 8) : Bool := b &&& 0x2E#8 != 0#8

/-- A held cycle (R39, R43): nothing advances but HOLDCNT and the count of the hold. (Log entry 24: DEDUCED.) -/
def Ctx.heldCycle (c : Ctx) (bits : BitVec 8) (heads : List (Nat × Nat)) : Ctx :=
  { c with time := { c.time with holding := bits, heldQ := heads, holdcnt := c.time.holdcnt + 1#64,
                                 held := if countsHold bits then c.time.held + 1 else c.time.held },
           glob := { c.glob with queue := c.glob.queue.map fun a => if c.holds3 a then { a with missed := true } else a } }

/-- An unheld cycle begins. (Log entry 17: DEDUCED.) -/
def Ctx.unheld (c : Ctx) : Ctx := { c with time := { c.time with holding := 0#8, heldQ := [], held := 0 } }

/-- The lowest-numbered counting code of a hold. (Log entry 64: DEDUCED.) -/
def holdCode (b : BitVec 8) : Nat := if bit b 1 then 1 else if bit b 2 then 2 else if bit b 3 then 3 else 5

/-- The trap of a hold that has lasted too long (R43): precise at the queue entry or the access that its code is attributed
to. -/
def Ctx.timeout (c : Ctx) : Raise :=
  let code := holdCode c.time.holding
  let t : U64 := u64 c.time.held
  let sub := BitVec.ofNat 8 code
  if code = 1 ∨ code = 5 then
    let q := ((c.time.heldQ.find? fun x => x.2 == code).map (·.1)).getD 0
    { code := causeSchedule, sub := sub, tval := t, queue := some q, pc := 0#64, after := false, access := none, early := false }
  else
    match c.glob.queue.find? (fun a => if code = 2 then c.holds2 a else c.holds3 a) with
    | some a =>
      { code := causeSchedule, sub := sub, tval := t, queue := none, pc := a.pc, after := false, access := some a.ord, early := true }
    | none =>
      { code := causeSchedule, sub := sub, tval := t, queue := none, pc := c.issue.pc, after := false, access := none, early := true }

/-- HOLD_TIMEOUT (R43): the counted cycles of the hold have reached HOLDMAX + 1, and the trap is taken in this wall cycle. -/
def execHoldTimeout (p : Nat) (s : State) : Host.Outcome State Fault Refusal :=
  .next (s.mapCtx p fun v c =>
    if c.time.holdmax.toNat < c.time.held then
      (({ c with time := { c.time with held := 0, holding := 0#8 } }).stopFor c.timeout v.gcyc)
    else c)

/-! Traps of accesses (R152). -/

/-- The fault of an access that is past its due cycle: a walk refused it, or its data carried an uncorrectable error. -/
def Ctx.accessFault (c : Ctx) (a : GAccess) : Option Raise :=
  let raise (code : BitVec 8) (t : U64) : Option Raise :=
    some { code := code, sub := 0#8, tval := t, queue := none, pc := a.pc, after := false, access := some a.ord, early := true }
  if !c.overdue a then none
  else if a.kind == .image then (if c.imageWatched a then raise causeWatch a.va else none)
  else
    match a.walk with
    | .refused code => raise code a.va
    | _ =>
      if a.performed && a.value.isNone && !a.returned then
        raise causeUncorrectable (if isLocal a.va then u64 (3 * 2 ^ 62) ||| (a.va &&& 0x00FFFFFFFFFFFFFF#64) else a.va)
      else
        match a.kind, a.value with
        | .rcfg _, some x =>
          if ringWordBad x then
            some { code := causeIllegal, sub := 0x08#8, tval := a.expect, queue := none, pc := a.pc, after := false,
                   access := some a.ord, early := true }
          else none
        | _, _ => none

/-- The access that traps now: an uncorrectable error before another fault, and else the first in program order (R277). -/
def Ctx.dueFault (c : Ctx) : Option Raise := pickRaise (c.glob.queue.filterMap c.accessFault)

/-- HANDLER_FIRST_PACKET (R277, R279): 16 wall cycles after the stop or the RFT, issue begins. -/
def execHandlerFirstPacket (p : Nat) (s : State) : Host.Outcome State Fault Refusal :=
  .next (s.mapCtx p fun v c =>
    match c.issue.wait with
    | .until t => if t ≤ v.gcyc then { c with issue := { c.issue with wait := .none } } else c
    | _ => c)

/-! Loop passes (R44 to R49). -/

/-- The stage conditions at the start of a pass (R44). -/
def LoopState.conds (l : LoopState) (b : Bank) : Nat → Bank
  | 0 => b
  | k + 1 =>
    let i : Int := (l.pass : Int) - k
    (l.conds b k).putC (BitVec.ofNat 3 (k + 1)) (decide ((l.first : Int) ≤ i) && decide (i < (l.total : Int)))

/-- A graceful request at a pass boundary: no iteration from the present one on starts, and the started ones drain (R49). -/
def LoopState.drain (l : LoopState) : LoopState :=
  let total := Nat.min l.total l.pass
  { l with draining := true, whole := l.total, leftAt := total, total := total,
           passes := if total ≤ l.first then l.pass else Nat.min l.passes (total + l.stages - 1) }

/-- The loop as it goes on after a graceful stop: with a fill of the pipeline at the first iteration left unstarted (R49). -/
def LoopState.resume (l : LoopState) : LoopState :=
  { l with draining := false, first := l.leftAt, pass := l.leftAt, total := l.whole, passes := l.whole + l.stages - 1,
           pending := true }

/-- The loop after its last pass. -/
def Ctx.endLoop (c : Ctx) (l : LoopState) : Ctx :=
  { c with loop := none, issue := { c.issue with pc := l.body + BitVec.ofNat 64 (4 * l.len) } }

/-- The first cycle of a pass: the anchor, the stage conditions, and the body's first packet (R44). -/
def Ctx.beginPass (c : Ctx) (l : LoopState) : Ctx :=
  { c with loop := some { l with pending := false }, time := { c.time with anchor := c.time.ptime },
           norm := l.conds c.norm l.stages, issue := { c.issue with pc := l.body } }

/-- A pass boundary (R44, R49, R286): the next pass begins, the loop ends, or a drained loop is a stop point. -/
def Ctx.boundary (c : Ctx) (l : LoopState) : Ctx :=
  let l := if c.preempt.req && !l.draining && decide (l.pass < l.passes) then l.drain else l
  if l.pass < l.passes then c.beginPass l
  else if !l.draining then c.endLoop l
  else if l.whole ≤ l.leftAt then
    -- every iteration has run: the loop is over, and the address after it is the stop point
    let c := c.endLoop l
    if c.preempt.req then c.stopPoint c.issue.pc else c
  else
    let r := l.resume
    if c.preempt.req then
      ({ c with loop := some r, issue := { c.issue with pc := r.body, closed := true } }).stopPoint r.body
    else c.beginPass r

/-- LOOP_PASS (R44): what stands between two passes, in the cycle in which the next packet of the loop would issue. -/
def execLoopPass (p : Nat) (s : State) : Host.Outcome State Fault Refusal :=
  .next (s.mapCtx p fun _ c =>
    match c.loop with
    | some l => if l.pending && !c.trap.tctx then c.boundary l else c
    | none => c)

/-! Waits (R54). -/

/-- The condition of a wait is true in this cycle (R54, R69, R73, R166). A wait on a flag tests the flag itself from the cycle after its
issue on, without the delay of a request. (Log entry 80: DESIGN CHOICE.) One that has been performed has its condition (R74). -/
def State.waitMet (s : State) (c : Ctx) : Bool :=
  match c.issue.wait with
  | .waitev sel => c.latch.bits &&& sel != 0#4
  | .waitf m n => c.filledAll m n
  | .waite m n => c.freeAll m n
  | .flag f target _ _ => match c.flagWait? with | some w => w.performed || s.flagReached c w | none => !(s.flag c f - target).msb
  | .wake t => decide (t ≤ c.now)
  | .twait t => decide (t ≤ (c.tcyc : Int))
  | .none | .until _ => false

/-- The context when a wait's condition is true: the next packet issues 13 cycles on; a wait that has completed, or a
TWAIT, lets it issue now. (Log entry 21: DEDUCED.) -/
def Ctx.waitStep (c : Ctx) : Ctx :=
  let wake (c : Ctx) : Ctx := { c with issue := { c.issue with wait := .wake (c.now + 13) } }
  match c.issue.wait with
  | .waitev sel => wake { c with latch := c.latch.clear sel }
  | .waitf _ _ | .waite _ _ => wake c
  | .flag _ _ _ bar =>
    wake { c with glob := { c.glob with queue := c.glob.queue.filter fun a => !(a.isWait && a.trap == c.trap.tctx) },
                  trap := if bar && !c.trap.tctx then { c.trap with barw := false } else c.trap }
  | .wake _ | .twait _ => { c with issue := { c.issue with wait := .none } }
  | .none | .until _ => c

/-- WAIT_COMPLETE (R54): the condition of a wait becomes true, or the time that it leaves has come. -/
def execWaitComplete (p : Nat) (s : State) : Host.Outcome State Fault Refusal :=
  .next (match s.ctx? p with
    | some c => if s.waitMet c then s.putCtx c.waitStep else s
    | none => s)

/-! Landings (R41, R63, R67, R223, R226, R312). -/

/-- The oldest line of a bank has passed half its force age: the sweep goes first there (R76). -/
def forceAge (fbase margin limit : BitVec 16) : Nat := 1048576 * fbase.toNat + 1024 * Nat.min limit.toNat margin.toNat

/-- The age of the oldest line of a bank. -/
def Cell.oldestAge (x : Cell) (bank g : Nat) : Nat := g - (x.ages.getD bank {}).oldest.2

/-- A landing may use a bank in this wall cycle: neither the schedule, a window nor another landing uses it, no refresh is forced
there, and the sweep does not go first (R63, R76, R77). -/
def Ctx.bankFree (c : Ctx) (v : Env) (cell bank : Nat) : Bool :=
  !c.time.taken.contains (cell, bank) && !c.time.landed.contains (cell, bank) &&
    !(decide (v.gcyc < c.time.refreshUntil) && c.time.refreshing.contains (cell, bank)) &&
    decide (2 * (c.cell cell).oldestAge bank v.gcyc ≤ forceAge v.fbase v.margin c.sys.deferlim)

/-- Write, of some lines in order, those whose banks are free in this cycle; the lines that are left. -/
def Ctx.landLines (c : Ctx) (v : Env) (cell : Nat) : List (Nat × Line) → Ctx × List (Nat × Line)
  | [] => (c, [])
  | x :: xs =>
    if c.bankFree v cell (bankOf x.1) then
      let c := c.setCell cell ((c.cell cell).writeLine x.1 x.2 (~~~0#64) v.gcyc)
      ({ c with time := { c.time with landed := (cell, bankOf x.1) :: c.time.landed } }).landLines v cell xs
    else
      let r := c.landLines v cell xs
      (r.1, x :: r.2)

/-- Write the lines of the fills of a ring that are landings, oldest first. -/
def Ctx.landFills (c : Ctx) (v : Env) (cell : Nat) : List Fill → Ctx × List Fill
  | [] => (c, [])
  | f :: fs =>
    if f.ord.isSome || f.written.isSome then
      let r := c.landFills v cell fs
      (r.1, f :: r.2)
    else
      let w := c.landLines v cell f.lines
      let r := w.1.landFills v cell fs
      (r.1, { f with lines := w.2, written := if w.2.isEmpty then some v.gcyc else none } :: r.2)

/-- RING_FILL (R67, R312): the fills under way of a ring of a cell write lines into free banks; the ones that are complete
publish their tags and counts. -/
def execRingFill (p cell ring : Nat) (s : State) : Host.Outcome State Fault Refusal :=
  .next (s.mapCtx p fun v c =>
    let r := c.landFills v cell ((c.cell cell).ring ring).fills
    let x := r.1.cell cell
    let st := Ring.settle v.gcyc r.2.length { (x.ring ring) with fills := r.2 }
    let c := r.1.setCell cell (x.setRing ring st.1)
    if st.2 then { c with latch := { c.latch with ring := true } } else c)

/-- A message lands in a port or begins a fill of a ring; none when its destination refuses it (R67, R226). -/
def Ctx.acceptMsg (c : Ctx) (m : SendMsg) : Option Ctx :=
  let n := (m.dest.extractLsb' 8 4).toNat
  let x := c.cell n
  if bit m.dest 15 then
    let k := (m.dest.extractLsb' 12 3).toNat
    let r := x.ring k
    if !r.conf || r.full then none
    else
      let lines (s : Nat) : List (Nat × Line) := (List.range r.size).map fun l => (r.lineAt s l, if l = 0 then m.data else 0#512)
      some (c.setCell n (x.setRing k (r.reserve none lines)))
  else
    let k := (m.dest.extractLsb' 16 2).toNat
    match vget none x.ports k with
    | some _ => none
    | none =>
      let c := c.setCell n { x with ports := vset x.ports k (some ⟨m.data, m.tag⟩) }
      some { c with latch := { c.latch with xport := true } }

/-- The contexts of a gang accept landings until it is saved (R41, R288). -/
def Ctx.accepts (c : Ctx) : Bool := c.preempt.stop != .saved && c.preempt.stop != .aborted && c.preempt.stop != .reexec

/-- The context of the panel with a TASKPANEL.INDEX in the task of another. -/
def State.mate (s : State) (c : Ctx) (index : Nat) : Option Ctx :=
  s.ctxs.find? fun d => d.id.slot == c.id.slot && d.index == index

/-- The messages of a send buffer that have reached their destinations by now land in order; one that is refused keeps back
those behind it (R226). The rest of the buffer, and the package. -/
def State.deliverMsgs (s : State) (sender : Ctx) : List SendMsg → State × List SendMsg
  | [] => (s, [])
  | m :: ms =>
    if s.gcyc < m.arrive then
      let r := s.deliverMsgs sender ms
      (r.1, m :: r.2)
    else
      match s.mate sender (m.dest.toNat % 256) with
      | some d =>
        match (if d.accepts then d.acceptMsg m else none) with
        | some d' => (s.putCtx d').deliverMsgs sender ms
        | none => (s, m :: ms)
      | none => (s, m :: ms)

/-- EXPRESS_ARRIVAL (R226): messages of one cell's send buffer arrive. -/
def execExpressArrival (p cell : Nat) (s : State) : Host.Outcome State Fault Refusal :=
  .next (match s.ctx? p with
    | some c =>
      let r := s.deliverMsgs c (c.cell cell).send
      r.1.mapCtx p fun _ c => c.setCell cell { (c.cell cell) with send := r.2 }
    | none => s)

/-- The context with a border buffer entry overwritten (R223). -/
def Ctx.landBorder (c : Ctx) (m : BorderMsg) : Ctx :=
  let buf := vget (Vector.replicate 4 {}) c.borders m.side
  { c with borders := vset c.borders m.side (vset buf m.entry ⟨m.data, m.tag⟩) }

/-- Border writes that land by now, in the order in which they were sent. -/
def Ctx.landBorders (c : Ctx) (p g : Nat) : List (Nat × Nat × BorderMsg) → Ctx
  | [] => c
  | x :: xs => (if x.2.1 = p ∧ x.1 ≤ g then c.landBorder x.2.2 else c).landBorders p g xs

/-- BORDER_LANDING (R223): the border writes for a panel that land in this cycle. -/
def execBorderLanding (p : Nat) (s : State) : Host.Outcome State Fault Refusal :=
  .next { (s.mapCtx p fun v c => c.landBorders p v.gcyc s.borderFlight) with
          borderFlight := s.borderFlight.filter fun x => !(x.2.1 == p && decide (x.1 ≤ s.gcyc)) }

/-! Refresh (R75 to R77). -/

/-- A panel on which the sweep may use every bank cycle: a held or stopped one (R76). -/
def Ctx.sweeps (c : Ctx) (cell bank : Nat) : Bool :=
  !c.time.landed.contains (cell, bank) && (!c.time.ran || !c.time.taken.contains (cell, bank))

/-- The corrupt lines that the sweep comes upon in a cell and that are not poisoned yet: their offsets (R281, R411).
(Log entry 94: DEDUCED.) -/
def Ctx.sweepFinds (c : Ctx) (n : Nat) : List Nat :=
  let x := c.cell n
  if x.badLines.isEmpty then []
  else
    ((List.range 64).filter fun k => c.sweeps n k).filterMap fun k =>
      let off := 131072 * k + 64 * (x.ages.getD k {}).oldest.1
      if x.badLines.contains off && !x.poisoned.contains off then some off else none

/-- The cell after a cycle of the sweep: in every bank that nothing else uses, the oldest line is refreshed (R76). -/
def Ctx.sweepCell (c : Ctx) (g n : Nat) (x : Cell) : Cell :=
  { x with ages := mapFrom (fun k b => if c.sweeps n k then b.sweep g else b) 0 x.ages, poisoned := c.sweepFinds n ++ x.poisoned }

/-- The error of class 4 for a line that the sweep finds corrupt (R411, R412). -/
def Ctx.latentError (c : Ctx) (n off : Nat) : ErrorEvent :=
  { cls := 4, scope := 3, sheet := sheetOf c.id.panel, panel := c.id.panel % 32, cell := n, bank := bankOf off,
    detail := cellTval 1 n off, taskId := c.id.taskId }

/-- REFRESH_SWEEP (R76): a cycle of the sweep; what it finds corrupt is not consumed, but recorded for the operator (R281, R411). -/
def execRefreshSweep (p : Nat) (s : State) : Host.Outcome State Fault Refusal :=
  .next (match s.ctx? p with
    | none => s
    | some c =>
      (List.range 16).foldl (fun s n => (c.sweepFinds n).foldl (fun s off => s.noteError (c.latentError n off)) s)
        (s.putCtx (c.mapCells fun n x => c.sweepCell s.gcyc n x)))

/-- The banks of the panel in which a line has reached its force age: cell and bank (R77). -/
def Ctx.forcing (c : Ctx) (v : Env) : List (Nat × Nat) :=
  (List.range 16).flatMap fun n => (List.range 64).filterMap fun k =>
    if forceAge v.fbase v.margin c.sys.deferlim ≤ (c.cell n).oldestAge k v.gcyc then some (n, k) else none

/-- FORCED_REFRESH (R77): a hold of 32 cycles begins in this one. -/
def execForcedRefresh (p : Nat) (s : State) : Host.Outcome State Fault Refusal :=
  .next (s.mapCtx p fun v c =>
    let banks := c.forcing v
    if !banks.isEmpty && decide (c.time.refreshUntil ≤ v.gcyc) then
      { c with time := { c.time with refreshUntil := v.gcyc + 32, refreshing := banks }, sys := { c.sys with forced := c.sys.forced + 1#32 } }
    else c)

/-- FORCED_REFRESH_END (R77). -/
def execForcedRefreshEnd (p : Nat) (s : State) : Host.Outcome State Fault Refusal :=
  .next (s.mapCtx p fun v c =>
    if c.time.refreshUntil ≤ v.gcyc then { c with time := { c.time with refreshUntil := 0, refreshing := [] } } else c)

/-! Stops (R51, R286, R287). -/

/-- Every result of the normal context has been written and every queue is empty (R51). -/
def Ctx.drained (c : Ctx) : Bool :=
  c.eng.q.toList.all (fun qs => qs.isEmpty) && c.landings.isEmpty && c.towerOps.isEmpty && c.flights.isEmpty &&
    !c.glob.queue.any (fun a => (a.dest.isSome && !a.returned) || (match a.kind with | .rcfg _ => true | _ => false)) &&
    c.jobs == 0

/-- A wait in progress at which a graceful request stops the context (R286). -/
def Wait.stops : Wait → Bool
  | .waitev sel => !bit sel 3
  | .waitf _ _ | .waite _ _ | .flag _ _ _ _ | .twait _ => true
  | .none | .wake _ | .until _ => false

/-- The context at a forced stop with the first access whose service the stop has abandoned marked as pending (R152, R397): in trap
context the mark is that of the trap record, and stays. -/
def Ctx.markPending (c : Ctx) : Ctx :=
  match c.glob.queue.find? fun a => a.walk == .abandoned && !a.trap with
  | some a => if c.trap.tctx then c else { c with trap := { c.trap with pacc := true, access := some a.ord, tpc := a.pc } }
  | none => c

/-- The context stops issuing at once, in the cycle that ends (R271, R287). -/
def Ctx.forceStop (c : Ctx) (g : Nat) : Ctx :=
  let c := (((c.settleStop g).finishFlights).freeze).markPending.dropWaits
  { c with preempt := { c.preempt with stop := .forced, deadline := none } }

/-- A context that a forced stop reaches: it runs or drains, and has not finished. -/
def Ctx.forcible (c : Ctx) : Bool :=
  !c.finished && c.trap.halted.isNone && (c.preempt.stop == .none || c.preempt.stop == .draining)

/-- GRACE_WINDOW_EXPIRY (R287). -/
def execGraceWindowExpiry (p : Nat) (s : State) : Host.Outcome State Fault Refusal :=
  .next (s.mapCtx p fun v c =>
    match c.preempt.deadline with
    | some d => if d ≤ v.gcyc && c.forcible then c.forceStop v.gcyc else c
    | none => c)

/-- An access that a stopped context still has to wait for before it is saved: one that is out, and neither waits for the
steward nor is refused. -/
def GAccess.outstanding (a : GAccess) : Bool :=
  !a.performed && !a.isWait && match a.walk with | .done _ _ _ | .walking => true | _ => false

/-- A graceful request at a wait in progress, once every queue has drained (R286): with NOTIFY it raises PREEMPT in the cycle
that ends, and otherwise the context has stopped. (Log entry 22: DEDUCED.) -/
def Ctx.waitStop (c : Ctx) (g : Nat) : Ctx :=
  if c.preempt.notify && !c.preempt.notified then
    ({ c with preempt := { c.preempt with notified := true } }).stopFor
      { code := causePreempt, sub := 0#8, tval := 0#64, queue := none, pc := c.issue.waitPc, after := false, access := none,
        early := false } g
  else
    let c := c.freeze.dropWaits
    { c with preempt := { c.preempt with stop := .quiet, lastf := false, deadline := none } }

/-- DRAIN_COMPLETE (R286, R287): a draining context has drained, a forced one has no job and no access out, or a graceful
request finds a wait in progress with every queue drained; saving may begin. -/
def execDrainComplete (p : Nat) (s : State) : Host.Outcome State Fault Refusal :=
  .next (s.mapCtx p fun v c =>
    match c.preempt.stop with
    | .none => if c.preempt.req && !c.trap.tctx && c.issue.wait.stops && c.drained then c.waitStop v.gcyc else c
    | .draining =>
      if !c.trap.tctx && c.drained then
        let c := c.freeze.dropWaits
        { c with preempt := { c.preempt with stop := .quiet, lastf := false, deadline := none } }
      else c
    | .forced =>
      if c.jobs = 0 && !c.glob.queue.any GAccess.outstanding then
        { c with preempt := { c.preempt with stop := .quiet, lastf := true } }
      else c
    | _ => c)

/-- MOTIF_LOAD_END (R258): the slot becomes LOADED when the image passes validation, and FAILED otherwise. -/
def execMotifLoadEnd (p : Nat) (s : State) : Host.Outcome State Fault Refusal :=
  .next (s.mapCtx p fun _ c =>
    match c.motif.load with
    | some l =>
      if l.left = 0 && (l.failed || decide (l.asked ≤ l.got.length)) then
        let dw (k : Nat) : U64 := ((l.got.find? fun x => x.1 == k).map (·.2)).getD 0#64
        let slot : Slot := if l.failed then .failed 1 else match validate dw with | some m => .loaded m | none => .failed 2
        { c with motif := { c.motif with slots := vset c.motif.slots l.slot slot, load := none } }
      else c
    | none => c)

end Sys2Proof.Machine
end

