-- ==== Sys2Proof/Machine/SaveArea.lean ====
section
/-!
DEFINITION. The context save area (R400 to R408): the bytes that a save writes. Blocks of the area are sparse stores, each
counted from its own start; an area is the blocks of its parts put one behind the other.
-/

namespace Sys2Proof.Machine

/-! Blocks. -/

/-- The block of a list of bytes from an offset on. -/
def blockAt (a : Nat) (xs : List Byte) : Bytes := (mapFrom (fun k x => (k, x)) a xs).filter fun y => y.2 != 0#8

/-- A block moved by n bytes. -/
def shiftBlock (n : Nat) (m : Bytes) : Bytes := m.map fun x => (x.1 + n, x.2)

/-- A number of n bytes at an offset. -/
def numAt (a n x : Nat) : Bytes := blockAt a (bytesOfNat n x)

/-- Blocks of equal size, one behind the other. -/
def blocks (size : Nat) (xs : List Bytes) : Bytes := (mapFrom (fun k x => shiftBlock (size * k) x) 0 xs).flatten

/-- Numbers of n bytes, one behind the other. -/
def nums (n : Nat) (xs : List Nat) : List Byte := xs.flatMap (bytesOfNat n)

/-! Queue entries (R405). -/

/-- The code of a rounding mode (R101). -/
def RMode.code : RMode → Nat
  | .rne => 0
  | .rtz => 1
  | .rdn => 2
  | .rup => 3
  | .sr => 4

/-- A number modulo 2^32, of an integer. -/
def intLow32 (x : Int) : Nat := (x % 2 ^ 32).toNat

/-- The command of an instruction carries a scalar of field b and none of an earlier field. -/
def carriesB (i : Instr) : Bool := match engineOf i with | some g => g.sa.isNone && g.sb.isSome | none => false

/-- The scalar operands that an entry carries, in field order (R405). -/
def QEntry.carried (e : QEntry) : U64 × U64 := if carriesB e.instr then (e.scal.2, 0#64) else e.scal

/-- A queue entry. -/
def QEntry.bytes (e : QEntry) : List Byte :=
  let ws := encode e.instr
  let flag (b : Bool) (k : Nat) : Nat := if b then 2 ^ k else 0
  nums 4 [ws.getD 0 0, ws.getD 1 0] ++
    nums 8 [e.seq.toNat + flag e.due.isNone 16 + flag e.trap 17 + (e.iter.map intLow32).getD 0 * 2 ^ 32, e.due.getD 0,
            e.carried.1.toNat, e.carried.2.toNat, e.rng.key.toNat, e.rng.stream.toNat + e.rng.ctr.toNat * 2 ^ 32,
            e.srctr.toNat + e.rmode.code * 2 ^ 32 + flag e.ftz 35 + e.admode.code * 2 ^ 36]

/-! Landing records (R272, R273, R406, R407). -/

/-- What is captured of one cell line (R407): its data, its byte mask, its destination word without the due cycle, and its due
cycle. -/
structure CapturedLine where
  data : Line
  mask : BitVec 64
  dest : Nat
  due : Nat
  deriving DecidableEq, Repr

/-- The captured writes of one instruction or command, put in order. -/
structure Captured where
  ord : Nat
  landings : List Landing
  ops : List TowerOp
  deriving DecidableEq, Repr

/-- An access that writes. -/
def TowerOp.writes (o : TowerOp) : Bool :=
  match o.act with
  | .read _ (.vreg _ _ _ _) => true
  | .read _ _ => false
  | _ => true

/-- The places in program order of the captured writes of a unit, ascending. -/
def Ctx.capturedOrds (c : Ctx) (u : EngUnit) : List Nat :=
  let a := (c.landings.filter fun l => l.unit == u).map (·.ord)
  let b := (c.towerOps.filter fun o => o.unit == u && o.writes).map (·.ord)
  ((a ++ b).foldl (fun (xs : List Nat) x => if xs.contains x then xs else xs ++ [x]) []).mergeSort (fun x y => decide (x ≤ y))

/-- The captured writes of a unit, in program order. -/
def Ctx.captured (c : Ctx) (u : EngUnit) : List Captured :=
  (c.capturedOrds u).map fun n =>
    { ord := n, landings := c.landings.filter fun l => l.unit == u && l.ord == n,
      ops := c.towerOps.filter fun o => o.unit == u && o.ord == n && o.writes }

/-- The bytes that a read whose bank cycle is still to come will find: those of the tower after the captured writes of earlier
cycles. -/
def Ctx.foreseen (c : Ctx) (o : TowerOp) (len : Nat) : Nat :=
  let earlier := (sortOps (c.towerOps.filter fun x => x.cell == o.cell && x.trap == o.trap && decide (x.cycle < o.cycle)))
  let put (x : Cell) (w : TowerOp) : Cell :=
    match w.act with
    | .write y m | .matrixWrite y m | .atomicWrite y m => { x with tower := Store.setLine x.tower (lineOf w.off) y m }
    | .read _ _ => x
  (earlier.foldl put (c.cell o.cell)).readTower o.off len

/-- A ring's new counts, as the data of a ring update (R407). -/
def Ring.update (r : Ring) (slot : Nat) : Line :=
  BitVec.ofNat 512 (natOfBytes
    (nums 4 [r.head.toNat, r.tail.toNat, r.ttail.toNat, r.claimed.toNat, r.nexttag.toNat, (r.tag slot).toNat] ++ nums 1 [r.hslot, slot]))

/-- Ring m of cell n after a captured change, and the slot whose tag it writes; none when the change is to another. -/
def Ring.changed (r : Ring) (n m : Nat) (w : Write) : Option (Ring × Nat) :=
  match w with
  | .ring j op => if j = m then some (r.apply op, r.hslot) else none
  | .ringTo k j x ord => if k = n ∧ j = m then some (r.take x ord, (x.tag.map (·.1)).getD r.hslot) else none
  | .fillDone k j ord =>
    if k = n ∧ j = m then (r.fills.find? fun f => f.ord == some ord).map fun f => (if f.discarded then r else r.publish f, f.slot) else none
  | _ => none

/-- The captured changes of the context of execution of one that come before it, in the order in which they take effect. -/
def Ctx.landedBefore (c : Ctx) (l : Landing) : List Landing :=
  (c.landings.filter fun x => x.trap == l.trap && (decide (x.due < l.due) || (x.due == l.due && decide (x.ord < l.ord)))).mergeSort
    fun x y => decide (x.due < y.due) || (x.due == y.due && decide (x.ord ≤ y.ord))

/-- The ring of a cell after a captured change and those before it, and the slot whose tag the change writes (R407). -/
def Ctx.ringAfter (c : Ctx) (n : Nat) (l : Landing) : Option (Nat × Ring × Nat) :=
  (List.range 8).findSome? fun m =>
    let before := (c.landedBefore l).foldl (fun (r : Ring) x => ((r.changed n m x.write).map (·.1)).getD r) ((c.cell n).ring m)
    (before.changed n m l.write).map fun q => (m, q.1, q.2)

/-- What a captured write leaves in cell n, if it is a cell line. -/
def Ctx.landingLine (c : Ctx) (n : Nat) (l : Landing) : Option CapturedLine :=
  match l.write with
  | .v k r x m => if k = n then some ⟨x, m, r.toNat * 2 ^ 8, l.due⟩ else none
  | .p k r x => if k = n then some ⟨x.setWidth 512, 0xFF#64, 1 + r.toNat * 2 ^ 8, l.due⟩ else none
  | _ => (c.ringAfter n l).map fun q => ⟨q.2.1.update q.2.2, 0x3FFFFFF#64, 3 + q.1 * 2 ^ 8, l.due⟩

/-- What a tower access leaves in cell n. -/
def Ctx.opLine (c : Ctx) (n : Nat) (o : TowerOp) : Option CapturedLine :=
  if o.cell ≠ n then none
  else
    match o.act with
    | .write x m | .matrixWrite x m | .atomicWrite x m => some ⟨x, m, 2 + towerWrap (lineOf o.off) * 2 ^ 16, o.cycle⟩
    | .read len (.vreg r pos m due) =>
      let x := c.foreseen o len
      some ⟨BitVec.ofNat 512 (x * 256 ^ pos), m &&& BitVec.ofNat 64 ((2 ^ len - 1) * 2 ^ pos), r.toNat * 2 ^ 8, due⟩
    | .read _ _ => none

/-- The lines of a captured entry in cell n. -/
def Captured.lines (k : Captured) (c : Ctx) (n : Nat) : List CapturedLine :=
  k.landings.filterMap (c.landingLine n) ++ k.ops.filterMap (c.opLine n)

/-- The lines that an entry takes in the payload store: as many in each cell as in the one that has most. -/
def Captured.lineCount (k : Captured) (c : Ctx) : Nat := ((List.range 16).map fun n => (k.lines c n).length).foldl Nat.max 0

/-- The latest due cycle of some lines. -/
def lastDue (xs : List CapturedLine) : Nat := (xs.map (·.due)).foldl Nat.max 0

/-- The latest due cycle of an entry's lines. -/
def Captured.lineDue (k : Captured) (c : Ctx) : Nat := ((List.range 16).map fun n => lastDue (k.lines c n)).foldl Nat.max 0

/-- The accumulator writes of an entry. -/
def Captured.block (k : Captured) : Option Landing :=
  k.landings.find? fun l => match l.write with | .acc _ _ _ | .accZero _ _ _ => true | _ => false

/-- The flags that an entry's writes set (R406). -/
def Captured.flags (k : Captured) : Nat :=
  let f := k.landings.foldl (fun (f : Flags) l => f.or l.flags) Flags.zero
  (if f.nv then 1 else 0) + (if f.ovf then 2 else 0) + (if f.sat then 4 else 0) + (if f.clash then 8 else 0)

/-- The scalar destination of an entry: its kind, register and value. -/
def Captured.scalar (k : Captured) : Option (Nat × Nat × Nat × Nat) :=
  k.landings.findSome? fun l =>
    match l.write with
    | .s r x => some (0, r.toNat, x.toNat, l.due)
    | .b n x => some (1, n.toNat, x.toNat, l.due)
    | .c n x => some (2, n.toNat, if x then 1 else 0, l.due)
    | _ => none

/-- The M and N fields of a matrix command, and Z; for MZERO the tile count less one stands in N (R406). -/
def matrixFields : Instr → Nat
  | .mma _ _ _ _ n m _ z _ _ => m.toNat + n.toNat * 4 + (if z then 2 ^ 8 else 0)
  | .mmaq _ _ _ _ n m _ z _ _ _ => m.toNat + n.toNat * 4 + (if z then 2 ^ 8 else 0)
  | .mmab _ _ _ _ n m _ z _ _ _ => m.toNat + n.toNat * 4 + (if z then 2 ^ 8 else 0)
  | .mtot _ _ _ n m _ z => m.toNat + n.toNat * 4 + (if z then 2 ^ 8 else 0)
  | .mzero _ _ n => n.toNat * 4
  | _ => 0

/-- The first slot of an accumulator write. -/
def Write.firstSlot : Write → Nat
  | .acc _ lo _ | .accZero _ lo _ => lo
  | _ => 0

/-- An entry whose block is zeros. -/
def Captured.zeroes (k : Captured) : Bool := k.landings.all fun l => match l.write with | .acc _ _ _ => false | _ => true

/-- The first slot of an entry's block. -/
def Captured.first (k : Captured) : Nat :=
  (k.landings.filterMap fun l => match l.write with | .acc _ lo _ | .accZero _ lo _ => some lo | _ => none).foldl Nat.min 65536

/-- A landing entry's four doublewords (R406): flags and values as given. -/
def landingEntry (w0 due x flags : Nat) : List Byte := nums 8 [w0, due, x, flags]

/-- The landing entries of one instruction or command: at the place slot of its unit's region of the payload store, its block in
buffer block buf. Values of registers, cell lines and an accumulator block make an entry each.
(Log entry 46: DEDUCED.) -/
def Captured.entries (k : Captured) (c : Ctx) (slot buf : Nat) : List (List Byte) :=
  let n := k.lineCount c
  (match k.scalar with
    | some (kind, r, x, due) => [landingEntry (kind + r * 2 ^ 8) due x k.flags]
    | none => []) ++
  (if n = 0 then [] else [landingEntry 3 (k.lineDue c) (slot + n * 2 ^ 16) k.flags]) ++
  (match k.block with
    | some l =>
      let fields := ((c.eng.recent.find? fun e => e.1 == k.ord).map fun e => matrixFields e.2).getD 0
      let w := 4 + k.first / 1024 * 2 ^ 8 + (fields + (if k.zeroes then 2 ^ 9 else buf * 2 ^ 10)) * 2 ^ 16
      [landingEntry w l.due 0 k.flags]
    | none => [])

/-- The landing records of a unit: the entries one by one, with the slots and the buffer blocks that are taken so far. -/
def Ctx.unitEntries (c : Ctx) : List Captured → Nat → Nat → List (List Byte)
  | [], _, _ => []
  | k :: ks, slot, buf =>
    k.entries c slot buf ++ c.unitEntries ks (slot + k.lineCount c) (if k.block.isSome && !k.zeroes then buf + 1 else buf)

/-- The payload slots of a unit in cell n, one behind the other (R407). -/
def Ctx.unitLines (c : Ctx) (n : Nat) (ks : List Captured) : List Byte :=
  ks.flatMap fun k =>
    let xs := k.lines c n
    let d := k.lineDue c
    (xs.flatMap fun x => bytesOfNat 64 x.data.toNat ++ nums 8 [x.mask.toNat, x.dest + (d - x.due) * 2 ^ 48]) ++
      List.replicate (80 * (k.lineCount c - xs.length)) 0#8

/-- The values of the blocks in the accumulator landing buffer of cell n (R407). -/
def unitBlocks (n : Nat) (ks : List Captured) : Bytes :=
  let withValues := ks.filter fun k => k.block.isSome && !k.zeroes
  blocks 65536 (withValues.map fun k =>
    (k.landings.flatMap fun l =>
      match l.write with
      | .acc m lo xs => if m = n then blockAt (4 * (lo - k.first)) (nums 4 (xs.map (·.toNat))) else []
      | _ => []))

/-! The context page (R403, R404, R408). -/

/-- The images of a bank's s and b registers, and of its conditions. -/
def Bank.sBytes (b : Bank) : List Byte := nums 8 ((b.s.toList.set 0 0#64).map (·.toNat))
def Bank.bBytes (b : Bank) : List Byte := nums 8 (b.b.toList.map (·.toNat))
def Bank.cNum (b : Bank) : Nat := (b.c ||| 1#8).toNat

/-- STATE of the control record (R404). -/
def Ctx.stateWord (c : Ctx) : Nat :=
  let flag (b : Bool) (k : Nat) : Nat := if b then 2 ^ k else 0
  let fz := if c.trap.tctx then c.trap.frozen else c.issue
  let slots := if c.trap.tctx then c.trap.dslot.toNat else fz.slots
  flag c.trap.tctx 0 + flag c.finished 1 + flag c.loop.isSome 2 + flag c.trap.barw 3 + flag c.trap.pacc 4 + slots * 2 ^ 5 +
    flag c.latch.job 7 + flag c.latch.xport 8 + flag c.latch.ring 9 + flag c.latch.preempt 10 + flag c.committed 11 +
    flag c.trap.deferred.isSome 12 + flag fz.again.isSome 13 + flag (fz.taken && decide (fz.slots ≠ 0)) 14

/-- The next iteration number and the count of iterations that remain from it on: in a drain those that it leaves unstarted (R49, R404). -/
def LoopState.next (l : LoopState) : Nat := if l.draining then l.leftAt else l.pass
def LoopState.remaining (l : LoopState) : Nat := (if l.draining then l.whole else l.total) - l.next

/-- The control record (R404). PTIME is that of the stop cycle, one before the cycle that comes next. -/
def Ctx.controlRecord (c : Ctx) : List Byte :=
  let fz := if c.trap.tctx then c.trap.frozen else c.issue
  let seqs := natOfBytes (nums 2 (c.eng.seq.toList.map (·.toNat)))
  let counts := natOfBytes (nums 1 (c.eng.q.toList.map (·.length)))
  let d := c.trap.deferred.getD ⟨0#64, 0#64⟩
  let loop : List Nat := match c.loop with
    | some l => [l.body.toNat, l.remaining % 2 ^ 32 + l.next % 2 ^ 32 * 2 ^ 32, (l.len - 1) % 64 + l.stages % 8 * 2 ^ 6]
    | none => [0, 0, 0]
  nums 8 ([c.time.ptime - 1, c.time.anchor, (if c.trap.tctx then c.unfrozen else c).nextPc.toNat, c.stateWord] ++ loop ++
    [seqs, counts, d.cause.toNat, d.tval.toNat, if fz.slots ≠ 0 ∧ fz.taken = true then fz.target.toNat else 0,
     if c.trap.tctx then c.issue.pc.toNat else 0])

/-- The system register image (R408). -/
def Ctx.sysImage (c : Ctx) (v : Env) : List Byte := nums 8 ((List.range 256).map fun r => ((c.sysRead v r).getD 0#64).toNat)

/-- A border buffer entry. -/
def Border.bytes (b : Border) : List Byte := bytesOfNat 64 b.data.toNat ++ bytesOfNat 4 b.tag.toNat ++ List.replicate 60 0#8

/-- The landing records of a context, engine by engine. -/
def Ctx.landingArea (c : Ctx) : Bytes :=
  blocks 0x600 ([EngUnit.seq, .q0, .q1, .q2].map fun u => blockAt 0 (c.unitEntries (c.captured u) 0 0).flatten)

/-- The context page (R403). -/
def Ctx.contextPage (c : Ctx) (v : Env) : Bytes :=
  blockAt 0 c.norm.sBytes ++ blockAt 0x100 c.trapBank.sBytes ++ blockAt 0x200 c.norm.bBytes ++ blockAt 0x220 c.trapBank.bBytes ++
    blockAt 0x240 (nums 1 [c.norm.cNum, c.trapBank.cNum]) ++ blockAt 0x300 c.controlRecord ++
    blockAt 0x400 (nums 8 (c.fmt.queue.map (·.toNat))) ++ blockAt 0x480 (nums 8 [c.fmt.word.toNat, c.fmt.srctr.toNat]) ++
    blockAt 0x800 (c.sysImage v) ++
    shiftBlock 0x1000 (blocks 0x200 (c.borders.toList.map fun b => blocks 0x80 (b.toList.map fun e => blockAt 0 e.bytes))) ++
    shiftBlock 0x2000 (blocks 0x1000 (c.eng.q.toList.map fun q => blockAt 0 (q.flatMap QEntry.bytes))) ++
    shiftBlock 0x6000 c.landingArea

/-! Cell sections (R407). -/

/-- A ring's saved descriptor. -/
def Ring.bytes (r : Ring) : List Byte :=
  let flag (b : Bool) (k : Nat) : Nat := if b then 2 ^ k else 0
  nums 8 [r.word.toNat] ++ nums 4 [r.head.toNat, r.tail.toNat, r.ttail.toNat, r.claimed.toNat, r.nexttag.toNat, r.mark.toNat] ++
    nums 1 [r.hslot, r.fslot, r.mfslot, r.opened, flag r.conf 0 + flag r.phase 1 + flag r.spec 2 + flag r.explicit 3]

/-- A message with its tag and the two words behind it. -/
def messageBytes (data : Line) (tag : U32) (x y : Nat) : List Byte :=
  bytesOfNat 64 data.toNat ++ nums 4 [tag.toNat, x, y] ++ List.replicate 52 0#8

/-- An express port. -/
def portBytes (p : Option PortMsg) : List Byte :=
  match p with
  | some m => messageBytes m.data m.tag 1 0
  | none => List.replicate 128 0#8

/-- The section of cell n. -/
def Ctx.cellSection (c : Ctx) (n : Nat) : Bytes :=
  let x := c.cell n
  let payload (u : EngUnit) : List Byte := c.unitLines n (c.captured u)
  x.tower ++ (x.acc.flatMap fun e => blockAt (0x800000 + 4 * e.1) (bytesOfNat 4 e.2.toNat)) ++
    shiftBlock 0x840000 (unitBlocks n (c.captured .q1)) ++
    blockAt 0x860000 (x.v.toList.flatMap fun y => bytesOfNat 64 y.toNat) ++
    blockAt 0x860800 (nums 8 ((x.p.toList.set 0 (~~~0#64)).map (·.toNat))) ++
    blockAt 0x860900 (x.ports.toList.flatMap portBytes) ++
    blockAt 0x860B00 (x.send.flatMap fun m => messageBytes m.data m.tag m.dest.toNat 1) ++
    shiftBlock 0x860D00 (blocks 0x40 (x.rings.toList.map fun r => blockAt 0 r.bytes)) ++
    shiftBlock 0x861000 (blocks 0x400 (x.rings.toList.map fun r => blockAt 0 (nums 4 (r.tags.map (·.toNat))))) ++
    blockAt 0x863000 (payload .q0) ++ blockAt 0x868000 (payload .q1) ++ blockAt 0x87C000 (payload .q2)

/-! The area. -/

/-- The size of a panel block, and of an area for P panels (R400). -/
def panelBlock : Nat := 0x8840000
def areaSize (panels : Nat) : Nat := 0x10000 + panels * panelBlock

/-- The block of one panel (R402). -/
def Ctx.saveBlock (c : Ctx) (v : Env) : Bytes :=
  c.contextPage v ++ shiftBlock 0x10000 c.scratch ++ shiftBlock 0x30000 c.trapMem ++
    shiftBlock 0x40000 (blocks 0x880000 ((List.range 16).map c.cellSection))

/-- The header (R401), with the digest as given: forced says that the stop was forced. -/
def saveHeader (panels w h : Nat) (forced : Bool) (task gcyc : Nat) (flags : List U32) (digest : BitVec 512) : Bytes :=
  blockAt 0 (nums 4 [1] ++ nums 2 [panels] ++ nums 1 [w - 1 + 16 * (h - 1), if forced then 1 else 0] ++ nums 8 [task, gcyc] ++
    nums 4 [flags.length]) ++ blockAt 0x40 (bytesOfNat 64 digest.toNat) ++ blockAt 0x100 (nums 4 (flags.map (·.toNat)))

/-- The bytes of an area with its digest's bytes as zero. -/
def undigested (area : Bytes) : Bytes := area.filter fun x => decide (x.1 < 0x40) || decide (0x80 ≤ x.1)

/-- DIGEST of an area for P panels (R401). -/
def areaDigest (area : Bytes) (panels : Nat) : BitVec 512 := Config.digest (undigested area) (areaSize panels)

/-- An area with its digest. -/
def withDigest (area : Bytes) (panels : Nat) : Bytes :=
  Store.setList (undigested area) 0x40 (bytesOfNat 64 (areaDigest area panels).toNat)

end Sys2Proof.Machine
end

