-- ==== Sys2Proof/Machine/Restore.lean ====
section
/-!
DEFINITION. What a restore takes from the bytes of a save area (R288, R402 to R408). The context that was saved stands behind
the bytes for what the area does not hold: the order of its commands, and accesses and fills under way. (Log entry 36: DESIGN CHOICE.)
-/

namespace Sys2Proof.Machine

/-- n bytes of a block from an offset on, as a block of their own. -/
def cutBlock (m : Bytes) (lo n : Nat) : Bytes :=
  (m.filter fun x => decide (lo ≤ x.1) && decide (x.1 < lo + n)).map fun x => (x.1 - lo, x.2)

/-- A number of n bytes at an offset, as a bit vector. -/
def bitsAt (w : Nat) (m : Bytes) (a n : Nat) : BitVec w := BitVec.ofNat w (Store.num m a n)

/-- A count of which the area holds 32 bits. -/
def keptMod (old x : Nat) : Nat := if old % 2 ^ 32 = x then old else x

/-! The context page (R403 to R405, R408). -/

/-- A bank from its s registers, its b registers and its conditions. -/
def Bank.restored (b : Bank) (m : Bytes) (s0 b0 c0 : Nat) : Bank :=
  { s := vmap (fun k x => if k = 0 then x else bitsAt 64 m (s0 + 8 * k) 8) b.s, b := vmap (fun k _ => bitsAt 64 m (b0 + 8 * k) 8) b.b,
    c := (bitsAt 8 m c0 1 &&& 0xFE#8) ||| (b.c &&& 1#8) }

/-- Register numbers that are restored, but for those of STATUS and the trap record (R408). -/
def restoredNumbers : List Nat :=
  [0x011, 0x012] ++ List.range' 0x020 8 ++ List.range' 0x030 3 ++ List.range' 0x040 3 ++ List.range' 0x050 21 ++ List.range' 0x070 4 ++
    [0x090, 0x091, 0x0B0, 0x0B1]

/-- The code bound by a nibble of MOTBIND. -/
def bindOf (x : U64) (k : Nat) : Option (BitVec 3) := if bit x (4 * k + 3) then some (x.extractLsb' (4 * k) 3) else none

/-- A register restored from its image (R408); those that no SWR writes are set here. -/
def Ctx.sysRestore (c : Ctx) (n : Nat) (x : U64) : Ctx :=
  if n = 0x064 then { c with adj := { c.adj with mode := match fieldOf x 0 2 with | 0 => .off | 1 => .fwd | _ => .rev } }
  else if 0x070 ≤ n ∧ n < 0x074 then
    { c with motif := { c.motif with bind := vmap (fun k b => if k / 16 = n - 0x070 then bindOf x (k % 16) else b) c.motif.bind } }
  else if n = 0x090 then { c with spec := { c.spec with rings := x.extractLsb' 0 8 } }
  else if n = 0x091 then { c with spec := { c.spec with active := bit x 32, ctr := x.extractLsb' 0 32 } }
  else c.sysWrite n x

/-- The registers of a context, from the image. -/
def Ctx.registersFrom (c : Ctx) (m : Bytes) : Ctx :=
  restoredNumbers.foldl (fun c n => c.sysRestore n (bitsAt 64 m (0x800 + 8 * n) 8)) c

/-- The place of issue, from the control record (R404). -/
def Issue.restored (i : Issue) (m : Bytes) (slots : Nat) : Issue :=
  let st := bitsAt 64 m 0x318 8
  let taken := if slots = 0 then i.taken else bit st 14
  { i with pc := bitsAt 64 m 0x310 8, slots := slots, taken := taken, again := if bit st 13 then i.again else none,
           target := if slots ≠ 0 ∧ taken = true then bitsAt 64 m 0x358 8 else i.target }

/-- A hardware loop, from the control record: the next iteration and the count that remains (R49, R404). A loop whose iterations have
all begun has none that remain. -/
def LoopState.restored (l : LoopState) (m : Bytes) : LoopState :=
  let w := Store.num m 0x330 8
  let l := { l with body := bitsAt 64 m 0x320 8, len := w % 64 + 1, stages := w / 64 % 8 }
  let next := keptMod l.next (Store.num m 0x32C 4)
  let left := keptMod l.remaining (Store.num m 0x328 4)
  if l.draining then { l with leftAt := next, whole := next + left }
  else
    let total := if left = 0 ∧ l.total ≤ l.pass then l.total else next + left
    { l with pass := next, total := total, passes := if total = l.total then l.passes else total + l.stages - 1 }

/-- The hidden state of a context, from the control record (R404). -/
def Ctx.controlFrom (c : Ctx) (m : Bytes) : Ctx :=
  let st := bitsAt 64 m 0x318 8
  let slots := fieldOf st 5 2
  let t := { c.trap with tctx := bit st 0, barw := bit st 3, pacc := bit st 4,
                         deferred := if bit st 12 then some ⟨bitsAt 64 m 0x348 8, bitsAt 64 m 0x350 8⟩ else none }
  let c := { c with
    time := { c.time with ptime := Store.num m 0x300 8 + 1, anchor := Store.num m 0x308 8 }
    finished := bit st 1, committed := bit st 11, loop := if bit st 2 then c.loop.map fun (l : LoopState) => l.restored m else none
    latch := ⟨bit st 7, bit st 8, bit st 9, bit st 10⟩
    eng := { c.eng with seq := vmap (fun q _ => bitsAt 16 m (0x338 + 2 * q) 2) c.eng.seq } }
  if bit st 0 then
    { c with trap := { t with dslot := BitVec.ofNat 2 slots, frozen := c.trap.frozen.restored m c.trap.frozen.slots },
             issue := { c.issue with pc := bitsAt 64 m 0x360 8 } }
  else { c with trap := t, issue := c.issue.restored m slots }

/-- A queue entry from its 64 bytes (R405), over the one that stood there. -/
def QEntry.restored (e : QEntry) (m : Bytes) (a : Nat) : QEntry :=
  let w := bitsAt 64 m (a + 8) 8
  let f := bitsAt 64 m (a + 56) 8
  let iter := fieldOf w 32 32
  let i := match decodeWords (Store.num m a 4) (Store.num m (a + 4) 4) with | .ok i => i | .error _ => e.instr
  let x := bitsAt 64 m (a + 24) 8
  { e with
    instr := i
    seq := w.extractLsb' 0 16, due := if bit w 16 then none else some (Store.num m (a + 16) 8), trap := bit w 17
    iter := if (e.iter.map intLow32).getD 0 = iter then e.iter else some iter
    scal := if carriesB i then (0#64, x) else (x, bitsAt 64 m (a + 32) 8)
    rng := { e.rng with key := bitsAt 64 m (a + 40) 8, stream := bitsAt 32 m (a + 48) 4, ctr := bitsAt 32 m (a + 52) 4 }
    srctr := f.extractLsb' 0 32, rmode := (RMode.ofCode (f.extractLsb' 32 3)).getD e.rmode, ftz := bit f 35
    admode := match fieldOf f 36 2 with | 0 => .off | 1 => .fwd | _ => .rev }

/-- The queues of a context: as many entries of each as the control record says. -/
def Ctx.queuesFrom (c : Ctx) (m : Bytes) : Ctx :=
  let one (q : Nat) (es : List QEntry) : List QEntry :=
    mapFrom (fun i (e : QEntry) => e.restored m (0x2000 + 0x1000 * q + 64 * i)) 0 (es.take (Store.num m (0x340 + q) 1))
  { c with eng := { c.eng with q := vmap one c.eng.q } }

/-- A context from its context page (R403). -/
def Ctx.pageFrom (c : Ctx) (m : Bytes) : Ctx :=
  let c := (((c.registersFrom m).controlFrom m).queuesFrom m)
  { c with
    norm := c.norm.restored m 0 0x200 0x240
    trapBank := c.trapBank.restored m 0x100 0x220 0x241
    fmt := { c.fmt with queue := mapFrom (fun k _ => bitsAt 64 m (0x400 + 8 * k) 8) 0 c.fmt.queue, word := bitsAt 64 m 0x480 8,
                        srctr := bitsAt 32 m 0x488 4 }
    borders := vmap (fun k b => vmap (fun e _ => ⟨bitsAt 512 m (0x1000 + 0x200 * k + 0x80 * e) 64,
                                                  bitsAt 32 m (0x1000 + 0x200 * k + 0x80 * e + 64) 4⟩) b) c.borders }

/-! Cell sections (R407). -/

/-- The accumulator store from its bytes: slot and value, zeros not listed. -/
def accFrom (m : Bytes) : Store 32 :=
  let b := cutBlock m 0x800000 0x40000
  let slots := b.foldl (fun (xs : List Nat) x => if xs.getLast? = some (x.1 / 4) then xs else xs ++ [x.1 / 4]) []
  slots.map fun s => (s, bitsAt 32 b (4 * s) 4)

/-- A ring from its descriptor at a and its tags at t. -/
def Ring.restored (r : Ring) (m : Bytes) (a t : Nat) : Ring :=
  let w := bitsAt 64 m a 8
  let f := bitsAt 8 m (a + 36) 1
  let conf := f.getLsbD 0
  let n := if conf then fieldOf w 32 8 + 1 else r.count
  { r with
    conf := conf, explicit := f.getLsbD 3, phase := f.getLsbD 1, spec := f.getLsbD 2
    base := if conf then fieldOf w 0 23 else r.base, size := if conf then fieldOf w 24 8 + 1 else r.size, count := n
    head := bitsAt 32 m (a + 8) 4, tail := bitsAt 32 m (a + 12) 4, ttail := bitsAt 32 m (a + 16) 4, claimed := bitsAt 32 m (a + 20) 4
    nexttag := bitsAt 32 m (a + 24) 4, mark := bitsAt 32 m (a + 28) 4
    hslot := Store.num m (a + 32) 1, fslot := Store.num m (a + 33) 1, mfslot := Store.num m (a + 34) 1, opened := Store.num m (a + 35) 1
    tags := if conf then (List.range n).map fun s => bitsAt 32 m (t + 4 * s) 4 else r.tags }

/-- A cell from its section. -/
def Cell.restored (x : Cell) (m : Bytes) : Cell :=
  { x with
    tower := cutBlock m 0 0x800000, acc := accFrom m
    v := vmap (fun r _ => bitsAt 512 m (0x860000 + 64 * r) 64) x.v
    p := vmap (fun r y => if r = 0 then y else bitsAt 64 m (0x860800 + 8 * r) 8) x.p
    ports := vmap (fun k _ =>
      let a := 0x860900 + 0x80 * k
      if Store.num m (a + 68) 4 = 1 then some ⟨bitsAt 512 m a 64, bitsAt 32 m (a + 64) 4⟩ else none) x.ports
    send := mapFrom (fun k (y : SendMsg) =>
      let a := 0x860B00 + 0x80 * k
      { y with data := bitsAt 512 m a 64, tag := bitsAt 32 m (a + 64) 4, dest := bitsAt 32 m (a + 68) 4 }) 0
      (mapFrom (fun k y => (k, y)) 0 x.send |>.filter (fun y => Store.num m (0x860B00 + 0x80 * y.1 + 72) 4 == 1) |>.map (·.2))
    rings := vmap (fun k r => r.restored m (0x860D00 + 0x40 * k) (0x861000 + 0x400 * k)) x.rings }

/-! Landing records (R272, R273, R406, R407). -/

/-- A landing entry, with the place in program order and the context of the command whose writes it holds. -/
structure AreaEntry where
  word : Nat
  due : Nat
  x : Nat
  flags : Nat
  unit : EngUnit
  ord : Nat
  trap : Bool
  deriving DecidableEq, Repr

/-- The units whose landing records an area holds, with the places of their records and of their lines in the payload store. -/
def areaUnits : List (EngUnit × Nat × Nat) :=
  [(.seq, 0x6000, 0x863000), (.q0, 0x6600, 0x863000), (.q1, 0x6C00, 0x868000), (.q2, 0x7200, 0x87C000)]

/-- The places in program order, and the contexts, of the entries of a unit's landing record. -/
def Ctx.entryOrds (c : Ctx) (u : EngUnit) : List (Nat × Bool) :=
  (c.captured u).flatMap fun k =>
    List.replicate (k.entries c 0 0).length (k.ord, k.landings.any (·.trap) || k.ops.any (·.trap))

/-- The landing record of a unit at offset a of the context page: its entries, of which none is all zero. -/
def Ctx.areaEntries (c : Ctx) (m : Bytes) (u : EngUnit) (a : Nat) : List AreaEntry :=
  let ords := c.entryOrds u
  (mapFrom (fun k (_ : Unit) =>
    let b := a + 32 * k
    let o := (ords[k]?).getD (c.ord, false)
    ({ word := Store.num m b 8, due := Store.num m (b + 8) 8, x := Store.num m (b + 16) 8, flags := Store.num m (b + 24) 8,
       unit := u, ord := o.1, trap := o.2 } : AreaEntry)) 0 (List.replicate 48 ())).takeWhile fun e => e.word != 0 || e.due != 0 || e.x != 0

/-- The landing of a write of an entry. -/
def AreaEntry.lands (e : AreaEntry) (due : Nat) (w : Write) : Landing := ⟨e.ord, e.unit, due, e.trap, w, .zero⟩

/-- One line of an entry in a cell. -/
structure AreaLine where
  cell : Nat
  data : Line
  mask : BitVec 64
  dest : Nat
  due : Nat
  deriving DecidableEq, Repr

/-- The lines of an entry: those that write something, cell by cell; sections gives the section of a cell, and a the first line slot of
the unit. -/
def AreaEntry.lines (e : AreaEntry) (sections : Nat → Bytes) (a : Nat) : List AreaLine :=
  if e.word % 16 ≠ 3 then []
  else
    (List.range 16).flatMap fun n =>
      let m := sections n
      ((List.range (e.x / 2 ^ 16 % 2 ^ 16)).map fun j =>
        let b := a + 80 * (e.x % 2 ^ 16 + j)
        let w := Store.num m (b + 72) 8
        (⟨n, bitsAt 512 m b 64, bitsAt 64 m (b + 64) 8, w, e.due - w / 2 ^ 48⟩ : AreaLine)).filter fun l => l.mask != 0#64

/-- The slots that the accumulator block of an entry covers: M times N, or whole tiles for MZERO (R406). -/
def AreaEntry.blockSize (e : AreaEntry) : Nat :=
  let n : BitVec 6 := BitVec.ofNat 6 (e.word / 2 ^ 18)
  if e.word / 2 ^ 24 % 4 = 2 then 1024 * (n.toNat + 1) else rowsOf (BitVec.ofNat 2 (e.word / 2 ^ 16)) * colsOf n

/-- The landings of an entry that has no lines: a register, or an accumulator block in the cells of the command. -/
def AreaEntry.single (e : AreaEntry) (c : Ctx) (sections : Nat → Bytes) : List Landing :=
  let r := e.word / 2 ^ 8 % 2 ^ 8
  match e.word % 16 with
  | 0 => [e.lands e.due (.s (BitVec.ofNat 5 r) (u64 e.x))]
  | 1 => [e.lands e.due (.b (BitVec.ofNat 2 r) (u64 e.x))]
  | 2 => [e.lands e.due (.c (BitVec.ofNat 3 r) (e.x % 2 == 1))]
  | 4 =>
    let lo := 1024 * r
    let cells := (List.range 16).filter fun n => c.landings.any fun l => l.ord == e.ord &&
      match l.write with | .acc k _ _ | .accZero k _ _ => k == n | _ => false
    let buf := 0x840000 + 0x10000 * (e.word / 2 ^ 26 % 2)
    (if cells.isEmpty then List.range 16 else cells).map fun n =>
      e.lands e.due (if e.word / 2 ^ 25 % 2 = 1 then .accZero n lo e.blockSize
        else .acc n lo ((List.range e.blockSize).map fun k => bitsAt 32 (sections n) (buf + 4 * k) 4))
  | _ => []

/-- The sticky flags of an entry, which are set when its last write is due (R104, R406). -/
def AreaEntry.flagged (e : AreaEntry) : List Landing :=
  let b (k : Nat) : Bool := e.flags / 2 ^ k % 2 == 1
  if e.flags = 0 then [] else [⟨e.ord, e.unit, e.due, e.trap, .flagsOnly, ⟨b 0, b 1, b 2, b 3⟩⟩]

/-- The write of a line to a register. -/
def AreaLine.write (l : AreaLine) : Option Write :=
  let r : Reg := BitVec.ofNat 5 (l.dest / 2 ^ 8)
  match l.dest % 8 with
  | 0 => some (.v l.cell r l.data l.mask)
  | 1 => some (.p l.cell r (l.data.extractLsb' 0 64))
  | _ => none

/-- The tower access of a line that goes to the tower, which stands at place k of its command. -/
def AreaLine.towerOp (l : AreaLine) (e : AreaEntry) (k : Nat) : Option TowerOp :=
  if l.dest % 8 ≠ 2 then none
  else some { ord := e.ord, rank := k, cell := l.cell, cycle := l.due, trap := e.trap, unit := e.unit, off := l.dest / 2 ^ 16 % 2 ^ 23,
              act := if e.unit = .q1 then .matrixWrite l.data l.mask else .write l.data l.mask }

/-- What a new value changes. -/
def changedTo {α : Type} [DecidableEq α] (old new : α) : Option α := if new = old then none else some new

/-- What a ring update changes in a ring as the changes before it leave it. -/
def Ring.changeTo (r : Ring) (x : Line) : RingChange :=
  let w (k : Nat) : U32 := x.extractLsb' (32 * k) 32
  let slot := (x.extractLsb' 200 8).toNat
  { head := changedTo r.head (w 0), tail := changedTo r.tail (w 1), ttail := changedTo r.ttail (w 2), claimed := changedTo r.claimed (w 3)
    nexttag := changedTo r.nexttag (w 4), hslot := changedTo r.hslot (x.extractLsb' 192 8).toNat
    tag := if r.tag slot = w 5 then none else some (slot, w 5) }

/-- The landings of the ring updates of a ring, in the order in which they are due: each with what it changes. -/
def ringLandings (n m : Nat) : Ring → List (AreaEntry × AreaLine) → List Landing
  | _, [] => []
  | r, x :: xs =>
    let y := r.changeTo x.2.data
    x.1.lands x.2.due (.ringTo n m y x.1.ord) :: ringLandings n m (r.take y x.1.ord) xs

/-- The ring updates among some lines. -/
def Ctx.ringsFrom (c : Ctx) (xs : List (AreaEntry × AreaLine)) : List Landing :=
  (List.range 16).flatMap fun n => (List.range 8).flatMap fun m =>
    let mine := xs.filter fun x => x.2.cell == n && x.2.dest % 8 == 3 && x.2.dest / 2 ^ 8 % 2 ^ 8 == m
    ringLandings n m ((c.cell n).ring m)
      (mine.mergeSort fun x y => decide (x.2.due < y.2.due) || (x.2.due == y.2.due && decide (x.1.ord ≤ y.1.ord)))

/-- A landing that no field of an area can hold: the emptying of a port, a check, and flags alone (R272, R406). -/
def Landing.unheld (l : Landing) : Bool :=
  l.unit == .q3 || match l.write with | .portEmpty _ _ | .checksum _ _ | .flagsOnly => true | _ => false

/-- The captured writes of a context, from its landing records, the payload store and the landing buffer: old is the context as it was
saved, m its context page (R406, R407). -/
def Ctx.landingsFrom (c old : Ctx) (m : Bytes) (sections : Nat → Bytes) : Ctx :=
  let entries := areaUnits.flatMap fun u => (old.areaEntries m u.1 u.2.1).map fun e => (e, u.2.2)
  let lines := entries.flatMap fun e => (e.1.lines sections e.2).map fun l => (e.1, l)
  { c with
    landings := c.landings.filter Landing.unheld ++ entries.flatMap (fun e => e.1.single old sections) ++
      lines.filterMap (fun x => x.2.write.map (x.1.lands x.2.due)) ++ c.ringsFrom lines ++ entries.flatMap (fun e => e.1.flagged)
    towerOps := c.towerOps.filter (fun o => o.unit == .q3 || !o.writes) ++ (mapFrom (fun k x => (k, x)) 0 lines).filterMap fun y => y.2.2.towerOp y.2.1 y.1 }

/-- A context from its panel block (R402). -/
def Ctx.blockFrom (c : Ctx) (m : Bytes) : Ctx :=
  let page := cutBlock m 0 0x10000
  let sections (n : Nat) : Bytes := cutBlock m (0x40000 + 0x880000 * n) 0x880000
  let d := c.pageFrom page
  let d := { d with scratch := cutBlock m 0x10000 0x20000, trapMem := cutBlock m 0x30000 8192 }
  (d.mapCells fun n x => x.restored (sections n)).landingsFrom c page sections

/-- A context from its area (R401, R402). -/
def Ctx.areaFrom (c : Ctx) (area : Bytes) : Ctx := c.blockFrom (cutBlock area (0x10000 + panelBlock * c.index) panelBlock)

/-- FORCED of an area, and its flags (R401). -/
def areaForced (area : Bytes) : Bool := (bitsAt 8 area 7 1).getLsbD 0
def areaFlags (area : Bytes) (n : Nat) : List U32 := (List.range n).map fun f => bitsAt 32 area (0x100 + 4 * f) 4

end Sys2Proof.Machine
end

