-- ==== Sys2Proof/Machine/Completion.lean ====
section
/-!
DEFINITION. Pages as the queue readers and the steward meet them (R393, R396), packets by number, and completion records
(R369, R370).
-/

namespace Sys2Proof.Machine

/-! Pages. -/

/-- What an agent beside the sequencers finds at an address. -/
inductive Page where
  | leaf (pa : Nat) (bits : U64)
  /-- the page is not present and the steward has been asked for it: the notice, none while there is no room for one -/
  | wait (k : Option (Nat × Nat))
  /-- it cannot be served -/
  | gone
  deriving DecidableEq, Repr

/-- A notice that has been answered neither by the driver nor by FAULTLIM. -/
def State.awaits (s : State) (k : Nat) : Bool := s.fleet.notices.any fun n => n.number == k && !n.expired

/-- The page of a virtual address in sheet 0's unit, which serves the queue readers (R393); asked is a notice already posted and
its page, which cannot be served when it is still absent after the reply (R396). -/
def State.page (s : State) (va : U64) (access : Nat) (asked : Option (Nat × Nat)) : Page × State :=
  let pg := va.toNat / 65536
  if va.extractLsb' 56 8 ≠ 0#8 ∨ isLocal va = true then (.gone, s)
  else if asked.any fun k => s.awaits k.1 then (.wait asked, s)
  else
    let r := s.translate 0 false va.toNat
    match r.1 with
    | .leaf pa bits => (.leaf pa bits, r.2)
    | .invalid => (.gone, r.2)
    | .absent level =>
      if asked.any fun k => k.2 == pg then (.gone, r.2)
      else
        let q := r.2.askPage va access 0xFF 0 level
        (.wait (q.1.map fun k => (k, pg)), q.2)

/-- What an agent beside the sequencers reads of a range. -/
inductive Fetch where
  | bytes (xs : List Byte)
  | wait (k : Option (Nat × Nat))
  | gone
  deriving DecidableEq, Repr

/-- Read n bytes from a virtual address, page by page, through die 0's view; at most k pages. -/
def State.fetch (s : State) (asked : Option (Nat × Nat)) : Nat → U64 → Nat → Fetch × State
  | 0, _, _ => (.bytes [], s)
  | k + 1, va, n =>
    if n = 0 then (.bytes [], s)
    else
      let r := s.page va 0 asked
      match r.1 with
      | .leaf pa bits =>
        let m := Nat.min n (65536 - va.toNat % 65536)
        let xs := r.2.readBytes 0 .steward (leafHost bits) pa m
        match r.2.fetch asked k (va + u64 m) (n - m) with
        | (.bytes ys, s) => (.bytes (xs ++ ys), s)
        | q => q
      | .wait q => (.wait q, r.2)
      | .gone => (.gone, r.2)

/-- Read n bytes from a virtual address. -/
def State.fetchBytes (s : State) (asked : Option (Nat × Nat)) (va : U64) (n : Nat) : Fetch × State := s.fetch asked (n / 65536 + 2) va n

/-! Packets. -/

/-- A number in a packet. -/
def Packet.num (p : Packet) (lo n : Nat) : Nat := natOfBytes ((p.bytes.drop lo).take n)
/-- The header's fields (R364). -/
def Packet.kind (p : Packet) : Nat := p.num 2 1
def Packet.conc (p : Packet) : Bool := bit (u64 (p.num 0 8)) 24
def Packet.irq (p : Packet) : Bool := bit (u64 (p.num 0 8)) 25
def Packet.tag (p : Packet) : Nat := p.num 4 4
def Packet.comp (p : Packet) : Nat := p.num 8 8

/-- A packet that has been accepted and has not completed. -/
def State.packet? (s : State) (id : Nat) : Option Packet := s.packets.find? fun p => p.id == id

/-- The oldest packet of queue q with running count k of which a condition holds. -/
def State.packetAt? (s : State) (q k : Nat) (ok : Packet → Bool) : Option Packet :=
  s.packets.find? fun p => p.queue == q && p.count.toNat == k && ok p

/-- The package with a packet replaced. -/
def State.putPacket (s : State) (p : Packet) : State := { s with packets := s.packets.map fun x => if x.id = p.id then p else x }

/-! Completion (R369, R370). -/

/-- A packet's effect is complete: its record is to be written with this status, code and detail, and the TASKID of a task. -/
def State.finishPacket (s : State) (id status code detail task : Nat) : State :=
  match s.packet? id with
  | some p => if p.result.isSome then s else s.putPacket { p with result := some (status, code, detail, task), asked := none }
  | none => s

/-- Bytes 0 to 23 of a completion record (R369). -/
def Packet.record (p : Packet) (r : Nat × Nat × Nat × Nat) (gcyc : Nat) : List Byte :=
  bytesOfNat 1 r.1 ++ bytesOfNat 1 r.2.1 ++ bytesOfNat 2 0 ++ bytesOfNat 4 r.2.2.1 ++ bytesOfNat 4 p.tag ++
    bytesOfNat 4 (r.2.2.2 % 2 ^ 32) ++ bytesOfNat 8 gcyc

/-- Bytes 24 to 31 of a completion record. -/
def Packet.doneWord (p : Packet) : List Byte := bytesOfNat 8 (1 + p.num 0 2 * 2 ^ 32)

/-- A write whose effect a packet's record comes after: the task's own, those of its jobs, and the steward's. -/
def Agent.within (a : Agent) (task : Nat) : Bool :=
  match a with
  | .panel _ t => t == task
  | .job _ t _ => t == task
  | .steward => true
  | .host | .span => false

/-- The writes that a context, or a job of its, has made or read. -/
def Ctx.pastIds (c : Ctx) : List Nat := c.glob.past.flatMap (fun q => q.writes) ++ c.glob.seen

/-- The writes that what a task does is ordered after: its own, those of its jobs, and those that they have read (R86, R91). -/
def State.taskIds (s : State) (task : Nat) : List Nat :=
  ((s.writes.filter fun w => w.agent.within task).map (·.id)) ++
    (s.ctxs.filter fun c => c.id.taskId.toNat == task).flatMap Ctx.pastIds

/-- A part of a completion record's bytes that lies in one page: the offset of the part in the record, its length, and its place. -/
structure RecordPart where
  off : Nat
  len : Nat
  pa : Nat
  host : Bool
  deriving DecidableEq, Repr

/-- Bytes of a record from offset k on, written where the part that holds them lies: a release at system scope (R369). -/
def State.writePart (s : State) (task k : Nat) (xs : List Byte) (part : RecordPart) : State :=
  let lo := Nat.max k part.off
  let hi := Nat.min (k + xs.length) (part.off + part.len)
  if hi ≤ lo then s
  else
    s.perform { agent := .steward, view := 0, onHost := part.host, addr := part.pa + (lo - part.off), data := (xs.drop (lo - k)).take (hi - lo),
                needs := (s.taskIds task).map fun w => (w, allViews), together := allViews }

/-- The two writes of a completion record, each a release at system scope (R369). -/
def State.writeRecord (s : State) (p : Packet) (r : Nat × Nat × Nat × Nat) (parts : List RecordPart) : State :=
  let head := p.record r s.gcyc
  let s := parts.foldl (fun s x => s.writePart r.2.2.2 0 head x) s
  parts.foldl (fun s x => s.writePart r.2.2.2 24 p.doneWord x) s

/-- A packet leaves: its MSI-X message follows its record (R364, R369). -/
def State.dropPacket (s : State) (p : Packet) : State :=
  let s := { s with packets := s.packets.filter fun x => x.id != p.id }
  if p.irq && (s.queue p.queue).irqEn then s.emit (.msix p.queue) else s

/-- The pages of a completion record: of one, or of two where it crosses the end of a page. -/
def Packet.recordPages (p : Packet) : List (Nat × Nat) :=
  let first := Nat.min 32 (65536 - p.comp % 65536)
  if first = 32 then [(0, 32)] else [(0, first), (first, 32 - first)]

/-- What comes of looking for the pages of a record. -/
inductive RecordPlace where
  | parts (xs : List RecordPart)
  | wait (k : Option (Nat × Nat))
  | gone
  deriving DecidableEq, Repr

/-- The places of the parts of a record at offsets and lengths as given; each page must be there and writable. -/
def State.recordParts (s : State) (p : Packet) : List (Nat × Nat) → RecordPlace × State
  | [] => (.parts [], s)
  | x :: xs =>
    let q := s.page (u64 (p.comp + x.1)) 1 p.asked
    match q.1 with
    | .wait k => (.wait k, q.2)
    | .gone => (.gone, q.2)
    | .leaf pa bits =>
      if !leafWritable bits then (.gone, q.2)
      else
        match q.2.recordParts p xs with
        | (.parts ys, s) => (.parts (⟨x.1, x.2, pa, leafHost bits⟩ :: ys), s)
        | r => r

/-- Write the record of a packet whose effect is complete, once its pages are there; pages that cannot be written are passed over.
(Log entry 33: DEDUCED.) Without a record the completion is still a release at package scope (R91). -/
def State.complete (s : State) (p : Packet) : State :=
  match p.result with
  | none => s
  | some r =>
    let without (s : State) : State := (s.settle 0x0F#5 (s.taskIds r.2.2.2)).dropPacket p
    if p.comp = 0 then without s
    else
      match s.recordParts p p.recordPages with
      | (.parts xs, s) => (s.writeRecord p r xs).dropPacket p
      | (.wait k, s) => s.putPacket { p with asked := k }
      | (.gone, s) => without s

end Sys2Proof.Machine
end

