-- ==== Sys2Proof/Machine/Jobs.lean ====
section
/-!
DEFINITION. The column engines: jobs from their hand-over to their retirement (R229 to R239, R243, R255, R374), and the
update stage (R236).

A job takes small steps. In each it reads bytes of its card, gathers or spreads some elements, or moves lines into or out of
towers in idle bank cycles; how long it waits between two steps is the device's (R14).
-/

namespace Sys2Proof.Machine

/-! The card (R230 to R236). -/

/-- A number in the card. -/
def Job.num (j : Job) (lo n : Nat) : Nat := natOfBytes ((j.card.drop lo).take n)
/-- A field of CTRL, COMPLETE or TOWER. -/
def Job.ctrl (j : Job) (lo n : Nat) : Nat := j.num 0 8 / 2 ^ lo % 2 ^ n
def Job.done (j : Job) (lo n : Nat) : Nat := j.num 8 8 / 2 ^ lo % 2 ^ n
def Job.tow (j : Job) (lo n : Nat) : Nat := j.num 16 8 / 2 ^ lo % 2 ^ n

/-- The types of the global side and of the towers (R231). -/
def Job.gty (j : Job) : Ty := tyOf (BitVec.ofNat 4 (j.ctrl 0 4))
def Job.tty (j : Job) : Ty := tyOf (BitVec.ofNat 4 (j.ctrl 4 4))
def Job.ftz (j : Job) : Bool := j.ctrl 11 1 == 1
def Job.mode (j : Job) : RMode := (RMode.ofCode (BitVec.ofNat 3 (j.ctrl 8 3))).getD .rne
def Job.dims (j : Job) : Nat := j.ctrl 12 3 + 1
def Job.upd (j : Job) : Bool := j.ctrl 18 1 == 1
def Job.remote (j : Job) : Bool := j.ctrl 19 1 == 1
/-- The scope, and the flag, of the completion action (R237). -/
def Job.scope (j : Job) : BitVec 3 := BitVec.ofNat 3 (j.done 9 3)
def Job.acts (j : Job) : Bool := j.done 8 1 == 1

/-- An extent; the one of a COPY is its length (R368). -/
def Job.extent (j : Job) (k : Nat) : Nat := if j.packet.isSome then j.num 32 8 else j.num (32 + 4 * k) 4
/-- Strides of the GBASE walk and of the GBASE2 walk, in elements. -/
def Job.stride (j : Job) (k : Nat) : Int := intOf true 64 (j.num (64 + 8 * k) 8)
def Job.stride2 (j : Job) (k : Nat) : Int := intOf true 64 (j.num (136 + 8 * k) 8)
def Job.gbase (j : Job) : Nat := j.num 24 8
def Job.gbase2 (j : Job) : Nat := j.num 128 8
def Job.gbase3 (j : Job) : Nat := j.num 200 8
/-- CGATH's table row count (R234). -/
def Job.rows (j : Job) : Int := j.stride2 0

/-- The product of n extents from k on. -/
def Job.product (j : Job) : Nat → Nat → Nat
  | 0, _ => 1
  | n + 1, k => j.extent k * j.product n (k + 1)

/-- The number of elements of the walk. -/
def Job.total (j : Job) : Nat := j.product j.dims 0

/-- The cells of CELLMASK, ascending (R232). -/
def Job.cells (j : Job) : List Nat := (List.range 16).filter fun n => j.tow n 1 == 1
def Job.scatter (j : Job) : Bool := j.tow 16 1 == 1
def Job.toRing (j : Job) : Bool := j.tow 17 1 == 1
def Job.ringNo (j : Job) : Nat := j.tow 18 3
def Job.offset (j : Job) : Nat := j.tow 21 23
/-- Chunk size in bytes, and in elements (R232, R233). -/
def Job.chunkBytes (j : Job) : Nat := 64 * (j.tow 44 12 + 1)
def Job.chunkElems (j : Job) : Nat := j.chunkBytes * 8 / j.tty.width

/-- The forms (R234). -/
def Job.isFill (j : Job) : Bool := j.form == 0 || j.form == 3
def Job.isCopy (j : Job) : Bool := j.form == 4
def Job.isRed (j : Job) : Bool := j.form == 5

/-- The words of COMPLETE, TOWER and the tail of the card that a card may not hold (R230 to R237). -/
def Job.cardBad (j : Job) (flagSize : Nat) : Bool :=
  let ty (x : Nat) : Bool := decide (x ≥ 14)
  let g := j.ctrl 0 4
  let t := j.ctrl 4 4
  let ctrl := j.ctrl 33 31 != 0 || (!j.remote && (j.ctrl 20 13 != 0)) || (j.remote && !j.isCopy) || (j.upd && j.form != 1) ||
    (if j.isRed then decide (3 ≤ j.ctrl 15 3) else j.ctrl 15 3 != 0) || decide (4 ≤ j.ctrl 8 3) || ty g || ty t
  let complete := j.done 12 20 != 0 || decide (5 ≤ j.done 9 3) || (j.acts && decide (flagSize ≤ j.done 0 8)) ||
    (j.remote && j.acts && j.done 9 3 != 4)
  let tower :=
    if j.isCopy then j.num 16 8 != 0
    else
      j.tow 56 8 != 0 || j.tow 21 6 != 0 || (!j.toRing && j.ringNo != 0) || (!j.scatter && (j.form == 1 || j.form == 2)) ||
        j.tow 0 16 == 0
  let types :=
    (j.isRed && !(g == 8 || g == 4 || g == 5)) || (j.upd && !((g == 8 || g == 7) && (t == 8 || t == 7 || t == 6)))
  let second :=
    if j.form == 0 || j.isRed || (j.form == 1 && !j.upd) then j.num 128 8 != 0 || j.num 136 64 != 0
    else j.form == 3 && j.num 144 56 != 0
  let tail := decide (3 ≤ j.num 228 4) || j.num 232 24 != 0
  let sizes := (List.range j.dims).any fun k => j.extent k == 0
  ctrl || complete || tower || types || second || tail || sizes

/-! Walks (R233). -/

/-- The offset, in elements, of element n of a walk over d dimensions from k on. -/
def walkOff (ext : Nat → Nat) (str : Nat → Int) : Nat → Nat → Nat → Int
  | 0, _, _ => 0
  | d + 1, k, n => ((n % ext k : Nat) : Int) * str k + walkOff ext str d (k + 1) (n / ext k)

/-- A place in global memory: an address, and which nibble of its byte. -/
structure Spot where
  va : U64
  high : Bool
  deriving DecidableEq, Repr

/-- The place of an element of w bits, off elements from a base (R233). -/
def spotOf (base : Nat) (off : Int) (w : Nat) : Spot :=
  let b : Int := 8 * base + off * w
  ⟨BitVec.ofInt 64 (b / 8), decide (b % 8 = 4)⟩

/-- The place of element n of the GBASE walk, and of the GBASE2 walk, as elements of w bits. -/
def Job.spot (j : Job) (n w : Nat) : Spot := spotOf j.gbase (walkOff j.extent j.stride j.dims 0 n) w
def Job.spot2 (j : Job) (n w : Nat) : Spot := spotOf j.gbase2 (walkOff j.extent j.stride2 j.dims 0 n) w
def Job.spot3 (j : Job) (n w : Nat) : Spot := spotOf j.gbase3 (walkOff j.extent j.stride2 j.dims 0 n) w

/-- The least and the greatest offset of a walk, in elements. -/
def walkBounds (ext : Nat → Nat) (str : Nat → Int) : Nat → Nat → Int × Int
  | 0, _ => (0, 0)
  | d + 1, k =>
    let r := walkBounds ext str d (k + 1)
    let x := ((ext k - 1 : Nat) : Int) * str k
    (r.1 + min 0 x, r.2 + max 0 x)

/-- The region from the lowest to the highest byte that a walk touches (R239). -/
def walkRegion (rights base w : Nat) (ext : Nat → Nat) (str : Nat → Int) (d : Nat) : Region :=
  let r := walkBounds ext str d 0
  let lo : Int := (8 * base + r.1 * w) / 8
  let hi : Int := (8 * base + r.2 * w + w - 1) / 8
  ⟨rights, (BitVec.ofInt 64 lo).toNat, (hi + 1 - lo).toNat⟩

/-- The footprint of a job (R239). -/
def Job.footprint (j : Job) : List Region :=
  let g := j.gty.width
  let walk (rights : Nat) : Region := walkRegion rights j.gbase g j.extent j.stride j.dims
  let moment (base : Nat) : Region := walkRegion 2 base 32 j.extent j.stride2 j.dims
  match j.form with
  | 0 => [walk 1]
  | 1 =>
    if j.upd then
      let op := j.num 228 4 % 8
      [walk 2] ++ (if op = 0 then [] else [moment j.gbase2]) ++ (if op = 2 then [moment j.gbase3] else [])
    else [walk 2]
  | 2 => [walk 2, walkRegion 2 j.gbase2 g j.extent j.stride2 j.dims]
  | 3 =>
    let last := j.dims - 1
    let ext (k : Nat) : Nat := if k = last then j.rows.toNat else j.extent k
    [⟨1, j.gbase2, 4 * j.extent last⟩, walkRegion 1 j.gbase g ext j.stride j.dims]
  | 4 =>
    let dst := walkRegion 2 j.gbase2 j.tty.width j.extent j.stride2 j.dims
    if j.remote then [walk 1] else [walk 1, dst]
  | _ => [walk 3]

/-- The parts of a region below and above len bytes from base. -/
def Region.outside (base len : Nat) (r : Region) : List Region :=
  let below := Nat.min (r.start + r.len) base
  let above := Nat.max r.start (base + len)
  (if r.start < below then [⟨r.rights, r.start, below - r.start⟩] else []) ++
    (if above < r.start + r.len then [⟨r.rights, above, r.start + r.len - above⟩] else [])

/-- The shadow image of a walk in the global regions of a context (R255): reduce rights there take the place of read rights on
the walk, whose bytes outside the regions stay read. -/
def Ctx.revFootprint (c : Ctx) (foot : List Region) : List Region :=
  foot.flatMap fun r =>
    let hits := c.adj.regions.filter fun (d : DRegion) => d.global && rangesMeet (d.base : Int) d.len (r.start : Int) r.len
    hits.foldl (fun rs d => rs.flatMap (Region.outside d.base d.len)) [r] ++ hits.map fun d =>
      let lo := Nat.max d.base r.start
      let hi := Nat.min (d.base + d.len) (r.start + r.len)
      ⟨3, (d.shadow + (((lo - d.base) * 4 / d.ew : Nat) : Int)).toNat, (hi - lo) * 4 / d.ew⟩

/-- Two regions conflict (R91). -/
def Region.conflicts (x y : Region) : Bool :=
  decide (x.start < y.start + y.len) && decide (y.start < x.start + x.len) && (x.rights != 1 || y.rights != 1)

/-- Two footprints conflict. -/
def footsMeet (xs ys : List Region) : Bool := xs.any fun x => ys.any fun y => x.conflicts y

/-! A job at work: the package and the job, which is put back into its sheet when the step ends. -/

/-- The package with a job replaced. -/
def State.putJob (s : State) (sh : Nat) (j : Job) : State :=
  let x := s.sheet sh
  s.putSheet sh { x with jobs := x.jobs.map fun i => if i.id = j.id then j else i }

/-- The package without a job. -/
def State.dropJob (s : State) (sh : Nat) (j : Job) : State :=
  let x := s.sheet sh
  s.putSheet sh { x with jobs := x.jobs.filter fun i => i.id != j.id }

/-- Job k of a sheet. -/
def State.job? (s : State) (sh k : Nat) : Option Job := (s.sheet sh).jobs.find? fun j => j.id == k

/-- The package and a job under way. -/
structure Work where
  s : State
  sh : Nat
  j : Job

/-- The outcome of a part of a step. -/
inductive Got (α : Type) where
  | ok (x : α)
  /-- the job waits, or has a fault -/
  | stop

/-- The agent that a job is (R80). -/
def State.jobAgent (s : State) (j : Job) : Agent :=
  match j.panel.bind s.ctx? with
  | some c => .job j.id c.id.taskId.toNat c.index
  | none => .job j.id 0 0

/-- The job with a fault (R238). -/
def Work.faulted (w : Work) (code sub : BitVec 8) (t : U64) : Work :=
  { w with j := { w.j with fault := some (code, sub, t) } }

/-- What an access of a job needs of its page (R392). -/
inductive JobAccess where
  | read | write | reduce | shadow
  deriving DecidableEq, Repr

/-- The kind of an access as a notice names it (R398). -/
def JobAccess.code : JobAccess → Nat
  | .read => 0
  | .write => 1
  | .reduce => 2
  | .shadow => 4

/-- A leaf grants an access of a job (R92, R255, R392). -/
def JobAccess.granted (a : JobAccess) (leaf : U64) : Bool :=
  match a with
  | .read => true
  | .write => leafWritable leaf
  | .reduce => leafWritable leaf && !leafHost leaf
  | .shadow => leafWritable leaf && leafDiff leaf && !leafHost leaf

/-- The place in memory of an access of width bytes (R238, R396): physical address, host memory or not. A page that the steward
was asked for and refused, or that is still absent after its reply, is a fault. An address that is misaligned and also in the
local window is misaligned. (Log entry 81: DESIGN CHOICE.) -/
def Work.place (w : Work) (va : U64) (width : Nat) (a : JobAccess) : Got (Nat × Bool) × Work :=
  let mine : Bool := va.toNat / 65536 == w.j.asked.toNat / 65536
  if va.extractLsb' 56 8 ≠ 0#8 then (.stop, w.faulted causeProtection 0#8 va)
  else if va.toNat % width ≠ 0 then (.stop, w.faulted causeMisaligned 0#8 va)
  else if isLocal va then (.stop, w.faulted causeProtection 0#8 va)
  else if mine && w.j.walk == .refused causeTranslation then (.stop, w.faulted causeTranslation 0#8 va)
  else
    let r := w.s.translate w.sh false va.toNat
    let w := { w with s := r.2 }
    match r.1 with
    | .leaf pa leaf =>
      if a.granted leaf then
        (.ok (pa, leafHost leaf), if mine then { w with j := { w.j with walk := .walking, again := false } } else w)
      else (.stop, w.faulted causeProtection 0#8 va)
    | .invalid => (.stop, w.faulted causeTranslation 0#8 va)
    | .absent level =>
      if mine && w.j.again then (.stop, w.faulted causeTranslation 0#8 va)
      else
        let q := w.s.askPage va a.code 0xFF w.sh level
        (.stop, { w with s := q.2, j := { w.j with asked := va, again := false, walk := match q.1 with | some k => .notice k | none => .posting } })

/-! Pieces (R82): the bytes that a job writes inside one aligned piece are performed as one write. A piece leaves when it is full, or
when the job ends. (Log entry 86: DESIGN CHOICE.) -/

/-- A write of a job's is performed. -/
def Work.perform (w : Work) (host : Bool) (addr : Nat) (data : List Byte) (holes : List Nat) : Work :=
  { w with s := w.s.perform { agent := w.s.jobAgent w.j, view := w.sh / 2, onHost := host, addr := addr, data := data, holes := holes } }

/-- The bytes of a piece from place k on, as runs without a hole: address and data. -/
def OutPiece.runs : Nat → List (Option Byte) → List (Nat × List Byte)
  | _, [] => []
  | k, none :: xs => OutPiece.runs (k + 1) xs
  | k, some x :: xs =>
    match OutPiece.runs (k + 1) xs with
    | (a, ys) :: rs => if a = k + 1 then (k, x :: ys) :: rs else (k, [x]) :: (a, ys) :: rs
    | [] => [(k, [x])]

/-- A piece with a byte written. -/
def OutPiece.set (p : OutPiece) (a : Nat) (x : Byte) : OutPiece := { p with bytes := p.bytes.set (a - p.base) (some x) }

/-- The byte that a piece holds at an address. -/
def OutPiece.at? (p : OutPiece) (host : Bool) (a : Nat) : Option Byte :=
  if p.host = host ∧ p.base ≤ a then (p.bytes.getD (a - p.base) none) else none

/-- A link that is up, and the package's table, take a write to a target. -/
def State.linkTo (s : State) (pkg : Nat) : Option Nat :=
  match s.spanTable with
  | some t => t.route[pkg]?.filter fun l => decide (l < 18)
  | none => none

/-- The packages of a group (R372). -/
def SpanTable.members (t : SpanTable) (g : Nat) : List Nat :=
  (List.range 4096).filter fun p => (t.member.getD (512 * g + p / 8) 0) / 2 ^ (p % 8) % 2 = 1

/-- The targets of a remote copy (R373, R374). -/
def Work.targets (w : Work) : List Nat :=
  if w.j.ctrl 20 1 = 1 then (match w.s.spanTable with | some t => t.members (w.j.ctrl 21 12) | none => []) else [w.j.ctrl 21 12]

/-- The piece in hand leaves for its targets (R371, R374): at once on each link that some target needs. -/
def Work.send (w : Work) (addr : Nat) (data : List Byte) : Work :=
  let ts := w.targets
  let links := (ts.filterMap w.s.linkTo).eraseDups
  let peer := w.j.ctrl 21 12
  let group := w.j.ctrl 20 1 == 1
  let va := u64 addr
  let flight := ts.map fun t => SpanMsg.write t false w.j.id va data
  let s := { w.s with remote := w.s.remote ++ flight }
  { w with s := links.foldl (fun s _ => s.emit (.span (.write peer group w.j.id va data))) s,
           j := { w.j with acks := w.j.acks + ts.length } }

/-- A piece leaves: written as one, or sent to its targets, each run of bytes on its own. -/
def Work.release (w : Work) (p : OutPiece) : Work :=
  if w.j.remote then (OutPiece.runs 0 p.bytes).foldl (fun w r => w.send (p.base + r.1) r.2) w
  else
    let holes := (List.range p.bytes.length).filter fun k => (p.bytes.getD k none).isNone
    w.perform p.host p.base (p.bytes.map fun x => x.getD 0#8) holes

/-- Every piece in hand leaves. -/
def Work.flush (w : Work) : Work := w.j.run.foldl Work.release { w with j := { w.j with run := [] } }

/-- A byte joins its piece; a piece that it fills leaves. -/
def Work.putByte (w : Work) (host : Bool) (a : Nat) (x : Byte) : Work :=
  let n := if host then 8 else 16
  let old := (w.j.run.find? fun p => p.host == host && p.base == a / n * n).getD ⟨host, a / n * n, List.replicate n none⟩
  let p := old.set a x
  let rest := w.j.run.filter fun q => !(q.host == host && q.base == p.base)
  if p.bytes.all fun y => y.isSome then Work.release { w with j := { w.j with run := rest } } p
  else { w with j := { w.j with run := rest ++ [p] } }

/-- Bytes join their pieces, from an address on. -/
def Work.put (w : Work) (host : Bool) (pa : Nat) : List Byte → Work
  | [] => w
  | x :: xs => (w.putByte host pa x).put host (pa + 1) xs

/-- The byte that the job has written and that has not left. -/
def Work.own (w : Work) (host : Bool) (a : Nat) : Option Byte := w.j.run.findSome? fun p => p.at? host a

/-- The number in n bytes of memory that the job reads: its own bytes, and what stands in its die's view (R86, R87). -/
def Work.readAt (w : Work) (host : Bool) (pa n : Nat) : Nat :=
  natOfBytes ((List.range n).map fun k => (w.own host (pa + k)).getD (w.s.readByte (w.sh / 2) (w.s.jobAgent w.j) host (pa + k)))

/-- The job with the writes that a read of n bytes returns among those it has seen (R86). -/
def Work.seeing (w : Work) (host : Bool) (pa n : Nat) : Work :=
  let ids := (w.s.returnedIds (w.sh / 2) (w.s.jobAgent w.j) host pa n).filter fun i => !w.j.seen.contains i
  { w with j := { w.j with seen := (w.j.seen.filter fun i => w.s.writes.any fun x => x.id == i) ++ ids } }

/-- The job's sheet cache serves a read: its line is there, or comes in (R10). (Log entry 95: DESIGN CHOICE.) -/
def Work.cached (w : Work) (host : Bool) (pa : Nat) : Work := { w with s := w.s.cacheLine w.sh host pa }

/-- An element of wd bits read by the job, through the sheet cache (R10, R233); corrupt data is not used (R281). -/
def Work.read (w : Work) (p : Spot) (wd : Nat) : Got Nat × Work :=
  let n := (wd + 7) / 8
  match w.place p.va n .read with
  | (.stop, w) => (.stop, w)
  | (.ok (pa, host), w) =>
    if w.s.corrupt host pa n then (.stop, w.faulted causeUncorrectable 0#8 p.va)
    else
      let w := w.cached host pa
      let x := w.readAt host pa n
      let w := w.seeing host pa n
      (.ok (if wd = 4 then (if p.high then x / 16 else x % 16) else x), w)

/-- An element of wd bits written by the job; a nibble leaves its neighbour as it is. -/
def Work.write (w : Work) (p : Spot) (wd x : Nat) : Got Unit × Work :=
  let n := (wd + 7) / 8
  match w.place p.va n .write with
  | (.stop, w) => (.stop, w)
  | (.ok (pa, host), w) =>
    if wd = 4 then
      let w := w.cached host pa
      let y := w.readAt host pa 1
      (.ok (), w.put host pa (bytesOfNat 1 (if p.high then y % 16 + 16 * (x % 16) else y / 16 * 16 + x % 16)))
    else (.ok (), w.put host pa (bytesOfNat n x))

/-- An element written on other packages (R374): the address is checked there. A route that has stayed down for 100 ms is a fault, and
one that is down otherwise keeps the job waiting. -/
def Work.writeRemote (w : Work) (p : Spot) (wd x : Nat) : Got Unit × Work :=
  let n := (wd + 7) / 8
  let ts := w.targets
  if p.va.extractLsb' 56 8 ≠ 0#8 ∨ isLocal p.va = true then (.stop, w.faulted causeProtection 0#8 p.va)
  else if p.va.toNat % n ≠ 0 then (.stop, w.faulted causeMisaligned 0#8 p.va)
  else if ts.isEmpty || ts.any (fun t => (w.s.linkTo t).isNone) || !w.s.spanOn ||
      ts.any (fun t => (w.s.linkTo t).any fun l => (vget {} w.s.links l).dead w.s.gcyc) then
    (.stop, w.faulted causeProtection 0#8 p.va)
  else if ts.any fun t => (w.s.linkTo t).any fun l => !(vget {} w.s.links l).up then (.stop, w)
  else if wd = 4 then
    let y := ((w.own false p.va.toNat).getD 0#8).toNat
    (.ok (), w.put false p.va.toNat (bytesOfNat 1 (if p.high then y % 16 + 16 * (x % 16) else y / 16 * 16 + x % 16)))
  else (.ok (), w.put false p.va.toNat (bytesOfNat n x))

/-- One indivisible operation at the home of an element of 4 bytes (R92, R235). -/
def Work.reduce (w : Work) (p : Spot) (a : JobAccess) (f : Nat → Nat) : Got Unit × Work :=
  match w.place p.va 4 a with
  | (.stop, w) => (.stop, w)
  | (.ok (pa, host), w) =>
    if w.s.corrupt host pa 4 then (.stop, w.faulted causeUncorrectable 0#8 p.va)
    else (.ok (), w.perform host pa (bytesOfNat 4 (f (w.s.homeNum host pa 4))) [])

/-- A conversion from one side to the other: none at all between equal types (R234). -/
def Job.conv (j : Job) (src dst : Ty) (x : Nat) : Nat := if src = dst then x else (convert src dst j.mode 0 j.ftz x).1

/-! The update stage (R236). -/

/-- F32 subtraction with RNE. -/
def f32Sub (ftz : Bool) (x y : Nat) : Nat :=
  (Fmt.f32.finish .rne 0 ftz (Val.add .rne (f32Val ftz x) (f32Val ftz y).neg)).1

/-- F32 square root, correctly rounded. -/
def f32Sqrt (ftz : Bool) (x : Nat) : Nat :=
  match f32Val ftz x with
  | .nan => Fmt.f32.nan
  | .inf neg => if neg then Fmt.f32.nan else Fmt.f32.infinity
  | .fin neg m e =>
    if m = 0 then Fmt.f32.withSign neg 0
    else if neg then Fmt.f32.nan
    else
      let m2 := if e % 2 = 0 then m else 2 * m
      let e2 := if e % 2 = 0 then e else e - 1
      let r := sqrtBits (m2 <<< 100) 65 0
      (Fmt.f32.round .rne 0 ftz false r (e2 / 2 - 50) (r * r != m2 <<< 100)).1

/-- θ, m and v after one update of an element (R236), each an F32. -/
def Job.update (j : Job) (g th m v : Nat) : Nat × Nat × Nat :=
  let z := j.ftz
  let add (x y : Nat) : Nat := (f32Add z x y).1
  let sub (x y : Nat) : Nat := f32Sub z x y
  let mul (x y : Nat) : Nat := (f32Mul z x y).1
  let div (x y : Nat) : Nat := (divF32 .rne 0 z (f32Val z x) (f32Val z y)).1
  let lr := j.num 208 4
  let b1 := j.num 212 4
  let b2 := j.num 216 4
  let eps := j.num 220 4
  let wd := j.num 224 4
  let one := 0x3F800000
  match j.num 228 4 % 8 with
  | 0 => (sub th (mul lr (add g (mul wd th))), m, v)
  | 1 =>
    let m := add (mul b1 m) g
    (sub th (mul lr (add m (mul wd th))), m, v)
  | _ =>
    let m := add (mul b1 m) (mul (sub one b1) g)
    let v := add (mul b2 v) (mul (sub one b2) (mul g g))
    (sub th (mul lr (add (div m (add (f32Sqrt z v) eps)) (mul wd th))), m, v)

/-- An element of the update stage: reads, the update, and the writes back, of the moments that its operator uses. (Log entry 108: DESIGN
CHOICE.) -/
def Work.updateElem (w : Work) (n x : Nat) : Got Unit × Work :=
  let j := w.j
  let g := (convert j.tty .f32 .rne 0 false x).1
  let op := j.num 228 4 % 8
  match w.read (j.spot n j.gty.width) j.gty.width with
  | (.stop, w) => (.stop, w)
  | (.ok t0, w) =>
    match (if op = 0 then (Got.ok 0, w) else w.read (j.spot2 n 32) 32) with
    | (.stop, w) => (.stop, w)
    | (.ok m0, w) =>
      match (if op = 2 then w.read (j.spot3 n 32) 32 else (Got.ok 0, w)) with
      | (.stop, w) => (.stop, w)
      | (.ok v0, w) =>
        let r := j.update g (convert j.gty .f32 .rne 0 false t0).1 m0 v0
        -- the moments first: what is written last decides whether the element is done
        match (if op = 2 then w.place (j.spot3 n 32).va 4 .write else (Got.ok (0, false), w)) with
        | (.stop, w) => (.stop, w)
        | (.ok p3, w) =>
          match (if op = 0 then (Got.ok (0, false), w) else w.place (j.spot2 n 32).va 4 .write) with
          | (.stop, w) => (.stop, w)
          | (.ok p2, w) =>
            match w.write (j.spot n j.gty.width) j.gty.width
                (if j.gty = .f32 then r.1 else (convert .f32 j.gty j.mode 0 j.ftz r.1).1) with
            | (.stop, w) => (.stop, w)
            | (.ok _, w) =>
              let w := if op = 0 then w else w.put p2.2 p2.1 (bytesOfNat 4 r.2.1)
              (.ok (), if op = 2 then w.put p3.2 p3.1 (bytesOfNat 4 r.2.2) else w)

/-! What one element of a drain, a copy or a reduction does. -/

/-- The reduction of R235. -/
def Job.reduceOp (j : Job) (x old : Nat) : Nat :=
  match j.gty with
  | .f32 =>
    match j.ctrl 15 3 with
    | 0 => (f32Add j.ftz old x).1
    | k => (Fmt.f32.ofVal .rne 0 j.ftz (Val.minmax (k == 2) (f32Val j.ftz old) (f32Val j.ftz x))).1
  | t =>
    match j.ctrl 15 3 with
    | 0 => (old + x) % 2 ^ 32
    | 1 => if t.int old ≤ t.int x then old else x
    | _ => if t.int old ≤ t.int x then x else old

/-- Element n, of value x on the tower side, leaves for global memory (R234 to R236). -/
def Work.outElem (w : Work) (n x : Nat) : Got Unit × Work :=
  let j := w.j
  let g := j.gty.width
  if j.isRed then w.reduce (j.spot n g) .reduce (j.reduceOp (j.conv j.tty j.gty x))
  else if j.upd then w.updateElem n x
  else
    let y := j.conv j.tty j.gty x
    match w.write (j.spot n g) g y with
    | (.stop, w) => (.stop, w)
    | (.ok _, w) => if j.form = 2 then w.write (j.spot2 n g) g y else (.ok (), w)

/-- Element n of a copy. -/
def Work.copyElem (w : Work) (n : Nat) : Got Unit × Work :=
  let j := w.j
  match w.read (j.spot n j.gty.width) j.gty.width with
  | (.stop, w) => (.stop, w)
  | (.ok x, w) =>
    let y := j.conv j.gty j.tty x
    if j.remote then w.writeRemote (j.spot2 n j.tty.width) j.tty.width y else w.write (j.spot2 n j.tty.width) j.tty.width y

/-- The global element that a fill takes for its element n: for CGATH its row is the one that the index list gives (R234). -/
def Work.source (w : Work) (n : Nat) : Got Spot × Work :=
  let j := w.j
  let g := j.gty.width
  if j.form ≠ 3 then (.ok (j.spot n g), w)
  else
    let last := j.dims - 1
    let low := j.product last 0
    let i := n / low
    match w.read ⟨u64 (j.gbase2 + 4 * i), false⟩ 32 with
    | (.stop, w) => (.stop, w)
    | (.ok x, w) =>
      if j.rows ≤ (x : Int) then (.stop, w.faulted causeIllegal 0x08#8 (u64 i))
      else (.ok (spotOf j.gbase (walkOff j.extent j.stride last 0 (n % low) + (x : Int) * j.stride last) g), w)

/-- The context of a job. -/
def Work.ctx? (w : Work) : Option Ctx := w.j.panel.bind w.s.ctx?

/-- The global region that holds a place, for a fill in REV mode (R255). -/
def Work.region? (w : Work) (p : Spot) : Option DRegion :=
  if w.j.rev && w.j.form == 0 then
    w.ctx?.bind fun c => c.adj.regions.find? fun d => d.global && decide (d.base ≤ p.va.toNat) && decide (p.va.toNat < d.base + d.len)
  else none

/-- The element type of a region, as a type code (R245). -/
def DRegion.code (d : DRegion) : Nat := if d.ew = 2 then 7 else 8

/-- A fill reads its element n; inside a global region, in REV mode, nothing is read (R255). -/
def Work.inElem (w : Work) (n : Nat) : Got Unit × Work :=
  match w.source n with
  | (.stop, w) => (.stop, w)
  | (.ok p, w) =>
    match w.region? p with
    | some d =>
      if w.j.ctrl 0 4 ≠ d.code then (.stop, w.faulted causeIllegal 0x09#8 w.j.cardAddr)
      else (.ok (), { w with j := { w.j with chunk := w.j.chunk ++ [none] } })
    | none =>
      match w.read p w.j.gty.width with
      | (.stop, w) => (.stop, w)
      | (.ok x, w) => (.ok (), { w with j := { w.j with chunk := w.j.chunk ++ [some (w.j.conv w.j.gty w.j.tty x)] } })

/-- Apply a step to element numbers from n upwards, at most k of them, counting the finished ones in sub. -/
def Work.elems (f : Work → Nat → Got Unit × Work) : Nat → Nat → Work → Work
  | 0, _, w => w
  | k + 1, n, w =>
    match f w n with
    | (.stop, w) => w
    | (.ok _, w) => Work.elems f k (n + 1) { w with j := { w.j with sub := w.j.sub + 1 } }

/-! The tower side (R63, R233). -/

/-- Elements of the chunk in hand. -/
def Job.inHand (j : Job) : Nat := Nat.min j.chunkElems (j.total - j.pos)
/-- The cells that the chunk in hand belongs to, and its round. -/
def Job.owners (j : Job) : List Nat :=
  let c := j.pos / j.chunkElems
  if j.scatter then [j.cells.getD (c % Nat.max 1 j.cells.length) 0] else j.cells
def Job.round (j : Job) : Nat :=
  let c := j.pos / j.chunkElems
  if j.scatter then c / Nat.max 1 j.cells.length else c
/-- The cell in hand. -/
def Job.cell (j : Job) : Nat := j.owners.getD j.part 0
/-- Where the chunk in hand lies in a cell with DEST = 0. -/
def Job.towerAt (j : Job) : Nat := towerWrap (j.offset + j.round * j.chunkBytes)

/-- The elements packed (R19). -/
def packElems (wd : Nat) : List (Option Nat) → Nat
  | [] => 0
  | x :: xs => x.getD 0 % 2 ^ wd + 2 ^ wd * packElems wd xs

/-- The bits of the elements that are written; what lies beyond the last element is. -/
def maskElems (wd : Nat) (rest : Nat) : List (Option Nat) → Nat
  | [] => 2 ^ rest - 1
  | x :: xs => (if x.isSome then 2 ^ wd - 1 else 0) + 2 ^ wd * maskElems wd (rest - wd) xs

/-- The bytes of a bit mask that are written: those with any bit of a written element. -/
def byteMask : Nat → Nat → Nat
  | 0, _ => 0
  | n + 1, m => (if m % 256 = 0 then 0 else 1) + 2 * byteMask n (m / 256)

/-- The lines of the chunk in hand, from a place on: offset, data, bytes. -/
def Job.chunkLines (j : Job) (at_ : Nat → Nat) : List (Nat × Line × BitVec 64) :=
  let wd := j.tty.width
  let x := packElems wd j.chunk
  let m := maskElems wd (8 * j.chunkBytes) j.chunk
  (List.range (j.chunkBytes / 64)).map fun l =>
    (at_ l, BitVec.ofNat 512 (x >>> (512 * l)), BitVec.ofNat 64 (byteMask 64 (m >>> (512 * l) % 2 ^ 512)))

/-- A broadcast column, which feeds the 16 cells of one column of a sheet, takes another line in this cycle: it moves at most 128
bytes (R14, R233). (Log entry 87: DESIGN CHOICE.) -/
def Ctx.columnFree (c : Ctx) (v : Env) (cell : Nat) : Bool :=
  decide (((c.time.moved ++ v.moved).filter fun x => x == cell % 4).length < 2)

/-- A tower bank serves a transfer of the column engine in this cycle (R63, R312). -/
def Ctx.transferFree (c : Ctx) (v : Env) (cell off : Nat) : Bool := c.bankFree v cell (bankOf off) && c.columnFree v cell

/-- The context with a bank's cycle used up by a transfer. -/
def Ctx.useBank (c : Ctx) (cell off : Nat) : Ctx :=
  { c with time := { c.time with landed := (cell, bankOf off) :: c.time.landed, moved := cell % 4 :: c.time.moved } }

/-- Write the lines whose banks are free in this cycle; the lines that are left. A line without a byte to write is passed over, and
its age stays. (Log entry 83: DESIGN CHOICE.) -/
def Ctx.moveIn (c : Ctx) (v : Env) (cell : Nat) : List (Nat × Line × BitVec 64) → Ctx × List (Nat × Line × BitVec 64)
  | [] => (c, [])
  | x :: xs =>
    if x.2.2 = 0#64 then c.moveIn v cell xs
    else if c.transferFree v cell x.1 then
      ((c.setCell cell ((c.cell cell).writeLine x.1 x.2.1 x.2.2 v.gcyc)).useBank cell x.1).moveIn v cell xs
    else (c, x :: xs)

/-- Number that a job's fill of a ring carries in place of a program-order number. -/
def Job.fillOrd (j : Job) : Nat := 2 ^ 64 + j.id * 2 ^ 48 + j.pos

/-- The next element of a job's chunk, or the next cell of it. -/
def Work.nextCell (w : Work) : Work :=
  let j := w.j
  let last := decide (j.owners.length ≤ j.part + 1)
  let j := { j with placed := false, lines := [], got := [], ringAt := none, sub := 0 }
  { w with j := if last then { j with part := 0, pos := j.pos + j.chunkElems, chunk := [] } else { j with part := j.part + 1 } }

/-- Take the place of the chunk in hand in the cell in hand: a ring's next slot, once there is room, or a tower offset. -/
def Work.takePlace (w : Work) (c : Ctx) : Work :=
  let j := w.j
  if !j.toRing then { w with j := { j with placed := true, lines := j.chunkLines fun l => towerWrap (j.towerAt + 64 * l) } }
  else
    let x := c.cell j.cell
    let r := x.ring j.ringNo
    if !r.conf || r.full then w
    else if j.chunkBytes ≠ r.slotBytes then w.faulted causeIllegal 0x08#8 j.cardAddr
    else
      let slot := r.fslot
      let c := c.setCell j.cell (x.setRing j.ringNo (r.reserve (some j.fillOrd) fun _ => []))
      { w with s := w.s.putCtx c, j := { j with placed := true, lines := j.chunkLines fun l => r.lineAt slot l } }

/-- Move lines of a fill; when none is left the cell has its chunk, and a ring's fill is complete. -/
def Work.moveLines (w : Work) (c : Ctx) : Work :=
  let j := w.j
  let v := w.s.env c.id.panel
  let r := c.moveIn v j.cell j.lines
  if !r.2.isEmpty then { w with s := w.s.putCtx r.1, j := { j with lines := r.2 } }
  else
    let c := r.1
    let x := c.cell j.cell
    let c := if j.toRing then c.setCell j.cell (x.setRing j.ringNo ((x.ring j.ringNo).completeOrd j.fillOrd v.gcyc)) else c
    Work.nextCell { w with s := w.s.putCtx c }

/-- The adjoint of element sub of the chunk in hand is added in global memory and cleared in the tower (R255). -/
def Work.adjElem (w : Work) (c : Ctx) : Work :=
  let j := w.j
  let n := j.pos + j.sub
  let p := j.spot n j.gty.width
  let t := towerWrap (j.towerAt + j.sub * j.tty.width / 8)
  match w.region? p, c.towerRegion t with
  | some d, some q =>
    let a := q.shadowAt t
    let v := w.s.env c.id.panel
    if !c.transferFree v j.cell a then w
    else if (c.cell j.cell).badLines.contains (lineOf a) then w.faulted causeUncorrectable 0#8 (cellTval 1 j.cell a)
    else
      let x := (c.cell j.cell).readTower a 4
      let g : Spot := ⟨BitVec.ofInt 64 (d.shadow + (((p.va.toNat - d.base) * 4 / d.ew : Nat) : Int)), false⟩
      match w.reduce g .shadow (fun old => (f32Add j.ftz old x).1) with
      | (.stop, w) => w
      | (.ok _, w) =>
        let clear (c : Ctx) : Ctx :=
          (c.setCell j.cell ((c.cell j.cell).writeLine a 0#512 (maskInLine a 0xF) v.gcyc)).useBank j.cell a
        { w with s := w.s.mapCtx c.id.panel (fun _ c => clear c), j := { w.j with sub := j.sub + 1 } }
  | some _, none => w.faulted causeIllegal 0x09#8 j.cardAddr
  | none, _ => { w with j := { j with sub := j.sub + 1 } }

/-- One step of a fill. -/
def Work.fillStep (w : Work) : Work :=
  let j := w.j
  if j.chunk.length < j.inHand then
    let w := Work.elems Work.inElem (j.inHand - j.chunk.length) (j.pos + j.chunk.length) w
    { w with j := { w.j with sub := 0 } }
  else
    match w.ctx? with
    | none => w
    | some c =>
      if j.placed then w.moveLines c
      else if j.sub < j.chunk.length && j.chunk.any (fun x => x.isNone) then
        if (j.chunk.getD j.sub (some 0)).isNone then w.adjElem c else { w with j := { j with sub := j.sub + 1 } }
      else w.takePlace c

/-- The lines of a drain's chunk that have still to be read, up to two in one cycle. -/
def Work.readLines (c : Ctx) (v : Env) (cell : Nat) (at_ : Nat → Nat) : Nat → Work → Ctx × Work
  | 0, w => (c, w)
  | k + 1, w =>
    let l := w.j.got.length / 64
    let a := at_ l
    if w.j.chunkBytes / 64 ≤ l || !c.transferFree v cell a then (c, w)
    else if (c.cell cell).badLines.contains (lineOf a) then (c, w.faulted causeUncorrectable 0#8 (cellTval 1 cell a))
    else
      let bs := bytesOfNat 64 ((c.cell cell).readTower a 64)
      Work.readLines (c.useBank cell a) v cell at_ k { w with j := { w.j with got := w.j.got ++ bs } }

/-- The position that a drain reads next: published and arrived, or the job waits, or faults (R233). On a ring that is not
configured it waits. (Log entry 82: DESIGN CHOICE.) -/
def Work.takePosition (w : Work) (c : Ctx) : Work :=
  let j := w.j
  let r := (c.cell j.cell).ring j.ringNo
  if !r.conf || r.filled = 0 then w
  else
    let q := r.position 0
    match r.check q.1 q.2 with
    | .arrived => { w with j := { j with ringAt := some q } }
    | .pending => w
    | .mismatch => w.faulted causeSchedule 0#8 (tagTval (r.tag q.2) q.1)

/-- The position that a drain has read is popped; pops of the same cycle count against what stood before them (R243). -/
def Work.popPosition (w : Work) (c : Ctx) : Work :=
  let j := w.j
  let x := c.cell j.cell
  let r := x.ring j.ringNo
  let before : Nat := if r.popAt = w.s.gcyc then (r.tail - r.popFrom).toNat else r.filled
  if r.filled = 0 then w.faulted causeSchedule 0#8 (u64 (before * 2 ^ 32 + 1))
  else
    let r' := (r.pop 1).popped r (.pop 1) w.s.gcyc
    { w with s := w.s.putCtx (c.setCell j.cell (x.setRing j.ringNo r')), j := { j with ringAt := none } }

/-- One step of a drain. Of a slot of any size, a ring gives the bytes of a chunk from the slot's first on. (Log entry 109: DESIGN
CHOICE.) -/
def Work.drainStep (w : Work) : Work :=
  let j := w.j
  match w.ctx? with
  | none => w
  | some c =>
    if j.got.length < j.chunkBytes then
      if j.toRing && j.ringAt.isNone then w.takePosition c
      else
        let v := w.s.env c.id.panel
        let r := (c.cell j.cell).ring j.ringNo
        let slot := (j.ringAt.map (·.2)).getD 0
        let at_ (l : Nat) : Nat := if j.toRing then r.lineAt slot l else towerWrap (j.towerAt + 64 * l)
        let q := Work.readLines c v j.cell at_ 2 w
        { q.2 with s := q.2.s.putCtx q.1 }
    else if j.toRing && j.ringAt.isSome then w.popPosition c
    else if j.sub < j.inHand then
      let x := natOfBytes j.got
      let wd := j.tty.width
      Work.elems (fun w n => w.outElem n (x >>> (wd * (n - j.pos)) % 2 ^ wd)) (j.inHand - j.sub) (j.pos + j.sub) w
    else w.nextCell

/-- One step of a copy. -/
def Work.copyStep (w : Work) : Work :=
  let j := w.j
  let w := Work.elems Work.copyElem (j.inHand - j.sub) (j.pos + j.sub) w
  if w.j.sub < j.inHand then w else { w with j := { w.j with sub := 0, pos := j.pos + j.chunkElems } }

/-- One step of a job that runs. -/
def Work.step (w : Work) : Work :=
  let w := if w.j.isFill then w.fillStep else if w.j.isCopy then w.copyStep else w.drainStep
  if w.j.fault.isSome then w.flush
  else if w.j.pos < w.j.total then w
  else
    let w := w.flush
    { w with j := { w.j with phase := .draining } }

/-- The job back in its sheet, with the cycle of its next step; a fault is raised next. -/
def Work.finish (w : Work) (p : Nat) : State :=
  let k := w.s.fresh
  let s := { w.s with fresh := k + 1 }
  let s := s.putJob w.sh { w.j with ready := s.gcyc + 1 + Config.jobDelay k }
  if w.j.fault.isSome then { s with agenda := .ev (.columnJobFault p w.j.id) :: s.agenda } else s

/-! Start (R229, R230, R239). -/

/-- An access that a column job waits for (R90): not one that its walk refused; and once a forced stop has come, only one that the
stop waits for too. -/
def Ctx.awaitsJob (c : Ctx) (a : GAccess) : Bool :=
  !a.performed && if c.preempt.stop = .forced then a.outstanding && !c.isPending a else match a.walk with | .refused _ => false | _ => true

/-- The accesses that the context made before it issued the job, flag operations among them, have been performed (R90).
(Log entry 71: DEDUCED.) -/
def State.jobReleased (s : State) (j : Job) : Bool :=
  match j.panel.bind s.ctx? with
  | some c => !c.glob.queue.any fun a => decide (a.ord < j.ord) && c.awaitsJob a
  | none => true

/-- Jobs of the sheet that were handed over before. -/
def State.jobsBefore (s : State) (sh : Nat) (j : Job) : List Job := (s.sheet sh).jobs.takeWhile fun i => i.id != j.id

/-- The job may start its accesses: every earlier conflicting job has retired, and the earlier ones of its stream have started
(R239). -/
def Job.clear (j : Job) (earlier : List Job) : Bool :=
  earlier.all fun i =>
    match i.phase with
    | .action => true
    | .waiting | .card => false
    | .matched => i.stream != j.stream && !footsMeet i.foot j.foot
    | .running | .draining => !footsMeet i.foot j.foot

/-- Read up to k more bytes of the card (R230). (Log entry 29: DESIGN CHOICE.) -/
def Work.readCard : Nat → Work → Work
  | 0, w => w
  | k + 1, w =>
    if 256 ≤ w.j.card.length then w
    else
      match w.read ⟨w.j.cardAddr + u64 w.j.card.length, false⟩ 8 with
      | (.stop, w) => w
      | (.ok x, w) => Work.readCard k { w with j := { w.j with card := w.j.card ++ bytesOfNat 1 x } }

/-- The card has been read: it is checked, and the footprint found. (Log entry 30: DEDUCED.) -/
def Work.meetCard (w : Work) : Work :=
  let j := w.j
  let flags := match w.ctx? with | some c => c.flagSize | none => 256
  let foot := match w.ctx? with | some c => if j.rev && j.form == 0 then c.revFootprint j.footprint else j.footprint | none => j.footprint
  let spent := match w.ctx? with | some c => c.committed | none => false
  if j.cardBad flags then w.faulted causeIllegal 0x08#8 j.cardAddr
  else if j.rev && j.form == 0 && j.toRing then w.faulted causeIllegal 0x09#8 j.cardAddr
  else
    match foot.find? (fun r => spent && r.rights != 1) with
    | some r => w.faulted causeProtection 0#8 (u64 r.start)
    | none => { w with j := { j with foot := foot, phase := .matched } }

/-- The job stalls for a page: the steward's notice has no reply yet (R396). -/
def Job.asksPage (j : Job) : Bool := match j.walk with | .notice _ => true | _ => false

/-- COLUMN_JOB_START (R239): job k of the sheet of panel p reads its card, and starts once no earlier conflicting job is left. -/
def execColumnJobStart (p k : Nat) (s : State) : Host.Outcome State Fault Refusal :=
  .next (match s.job? (sheetOf p) k with
    | none => s
    | some j =>
      let sh := sheetOf p
      match j.phase with
      | .waiting => if s.jobReleased j then s.putJob sh { j with phase := .card } else s
      | .card =>
        if s.gcyc < j.ready || j.asksPage then s
        else
          let w := Work.readCard (1 + Config.jobDelay s.fresh % 256) ⟨s, sh, j⟩
          (if w.j.fault.isNone && decide (256 ≤ w.j.card.length) then w.meetCard else w).finish p
      | .matched => if j.clear (s.jobsBefore sh j) then s.putJob sh { j with phase := .running, ready := s.gcyc + 1 } else s
      | _ => s)

/-- COLUMN_CHUNK (R233): a job moves elements and lines of its chunk in hand. -/
def execColumnChunk (p k : Nat) (s : State) : Host.Outcome State Fault Refusal :=
  .next (match s.job? (sheetOf p) k with
    | some j =>
      if j.phase = .running ∧ j.fault = none ∧ j.ready ≤ s.gcyc ∧ j.asksPage = false then (Work.step ⟨s, sheetOf p, j⟩).finish p else s
    | none => s)

/-! The end of a job (R237, R238). -/

/-- A job of the context has retired or faulted; what it has read counts as read by its context. -/
def Ctx.lessJob (c : Ctx) (j : Job) (log : List GWrite) : Ctx :=
  { c with jobs := c.jobs - 1, revJobs := if j.rev then c.revJobs - 1 else c.revJobs,
           trapJobs := if j.trap then c.trapJobs - 1 else c.trapJobs,
           glob := { c.glob with seen := (c.glob.seen ++ j.seen).filter fun i => log.any fun w => w.id == i } }

/-- The views in which a job's action must find its writes are those of its scope (R88, R90). -/
def State.jobAction (s : State) (sh : Nat) (j : Job) : State :=
  let s := s.dropJob sh j
  match j.panel.bind s.ctx? with
  | none => s
  | some c =>
    -- the job's writes are in every view of the scope from this instant on
    let s := s.settle (scopeViews (sh / 2) j.scope) ((s.writes.filter fun w => w.agent == s.jobAgent j).map (·.id) ++ j.seen)
    s.setFlag c (j.done 0 8) (s.flag c (j.done 0 8) + BitVec.ofNat 32 (j.done 32 32))

/-- COLUMN_JOB_RETIRE (R237): all writes of job k are in its die's view, and every target has acknowledged; its action, the FINC
of its card, follows when it has reached the flag's home. -/
def execColumnJobRetire (p k : Nat) (s : State) : Host.Outcome State Fault Refusal :=
  .next (match s.job? (sheetOf p) k with
    | none => s
    | some j =>
      let sh := sheetOf p
      match j.phase with
      | .draining =>
        if j.acks ≠ 0 then s
        else
          match j.panel with
          | none => match j.packet with | some id => (s.dropJob sh j).finishPacket id 0 0 0 0 | none => s.dropJob sh j
          | some q =>
            let s := s.mapCtx q fun _ c => let c := c.lessJob j s.writes; { c with latch := { c.latch with job := true } }
            if j.acts then
              { (s.putJob sh { j with phase := .action, ready := s.gcyc + Config.flagDelay s.fresh }) with fresh := s.fresh + 1 }
            else s.dropJob sh j
      | .action => if j.ready ≤ s.gcyc then s.jobAction sh j else s
      | _ => s)

/-- The jobs that a panel handed over in this cycle (R229): their entries reach the column engine. -/
def QEntry.asJob (e : QEntry) (p id ready : Nat) : Job :=
  let form : Nat := match e.instr with
    | .cfill _ _ _ _ => 0
    | .cdrain _ _ _ _ => 1
    | .cpair _ _ _ _ => 2
    | .cgath _ _ _ _ => 3
    | .ccopy _ _ _ _ => 4
    | _ => 5
  let stream : Nat := match e.instr with
    | .cfill _ _ q _ | .cdrain _ _ q _ | .cpair _ _ q _ | .cgath _ _ q _ | .ccopy _ _ q _ | .cred _ _ q _ => q.toNat
    | _ => 0
  { id := id, panel := some p, ord := e.ord, form := form, stream := stream, rev := e.admode == .rev, trap := e.trap, cardAddr := e.scal.1, ready := ready }

/-- The scope of an error that a context found (R412). -/
def eventScope (cls : Nat) (cell : Option Nat) (detail : U64) : Nat :=
  if cell.isSome then 3 else if cls = 3 ∧ detail.extractLsb' 62 2 = 0#2 then 6 else 2

/-- The bank that an error of a cell concerns: that of the tower offset in its detail, and 0 for what has none (R411). -/
def eventBank (detail : U64) : Nat := if detail.extractLsb' 62 2 = 1#2 then bankOf (detail.extractLsb' 0 23).toNat else 0

/-- What a panel sent in this cycle is taken over (R222, R223, R229, R411). -/
def State.takeOut (s : State) (c : Ctx) : List Outbox → State
  | [] => s
  | .border m :: xs =>
    let row := gridRow c.id.panel + m.ty - c.ty
    let col := gridCol c.id.panel + m.tx - c.tx
    let q := panelAt row col
    let n := if dieOf q = dieOf c.id.panel then 4 else 24
    State.takeOut { s with borderFlight := s.borderFlight ++ [(s.gcyc + n, q, m)] } c xs
  | .job e :: xs =>
    let x := s.sheet (sheetOf c.id.panel)
    let j := e.asJob c.id.panel s.fresh (s.gcyc + 1)
    State.takeOut { (s.putSheet (sheetOf c.id.panel) { x with jobs := x.jobs ++ [j] }) with fresh := s.fresh + 1 } c xs
  | .express uses :: xs => State.takeOut { s with net := uses.foldl takeLink s.net } c xs
  | .event cls cell detail :: xs =>
    (s.noteError { cls := cls, scope := eventScope cls cell detail, sheet := sheetOf c.id.panel, panel := c.id.panel % 32,
                   cell := cell.getD 0, bank := eventBank detail, detail := detail, taskId := c.id.taskId }).takeOut c xs

/-- What stands in a panel's outbox is taken over. -/
def State.empty (s : State) (p : Nat) : State :=
  match s.ctx? p with
  | none => s
  | some c => (s.putCtx { c with outbox := [] }).takeOut c c.outbox

/-- An uncorrectable error of a job in the cycle in which another trap was taken goes before it (R277): that trap's fault is deferred
when its entry had completed, and dropped otherwise. -/
def Ctx.overtake (c : Ctx) (r : Raise) : Ctx :=
  let c := (if c.trap.completed then { c with trap := { c.trap with deferred := some ⟨c.trap.cause, c.trap.tval⟩ } } else c).note 3 none r.tval
  { c with
    trapMem := Store.setNum c.trapMem 0x1F30 8 0
    trap := { c.trap with cause := r.cause, tpc := (c.unfrozen).nextPc, tval := r.tval, pacc := false, access := none, fatal := true,
                          preempts := false, completed := true }
    issue := { c.issue with pc := 0x00FF000000100000#64 + BitVec.ofNat 64 (64 * (c.trap.offset.toNat + causeUncorrectable.toNat)) } }

/-- The fault of a job reaches its context (R238, R277, R281, R424): it is taken in the wall cycle in which it arises, and
deferred in trap context and in a stopped context. -/
def Ctx.jobFault (c : Ctx) (r : Raise) (g : Nat) : Ctx :=
  let c := c.seeError r g
  let afresh : Bool := r.code == causeUncorrectable && c.id.node
  let runs : Bool := c.preempt.stop == .none || c.preempt.stop == .draining
  if afresh then c.stopFor r g
  else if c.trap.tctx && c.issue.wait == .until (g + 16) && r.code == causeUncorrectable &&
      c.trap.cause.extractLsb' 0 8 != causeUncorrectable then c.overtake r
  else if c.trap.tctx || !runs then (if r.code == causeUncorrectable then c.note 3 (uncorrectableCell r.tval) r.tval else c).defer r
  else c.stopFor r g

/-- COLUMN_JOB_FAULT (R238): job k is abandoned, and its context, or its packet, takes the fault; an uncorrectable error that it consumed
is detected in this cycle (R411, R412). -/
def execColumnJobFault (p k : Nat) (s : State) : Host.Outcome State Fault Refusal :=
  .next (match s.job? (sheetOf p) k with
    | none => s
    | some j =>
      match j.fault with
      | none => s
      | some (code, sub, t) =>
        let s := s.dropJob (sheetOf p) j
        match j.panel with
        | some q =>
          let r : Raise := { code := code, sub := sub, tval := t, queue := some 3, pc := 0#64, after := true, access := none, early := false }
          (s.mapCtx q fun v c => (c.lessJob j v.writes).jobFault r v.gcyc).empty q
        | none =>
          let s := if code = causeUncorrectable then s.noteError { cls := 3, scope := 6, detail := t } else s
          match j.packet with | some id => s.finishPacket id 8 code.toNat 0 0 | none => s)

end Sys2Proof.Machine
end

