-- ==== Sys2Proof/Machine/HostRegs.lean ====
section
/-!
DEFINITION. What the host sees of the package: BAR0's registers (R355, R356, R359, R362, R363), and BAR2 (R354, R357).
-/

namespace Sys2Proof.Machine

/-! BAR0. -/

/-- The features offered (R362). -/
def featuresOffered : U64 := 0x7F#64

/-- DEVSTAT (R356). -/
def Bar0.devstat (b : Bar0) : U64 :=
  (b.dropfinc.setWidth 64 <<< 32) ||| (ofBool64 b.halt <<< 2) ||| (ofBool64 b.featerr <<< 1) ||| ofBool64 b.ready

/-- QSTAT (R356). -/
def HostQueue.status (q : HostQueue) : U64 := (q.stalecnt.setWidth 64 <<< 32) ||| q.stat.setWidth 64

/-- A queue's register (R356). -/
def HostQueue.read (q : HostQueue) (off : Nat) : U64 :=
  match off with
  | 0 => q.base
  | 8 => q.ctl
  | 16 => q.head.setWidth 64
  | 24 => q.tail.setWidth 64
  | 40 => q.status
  | _ => 0#64

/-- What a host read of BAR0 returns (R355, R356). -/
def State.regRead (s : State) (off size : Nat) : U64 :=
  if size ≠ 8 ∨ off % 8 ≠ 0 then ~~~0#64
  else if 0x10000 ≤ off ∧ off < 0x11000 then (s.queue ((off - 0x10000) / 64)).read (off % 64)
  else
    match off with
    | 0x00 => (s.bar0.step.setWidth 64 <<< 16) ||| 0x0E04#64
    | 0x10 => featuresOffered
    | 0x20 => s.bar0.featacc0
    | 0x28 => s.bar0.featacc1
    | 0x40 => ofBool64 s.bar0.en
    | 0x48 => s.bar0.devstat
    | 0x100 => s.bar0.spanTable ||| ofBool64 s.bar0.applying
    | 0x108 => s.bar0.hwin
    | _ => 0#64

/-- The size of BAR2 (R354). -/
def Bar0.window (b : Bar0) : Nat := 2 ^ b.bar2Log

/-- The reader has begun a packet: its header is being read, or has matched. -/
def HostQueue.busy (q : HostQueue) : Bool := q.matched.isSome || q.asked.isSome

/-- A queue without the reader that has not begun a packet (R363): the one in hand is finished first. -/
def HostQueue.rest (q : HostQueue) : HostQueue :=
  match q.reader with
  | .reading 0 _ => if q.busy then q else { q with reader := .asleep }
  | _ => q

/-- A write of QCTL that sets EN is refused (R356, R362). -/
def State.queueRefused (s : State) (q : HostQueue) (v : U64) : Bool × State :=
  let r := s.translate 0 false q.base.toNat
  let hbm : Bool := match r.1 with | .leaf _ bits => !leafHost bits | _ => false
  let host : Bool := match r.1 with | .leaf _ bits => leafHost bits | _ => false
  (someBit v 8 63 || decide (12 ≤ (v.extractLsb' 4 4).toNat) || bit v 3 || q.base.toNat % 64 != 0 ||
    (bit v 2 && (!bit s.bar0.featacc0 2 || !hbm)) || (!bit s.bar0.featacc0 1 && !host), r.2)

/-- Setting QCTL.EN (R356): CFGERR, or a queue whose counts are 0. -/
def State.enableQueue (s : State) (k : Nat) (v : U64) : State :=
  let q := s.queue k
  let r := s.queueRefused q v
  if r.1 then r.2.putQueue k { q with ctl := v &&& ~~~1#64, stat := q.stat ||| 4#4 }
  else r.2.putQueue k { q with ctl := v, head := 0#32, tail := 0#32, reader := .asleep, asked := none, matched := none, launchers := [] }

/-- Clearing QCTL.EN (R356): the reader stops after its packet. -/
def State.disableQueue (s : State) (k : Nat) : State :=
  let q := s.queue k
  s.putQueue k ({ q with ctl := q.ctl &&& ~~~1#64 }).rest

/-- A write of QCTL (R356). -/
def State.writeQctl (s : State) (k : Nat) (v : U64) : State :=
  let q := s.queue k
  if q.enabled then (if bit v 0 then s else s.disableQueue k)
  else if bit v 0 then s.enableQueue k v
  else s.putQueue k { q with ctl := v }

/-- QSTAT's bits are cleared by writing one (R356). -/
def HostQueue.clearStat (q : HostQueue) (v : U64) : HostQueue := { q with stat := q.stat &&& ~~~(v.extractLsb' 0 4) }

/-- Host writes that came before are in every view, those through BAR2 to host memory among them: a kick is a release at system
scope (R361). -/
def State.hostRelease (s : State) : State :=
  s.settle allViews ((s.writes.filter fun w => w.agent == .host).map (·.id))

/-- The reader of a queue wakes when the package and the queue are enabled (R359, R363). -/
def State.wakeQueue (s : State) (k : Nat) : State :=
  let q := s.queue k
  if s.bar0.en && q.enabled then s.putQueue k (q.wake s.gcyc) else s

/-- A kick of queue k with tail v (R359). -/
def State.kickQueue (s : State) (k : Nat) (v : U32) : State :=
  let s := s.hostRelease
  let q := s.queue k
  if !q.enabled then s.putQueue k { q with stat := q.stat ||| 2#4 }
  else if q.deviceFed then s.putQueue k { q with stat := q.stat ||| 8#4 }
  else if q.size < (v - q.head).toNat then s.putQueue k { q with stat := q.stat ||| 2#4 }
  else
    let d := v - q.tail
    (s.putQueue k (if d ≠ 0#32 ∧ d.msb = false then { q with tail := v } else q)).wakeQueue k

/-- A link that is down when EN is set: with feature 4 it begins to train, and one that stays down counts as a link down after 100 ms
(R363, R411). -/
def Link.trains (k : Link) (g : Nat) (on : Bool) : Link := { k with since := g, downSince := if on then some g else none }

/-- Setting DEVCTL.EN (R363): links begin to train. -/
def State.enableDevice (s : State) : State :=
  let b := s.bar0
  if b.en then s
  else if !b.ready || b.featacc0 &&& ~~~featuresOffered != 0#64 || b.featacc1 != 0#64 || !s.packets.isEmpty then
    { s with bar0 := { b with featerr := true } }
  else
    let s := { s with bar0 := { b with featerr := false, en := true, feats := b.featacc0 },
                      links := vmap (fun _ (k : Link) => if k.up then k else k.trains s.gcyc (bit b.featacc0 4 && !s.boot.noSpan)) s.links }
    (List.range 64).foldl State.wakeQueue s

/-- Span links close once nothing is in flight on them (R363). -/
def State.closeLinks (s : State) : State :=
  if s.bar0.en || !s.remote.isEmpty then s
  else { s with links := vmap (fun _ (k : Link) => { k with up := false, downSince := none, since := if k.up then s.gcyc else k.since }) s.links }

/-- Clearing DEVCTL.EN (R363). -/
def State.disableDevice (s : State) : State :=
  ({ s with bar0 := { s.bar0 with en := false }, queues := vmap (fun _ q => HostQueue.rest q) s.queues }).closeLinks

/-- DEVCTL.RESET (R363): every task stops at once, and the package starts again. HBM, host memory, the flash and the straps
are what they were. (Log entry 69: DEDUCED.) -/
def State.restart (s : State) : State :=
  let f := s.flush
  let r := State.reset
  { r with
    hbm := f.hbm, hostMem := f.hostMem, badHbm := f.badHbm, flash := f.flash
    bar0 := { r.bar0 with step := f.bar0.step, bar2Log := f.bar0.bar2Log }
    boot := { bootno := f.boot.bootno + 1, step := some (0, false, 0) }
    fresh := f.fresh
    inputs := f.inputs.map fun x => (x.1 - f.gcyc, x.2)
    outputs := f.outputs }

/-- A write of SPANCFG (R356, R372). -/
def State.writeSpancfg (s : State) (v : U64) : State :=
  if someBit v 56 63 || someBit v 1 5 then s
  else { s with bar0 := { s.bar0 with spanTable := v &&& ~~~1#64, applying := s.bar0.applying || bit v 0 } }

/-- A host write of BAR0 (R355, R356). -/
def State.regWrite (s : State) (off size : Nat) (v : U64) : State :=
  let b := s.bar0
  if size ≠ 8 ∨ off % 8 ≠ 0 then s
  else if 0x10000 ≤ off ∧ off < 0x11000 then
    let k := (off - 0x10000) / 64
    let q := s.queue k
    match off % 64 with
    | 0 => if q.enabled then s else s.putQueue k { q with base := v }
    | 8 => s.writeQctl k v
    | 32 => s.kickQueue k (v.extractLsb' 0 32)
    | 40 => s.putQueue k (q.clearStat v)
    | _ => s
  else
    match off with
    | 0x20 => if b.en then s else { s with bar0 := { b with featacc0 := v } }
    | 0x28 => if b.en then s else { s with bar0 := { b with featacc1 := v } }
    | 0x40 =>
      if someBit v 2 63 then s
      else if bit v 1 then s.restart
      else if bit v 0 then s.enableDevice
      else if b.en then s.disableDevice
      else s
    | 0x100 => s.writeSpancfg v
    | 0x108 =>
      if someBit v 56 63 || someBit v 0 15 || v.toNat % b.window != 0 then s else { s with bar0 := { b with hwin := v } }
    | _ => s

/-- HOST_REGISTER_WRITE (R356). -/
def execHostRegisterWrite (off size : Nat) (v : BitVec 64) (s : State) : Host.Outcome State Fault Refusal := .next (s.regWrite off size v)

/-- KICK (R359). -/
def execKick (q : Nat) (v : BitVec 32) (s : State) : Host.Outcome State Fault Refusal := .next (s.kickQueue q v)

/-- DEVICE_ENABLE (R363). -/
def execDeviceEnable (s : State) : Host.Outcome State Fault Refusal := .next s.enableDevice

/-- DEVICE_DISABLE (R363). -/
def execDeviceDisable (s : State) : Host.Outcome State Fault Refusal := .next s.disableDevice

/-- PACKAGE_RESET (R363). -/
def execPackageReset (s : State) : Host.Outcome State Fault Refusal := .next s.restart

/-- QUEUE_ENABLE (R356): a write of QCTL that sets EN; while EN is 1 it changes nothing. -/
def execQueueEnable (q : Nat) (v : BitVec 64) (s : State) : Host.Outcome State Fault Refusal :=
  .next (if (s.queue q).enabled then s else s.enableQueue q (v ||| 1#64))

/-- QUEUE_DISABLE (R356): a write of QCTL that clears EN. -/
def execQueueDisable (q : Nat) (v : BitVec 64) (s : State) : Host.Outcome State Fault Refusal :=
  .next (s.writeQctl q (v &&& ~~~1#64))

/-- QSTAT_CLEAR (R356). -/
def execQstatClear (q : Nat) (v : BitVec 64) (s : State) : Host.Outcome State Fault Refusal :=
  .next (s.putQueue q ((s.queue q).clearStat v))

/-- SPANCFG_APPLY (R372): a write of SPANCFG. -/
def execSpancfgApply (v : BitVec 64) (s : State) : Host.Outcome State Fault Refusal := .next (s.writeSpancfg (v ||| 1#64))

/-! BAR2 (R357). -/

/-- The steward records a refused access (R357, R411). -/
def State.bar2Refused (s : State) (va : U64) : State := s.noteError { cls := 9, scope := 6, detail := va }

/-- The place of a byte behind BAR2: physical address and leaf; the steward is not asked for a page (R357, R396). -/
def State.bar2Place (s : State) (va : U64) : Option (Nat × U64) × State :=
  if va.extractLsb' 56 8 ≠ 0#8 ∨ isLocal va = true then (none, s)
  else
    let r := s.translate 0 false va.toNat
    match r.1 with
    | .leaf pa bits => (some (pa, bits), r.2)
    | _ => (none, r.2)

/-- The pages of n bytes from a virtual address: where each begins, and how many of the bytes lie in it. -/
def pagesOf : Nat → Nat → Nat → List (Nat × Nat)
  | 0, _, _ => []
  | k + 1, va, n =>
    if n = 0 then []
    else
      let m := Nat.min n (65536 - va % 65536)
      (va, m) :: pagesOf k (va + m) (n - m)

/-- The pages of an access behind BAR2; none when one of them is refused. -/
def State.bar2Pages (s : State) (write : Bool) : List (Nat × Nat) → Option (List (Nat × U64 × Nat)) × State
  | [] => (some [], s)
  | x :: xs =>
    let r := s.bar2Place (u64 x.1)
    match r.1 with
    | some (pa, bits) =>
      if write && !leafWritable bits then (none, r.2)
      else
        let q := r.2.bar2Pages write xs
        (q.1.map fun l => (pa, bits, x.2) :: l, q.2)
    | none => (none, r.2)

/-- An access lies inside BAR2. -/
def Bar0.holds (b : Bar0) (off n : Nat) : Bool := decide (off + n ≤ b.window)

/-- BAR2_READ (R357). -/
def execBar2Read (off n : Nat) (s : State) : Host.Outcome State Fault Refusal :=
  .next (
    let va := s.bar0.hwin.toNat + off
    if !s.bar0.holds off n then s.emit (.unsupported off)
    else
      let r := s.bar2Pages false (pagesOf (n / 65536 + 2) va n)
      match r.1 with
      | some ps =>
        r.2.emit (.bar2Data off (ps.flatMap fun p => r.2.readBytes hostView .host (leafHost p.2.1) p.1 p.2.2))
      | none => (r.2.bar2Refused (u64 va)).emit (.unsupported off))

/-- Bytes cut at the boundaries of aligned pieces of w bytes (R82): address and bytes of each, at most k of them. -/
def piecesOf (w : Nat) : Nat → Nat → List Byte → List (Nat × List Byte)
  | 0, _, _ => []
  | k + 1, a, xs =>
    if xs.isEmpty then []
    else
      let m := Nat.min xs.length (w - a % w)
      (a, xs.take m) :: piecesOf w k (a + m) (xs.drop m)

/-- A write of the host's (R82): posted writes of one requester stay in order (R361). -/
def State.hostWrite (s : State) (host : Bool) (addr : Nat) (data : List Byte) : State :=
  (piecesOf 8 (data.length / 8 + 2) addr data).foldl (fun s x =>
    s.perform { agent := .host, view := hostView, onHost := host, addr := x.1, data := x.2,
                needs := (s.writes.filter fun w => w.agent == .host).map fun w => (w.id, allViews) }) s

/-- The bytes of a write behind BAR2, page by page. -/
def State.bar2Put (s : State) : List (Nat × U64 × Nat) → List Byte → State
  | [], _ => s
  | p :: ps, data => (s.hostWrite (leafHost p.2.1) p.1 (data.take p.2.2)).bar2Put ps (data.drop p.2.2)

/-- BAR2_WRITE (R357). -/
def execBar2Write (off : Nat) (data : List (BitVec 8)) (s : State) : Host.Outcome State Fault Refusal :=
  .next (
    let va := s.bar0.hwin.toNat + off
    if !s.bar0.holds off data.length then s
    else
      let r := s.bar2Pages true (pagesOf (data.length / 65536 + 2) va data.length)
      match r.1 with
      | some ps => r.2.bar2Put ps data
      | none => r.2.bar2Refused (u64 va))

/-- A PCIe AtomicOp: 0 FetchAdd, 1 Swap, 2 CAS (R354). -/
def atomicOpNew (op bits old x y : Nat) : Option Nat :=
  match op with
  | 0 => some ((old + x) % 2 ^ bits)
  | 1 => some (x % 2 ^ bits)
  | _ => if old = x % 2 ^ bits then some (y % 2 ^ bits) else none

/-- BAR2_ATOMIC (R92, R354, R357, R362): of width 32 or 64 bits, with the operand, or the comparand and the new value; another
width is an Unsupported Request. -/
def execBar2Atomic (off width op : Nat) (x y : BitVec 64) (s : State) : Host.Outcome State Fault Refusal :=
  .next (
    let n := width / 8
    let va := s.bar0.hwin.toNat + off
    if !bit s.bar0.feats 0 || !(width == 32 || width == 64) || !s.bar0.holds off n || va % n != 0 || decide (3 ≤ op) then
      s.emit (.unsupported off)
    else
      let r := s.bar2Place (u64 va)
      match r.1 with
      | none => (r.2.bar2Refused (u64 va)).emit (.unsupported off)
      | some (pa, bits) =>
        if !leafWritable bits then (r.2.bar2Refused (u64 va)).emit (.unsupported off)
        else if leafHost bits || !leafSysat bits then r.2.emit (.unsupported off)
        else
          let old := r.2.homeNum false pa n
          let s := match atomicOpNew op width old x.toNat y.toNat with
            | some z => r.2.hostWrite false pa (bytesOfNat n z)
            -- what it has read is in the host's view from now on (R83)
            | none => r.2.settle (BitVec.ofNat 5 (2 ^ hostView)) (r.2.latestIds false pa n)
          s.emit (.bar2Data off (bytesOfNat n old)))

end Sys2Proof.Machine
end

