-- ==== Sys2Proof/Machine/Loader.lean ====
section
/-!
DEFINITION. The loader's checks and arithmetic (R321 to R334): a function from the bytes of an object file and the base of
its image to the contents of its sections, or to the first failure with its code and detail.
-/

namespace Sys2Proof.Machine

/-- A failure of the loader: code and detail (R334). -/
abbrev LoadError := Nat × Nat

/-- A section record (R324). -/
structure Sect where
  name : Nat
  kind : Nat
  align : Nat
  imgOff : Nat
  fileOff : Nat
  size : Nat
  deriving DecidableEq, Repr

/-- A symbol record (R325). -/
structure Sym where
  name : Nat
  sect : Nat
  type : Nat
  bind : Nat
  value : Nat
  size : Nat
  deriving DecidableEq, Repr

/-- A relocation record (R327). -/
structure Reloc where
  offset : Nat
  symbol : Nat
  type : Nat
  sect : Nat
  addend : Int
  pair : Nat
  deriving DecidableEq, Repr

/-- An object file: its bytes, its tables, and the base of its image. -/
structure Obj where
  file : List Byte
  base : Nat
  imageSize : Nat := 0
  strOff : Nat := 0
  strSize : Nat := 0
  sects : List Sect := []
  syms : List Sym := []
  relocs : List Reloc := []
  deriving DecidableEq, Repr

/-- n bytes of a file at an offset, as a number; bytes beyond its end count as zero. -/
def fileNum (f : List Byte) (a n : Nat) : Nat := natOfBytes ((f.drop a).take n)

/-- The first failure of a list of checks: a check that fails is true. -/
def firstBad : List (Bool × LoadError) → Option LoadError
  | [] => none
  | (bad, e) :: xs => if bad then some e else firstBad xs

/-! The header (R323). -/

/-- The failures of the header, in the order of its fields, and then of what lies past the end of the file. -/
def headerBad (f : List Byte) : Option LoadError :=
  let u (a n : Nat) : Nat := fileNum f a n
  let len := f.length
  firstBad [
    (u 0 4 != 0x4C485A47 || u 4 2 != 1 || u 6 2 != 0x0E04, (1, 0)),
    (u 8 8 % 65536 != 0 || decide (2 ^ 56 ≤ u 8 8), (2, 8)),
    (u 16 8 % 65536 != 0 || decide (u 16 8 < 65536) || decide (2 ^ 32 < u 16 8), (2, 16)),
    (decide (u 24 2 < 1) || decide (16 < u 24 2), (2, 24)),
    (u 26 2 != 0, (2, 26)),
    (decide (u 28 4 < 1) || decide (65535 < u 28 4), (2, 28)),
    (decide (2 ^ 20 < u 32 4), (2, 32)),
    (u 36 4 != 0, (2, 36)),
    (u 40 8 % 8 != 0 || decide (len < u 40 8 + 32 * u 24 2), (2, 40)),
    (u 48 8 % 8 != 0 || decide (len < u 48 8 + 24 * u 28 4), (2, 48)),
    (u 56 8 % 8 != 0 || decide (len < u 56 8 + 32 * u 32 4), (2, 56)),
    (decide (len < u 64 8 + u 72 8), (2, 64)),
    (decide (u 72 8 < 1) || u (u 64 8 + u 72 8 - 1) 1 != 0, (2, 72)),
    (u 80 8 != len, (2, 80)),
    (u 88 8 != 0, (2, 88)),
    ((List.range (u 24 2)).any fun k => decide (len < u (u 40 8 + 32 * k + 16) 8 + u (u 40 8 + 32 * k + 24) 8), (2, 80))]

/-- The tables of a file whose header is good. -/
def parseObj (f : List Byte) (base : Nat) : Obj :=
  let u (a n : Nat) : Nat := fileNum f a n
  let sect (k : Nat) : Sect :=
    let a := u 40 8 + 32 * k
    ⟨u a 4, u (a + 4) 2, u (a + 6) 2, u (a + 8) 8, u (a + 16) 8, u (a + 24) 8⟩
  let sym (k : Nat) : Sym :=
    let a := u 48 8 + 24 * k
    ⟨u a 4, u (a + 4) 2, u (a + 6) 1, u (a + 7) 1, u (a + 8) 8, u (a + 16) 8⟩
  let reloc (k : Nat) : Reloc :=
    let a := u 56 8 + 32 * k
    let x := u (a + 16) 8
    ⟨u a 8, u (a + 8) 4, u (a + 12) 2, u (a + 14) 2, if x < 2 ^ 63 then x else (x : Int) - 2 ^ 64, u (a + 24) 8⟩
  { file := f, base := base, imageSize := u 16 8, strOff := u 64 8, strSize := u 72 8,
    sects := (List.range (u 24 2)).map sect, syms := (List.range (u 28 4)).map sym, relocs := (List.range (u 32 4)).map reloc }

/-- Section k of an object, counted from 1. -/
def Obj.sect? (o : Obj) (k : Nat) : Option Sect := if k = 0 then none else o.sects[k - 1]?
/-- The kind of section k, 0 for none. -/
def Obj.kindOf (o : Obj) (k : Nat) : Nat := match o.sect? k with | some s => s.kind | none => 0

/-- A name is not the offset of a string (R326). -/
def Obj.nameBad (o : Obj) (n : Nat) : Bool :=
  decide (o.strSize ≤ n) || (n != 0 && fileNum o.file (o.strOff + n - 1) 1 != 0)

/-- The bytes of a string. -/
def Obj.string (o : Obj) (n : Nat) : List Byte := ((o.file.drop (o.strOff + n)).take (o.strSize - n)).takeWhile fun b => b != 0#8

/-! Sections (R321, R324). -/

/-- Two sections share a byte of the image. -/
def Sect.meets (x y : Sect) : Bool :=
  x.kind != 5 && y.kind != 5 && decide (x.imgOff < y.imgOff + y.size) && decide (y.imgOff < x.imgOff + x.size)

/-- The failure of section k, counted from 1, if any. -/
def Obj.sectBad (o : Obj) (k : Nat) (s : Sect) : Option LoadError :=
  let others := (List.range o.sects.length).filterMap fun i => if i + 1 = k then none else o.sects[i]?
  let earlier := (o.sects.take (k - 1)).filter fun t => t.kind == s.kind
  firstBad [
    (o.nameBad s.name, (3, k)),
    (s.kind == 0 || decide (7 ≤ s.kind) || (s.kind != 6 && !earlier.isEmpty), (3, k)),
    (decide (s.align < 2) || decide (16 < s.align) || (s.kind == 6 && decide (s.align < 6)), (3, k)),
    (match s.kind with
      | 1 => s.imgOff != 0
      | 5 => s.imgOff != 0xFFFFFFFFFFFFFFFF
      | _ => s.imgOff % 65536 != 0 || decide (o.imageSize < s.imgOff + s.size) || others.any s.meets, (3, k)),
    (s.fileOff % 4 != 0, (3, k)),
    (s.kind == 1 && decide (65536 < s.size), (4, k)),
    (s.kind == 5 && decide (0x1E00 < s.size), (5, k)),
    (match s.kind with
      | 1 => decide (s.size < 4) || s.size % 4 != 0
      | 5 => s.size % 4 != 0
      | 4 => s.size % 8 != 0 || decide (2048 < s.size)
      | _ => false, (3, k))]

/-- The first failure of a list's elements, counted from k. -/
def firstOf {α : Type} (f : Nat → α → Option LoadError) : Nat → List α → Option LoadError
  | _, [] => none
  | k, x :: xs => match f k x with | some e => some e | none => firstOf f (k + 1) xs

/-- The first failure of the sections; an object without TEXT fails too. -/
def Obj.sectsBad (o : Obj) : Option LoadError :=
  match firstOf o.sectBad 1 o.sects with
  | some e => some e
  | none => if o.sects.any fun s => s.kind == 1 then none else some (3, 0)

/-! Symbols (R325). -/

/-- The failure of symbol k, if any. -/
def Obj.symBad (o : Obj) (k : Nat) (s : Sym) : Option LoadError :=
  if k = 0 then (if s = ⟨0, 0, 0, 0, 0, 0⟩ then none else some (6, 0))
  else
    let bad :=
      o.nameBad s.name || (decide (o.sects.length < s.sect) && s.sect != 0xFFFF) || decide (5 ≤ s.type) || decide (2 ≤ s.bind) ||
        (s.type == 3 && s.bind != 1) ||
        (match o.sect? s.sect with | some t => decide (t.size < s.value) | none => false) ||
        (s.type == 3 && (o.kindOf s.sect != 1 || s.value % 64 != 0)) ||
        (s.type == 4 && (o.kindOf s.sect != 6 || s.value != 0)) ||
        (s.bind == 1 && ((o.syms.take k).drop 1).any fun t => t.bind == 1 && o.string t.name == o.string s.name)
    if bad then some (6, k) else none

/-- The address of an offset in a section (R325). -/
def Obj.addrOf (o : Obj) (sect off : Nat) : Nat :=
  match o.sect? sect with
  | none => off
  | some s => if s.kind = 5 then 0x00FF000000100000 + off else o.base + s.imgOff + off

/-- The address of a symbol (R325). -/
def Obj.symAddr (o : Obj) (s : Sym) : Nat := o.addrOf s.sect s.value

/-! Relocations (R330 to R332). -/

/-- The upper and the lower part of a value (R330). -/
def hi20 (v : Int) : Nat := ((v + 0x800) / 4096 % 1048576).toNat
def lo12 (v : Int) : Nat := ((v - (v + 0x800) / 4096 * 4096) % 4096).toNat

/-- An instruction word with an imm12 field that a relocation may patch (R330). -/
def imm12Site (w : Nat) : Bool :=
  let fn3 := w % 8
  match w / 2 ^ 26 % 64 with
  | 1 => decide (fn3 ≤ 3) || fn3 == 7
  | 4 => decide (fn3 ≤ 6)
  | 5 => decide (fn3 ≤ 3)
  | 12 => fn3 == 0
  | _ => false

/-- The instruction word that a relocation type patches is of its kind (R330). -/
def siteOk (type w : Nat) : Bool :=
  let major := w / 2 ^ 26 % 64
  match type with
  | 2 => major == 2
  | 4 => major == 3
  | 6 => major == 7 && w / 2 ^ 23 % 4 == 0
  | _ => imm12Site w

/-- G of a symbol: the lowest ABS64 entry of GOT for it with addend 0 (R332). -/
def Obj.gotOf (o : Obj) (sym : Nat) : Option Nat :=
  (o.relocs.filter fun r => r.type == 1 && o.kindOf r.sect == 4 && r.symbol == sym && r.addend == 0).foldl
    (fun m r => match m with | some x => some (Nat.min x r.offset) | none => some r.offset) none

/-- The bytes of the sections while the relocations are applied: one list for each section. -/
abbrev Contents := List (List Byte)

/-- The number in n bytes of a section. -/
def Contents.num (c : Contents) (sect off n : Nat) : Nat := fileNum (c.getD (sect - 1) []) off n

/-- The sections with n bytes of one replaced. -/
def Contents.put (c : Contents) (sect off n x : Nat) : Contents :=
  let b := c.getD (sect - 1) []
  c.set (sect - 1) (b.take off ++ bytesOfNat n x ++ b.drop (off + n))

/-- A word with n bits from bit lo on replaced. -/
def putField (w lo n x : Nat) : Nat := w / 2 ^ (lo + n) * 2 ^ (lo + n) + x % 2 ^ n * 2 ^ lo + w % 2 ^ lo

/-- Apply relocation k, or find its failure: an undefined symbol, the record checks, the range (R327, R330 to R332). -/
def Obj.relocate (o : Obj) (c : Contents) (k : Nat) (r : Reloc) : Except LoadError Contents :=
  let bad : Except LoadError Contents := .error (7, k)
  match (if r.symbol = 0 then none else o.syms[r.symbol]?), o.sect? r.sect with
  | some y, some t =>
    if y.sect = 0xFFFF then .error (0xA, k)
    else if 9 ≤ r.type ∨ (r.type ≠ 5 ∧ r.pair ≠ 0) then bad
    else
      let inTrap := t.kind == 5
      let ofTrap := o.kindOf y.sect == 5
      let allowed : Bool := match t.kind with
        | 1 => r.type != 1
        | 5 => r.type == 0 || r.type == 6 || r.type == 8
        | 2 | 3 | 4 => decide (r.type ≤ 1)
        | _ => false
      if !allowed || (ofTrap && !inTrap) || (r.type == 6 && t.kind == 1 && o.kindOf y.sect != 1) || (r.type == 6 && inTrap && !ofTrap) then
        bad
      else
        let n := if r.type = 1 then 8 else 4
        if r.offset % n ≠ 0 ∨ t.size < r.offset + n then bad
        else if r.type = 0 then .ok c
        else
          let w := c.num r.sect r.offset n
          let s : Int := o.symAddr y
          let p : Int := o.addrOf r.sect r.offset
          if r.type ≠ 1 ∧ !siteOk r.type w then bad
          else
            let far : Except LoadError Contents := .error (8, k)
            let put (lo n x : Nat) : Except LoadError Contents := .ok (c.put r.sect r.offset 4 (putField w lo n x))
            let upper (v : Int) : Except LoadError Contents :=
              if v < -(2 ^ 31) - 0x800 ∨ 2 ^ 31 - 0x800 ≤ v then far else put 0 20 (hi20 v)
            let v := s + r.addend
            match r.type with
            | 1 => .ok (c.put r.sect r.offset 8 (v % 2 ^ 64).toNat)
            | 2 => upper v
            | 3 => put 3 12 (lo12 v)
            | 4 => upper (v - p)
            | 5 =>
              if o.relocs.any fun q =>
                  q.type == 4 && q.sect == r.sect && q.offset == r.pair && q.symbol == r.symbol && q.addend == r.addend then
                put 3 12 (lo12 (v - (o.addrOf r.sect r.pair : Int)))
              else bad
            | 6 => if (v - p) % 4 ≠ 0 ∨ v - p < -(2 ^ 22) ∨ 2 ^ 22 ≤ v - p then far else put 0 21 ((v - p) / 4 % 2 ^ 21).toNat
            | 7 =>
              if r.addend ≠ 0 then bad
              else match o.gotOf r.symbol with
                | some g => if 2040 < g then far else put 3 12 g
                | none => bad
            | _ => if v < -2048 ∨ 2047 < v then far else put 3 12 (v % 4096).toNat
  | _, _ => bad

/-- An ABS64 relocation of an entry of GOT. -/
def Obj.ofGot (o : Obj) (r : Reloc) : Bool := r.type == 1 && o.kindOf r.sect == 4

/-- Relocation k is a second ABS64 relocation of an entry of GOT (R331). -/
def Obj.gotTwice (o : Obj) (k : Nat) (r : Reloc) : Bool :=
  o.ofGot r && (o.relocs.take k).any fun q => o.ofGot q && q.offset == r.offset

/-- Apply the relocations in index order, up to the first failure (R333). -/
def Obj.relocAll (o : Obj) : Nat → List Reloc → Contents → Except LoadError Contents
  | _, [], c => .ok c
  | k, r :: rs, c =>
    match o.relocate c k r with
    | .ok c => if o.gotTwice k r then .error (7, k) else o.relocAll (k + 1) rs c
    | .error e => .error e

/-- An entry of GOT carries no ABS64 relocation (R331): the number of relocations. -/
def Obj.gotBad (o : Obj) : Option LoadError :=
  match o.sects.find? fun s => s.kind == 4 with
  | some s =>
    if (List.range (s.size / 8)).all fun i => o.relocs.any fun r => o.ofGot r && r.offset == 8 * i then none
    else some (7, o.relocs.length)
  | none => none

/-! The loader (R333). -/

/-- What a load gives: the image's size, its sections with their contents, and the offsets of its kernels. -/
structure Loaded where
  size : Nat
  /-- kind, image offset, contents -/
  parts : List (Nat × Nat × List Byte)
  kernels : List Nat
  deriving DecidableEq, Repr

/-- The checks of the loader in their order, and the image that they let through. -/
def loadObject (f : List Byte) (base : Nat) : Except LoadError Loaded :=
  match headerBad f with
  | some e => .error e
  | none =>
    let o := parseObj f base
    if base % 65536 ≠ 0 ∨ 2 ^ 56 < base + o.imageSize then .error (9, 0)
    else
      match o.sectsBad with
      | some e => .error e
      | none =>
        match firstOf o.symBad 0 o.syms with
        | some e => .error e
        | none =>
          match o.relocAll 0 o.relocs (o.sects.map fun s => (f.drop s.fileOff).take s.size) with
          | .error e => .error e
          | .ok c =>
            match o.gotBad with
            | some e => .error e
            | none =>
              .ok { size := o.imageSize
                    parts := (o.sects.zip c).map fun x => (x.1.kind, x.1.imgOff, x.2)
                    kernels := (o.syms.filter fun y => y.type == 3).map (·.value) }

/-- The page attributes of a section kind, as the leaf's W and X (R321). -/
def sectRights (kind : Nat) : Bool × Bool := (kind == 3, kind == 1)

end Sys2Proof.Machine
end

