-- ==== Sys2Proof/Machine/Packets.lean ====
section
/-!
DEFINITION. Submission queues: the readers (R358 to R361), acceptance and its checks (R364 to R367), and the packets other
than LAUNCH and COPY (R333, R368).
-/

namespace Sys2Proof.Machine

/-! The grid as the survey leaves it (R382, R413). -/

/-- A panel takes new tasks: it is in service, and no cell of it is suspect (R414). (Log entry 28: DEDUCED.) -/
def State.inService (s : State) (p : Nat) : Bool := (vget {} s.fleet.survey p).state == 0 && (vget {} s.fleet.survey p).suspect == 0#16

/-- The panels of a rectangle of the package grid, row by row (R22). -/
def rectPanels (x y w h : Nat) : List Nat := (List.range h).flatMap fun r => (List.range w).map fun c => panelAt (y + r) (x + c)

/-- The origins of a shape in the order in which the steward tries them (R382): Y0, then X0. -/
def originsOf (w h : Nat) : List (Nat × Nat) := (List.range (17 - h)).flatMap fun y => (List.range (17 - w)).map fun x => (x, y)

/-- Some rectangle of the shape lies in service. -/
def State.fits (s : State) (w h : Nat) : Bool := (originsOf w h).any fun o => (rectPanels o.1 o.2 w h).all s.inService

/-! Images (R333, R368). -/

/-- A live handle: its reference count is not 0. -/
def State.image? (s : State) (handle : Nat) : Option Image := s.images.find? fun i => i.handle.toNat == handle && decide (0 < i.refs)

/-- The image at a base. -/
def State.imageAt? (s : State) (base : U64) : Option Image := s.images.find? fun i => i.base == base

/-- The package with the reference count of an image replaced. -/
def State.countImage (s : State) (i : Image) (n : Nat) : State :=
  { s with images := s.images.map fun (j : Image) => if j.base = i.base then { j with refs := n } else j }

/-- Take n bytes, a multiple of 64 KiB, from the steward's HBM pool. -/
def takePool (n : Nat) : List (Nat × Nat) → Option (Nat × List (Nat × Nat))
  | [] => none
  | r :: rs =>
    if n < r.2 then some (r.1, (r.1 + n, r.2 - n) :: rs)
    else if n = r.2 then some (r.1, rs)
    else (takePool n rs).map fun q => (q.1, r :: q.2)

/-- The steward's own entry of a page table, read as its walker reads it. -/
def State.tableEntry (s : State) (a : Nat) : U64 := BitVec.ofNat 64 (s.stewardRead a 8)

/-- Make a virtual page of 64 KiB lead to a leaf, from a table at a level on, with tables from the pool where there is none; none
when the pool is empty or something stands in the way. -/
def State.mapPage (s : State) (va : Nat) (leaf : U64) : Nat → Nat → Option State
  | 0, _ => none
  | n + 1, table =>
    let a := table + 8 * (va / 2 ^ (16 + 10 * n) % 1024)
    let x := s.tableEntry a
    if n = 0 then (if bit x 0 then none else some (s.stewardWrite a (bytesOfNat 8 leaf.toNat)))
    else if bit x 0 then
      if bit x 1 && !tableBad x then s.mapPage va leaf n (fieldOf x 13 43 * 8192) else none
    else
      match takePool 65536 s.pool with
      | none => none
      | some (t, rest) =>
        let s := ({ s with pool := rest }).stewardWrite t (List.replicate 8192 0#8)
        (s.stewardWrite a (bytesOfNat 8 (t + 3))).mapPage va leaf n t

/-- Some page of a range is mapped (R368); an invalid entry that is read is recorded (R391). -/
def State.rangeMapped (s : State) (base : Nat) : Nat → Bool × State
  | 0 => (false, s)
  | k + 1 =>
    match s.rangeMapped base k with
    | (true, s) => (true, s)
    | (false, s) =>
      match s.walk 0 false (base + 65536 * k) with
      | .absent _ => (false, s)
      | .leaf _ _ _ _ => (true, s)
      | .invalid level addr => (true, s.badEntry 0 level addr)

/-- The bytes of a page of an image, and its rights: writable, executable (R321). -/
def Loaded.page (l : Loaded) (off : Nat) : List Byte × Bool × Bool :=
  match l.parts.find? fun p => p.1 != 5 && decide (p.2.1 < off + 65536) && decide (off < p.2.1 + p.2.2.length) with
  | some p => (padTo 65536 (p.2.2.drop (off - p.2.1)), sectRights p.1)
  | none => (List.replicate 65536 0#8, false, false)

/-- Write and map the pages of an image from offset off on; the HBM pages, if the pool holds them all.
(Log entry 66: DESIGN CHOICE.) -/
def State.placeImage (s : State) (l : Loaded) (base : Nat) : Nat → Nat → Option (State × List Nat)
  | 0, _ => some (s, [])
  | k + 1, off =>
    match takePool 65536 s.pool with
    | none => none
    | some (pa, rest) =>
      let p := l.page off
      let s := ({ s with pool := rest }).stewardWrite pa p.1
      let leaf : U64 := u64 (pa + 1 + (if p.2.1 then 4 else 0) + (if p.2.2 then 8 else 0))
      match s.mapPage (base + off) leaf 4 0 with
      | none => none
      | some s =>
        match s.placeImage l base k (off + 65536) with
        | some (s, ps) => some (s, pa :: ps)
        | none => none

/-- The address of the leaf of a page, from a table at a level on. -/
def State.leafAddr (s : State) (va : Nat) : Nat → Nat → Option Nat
  | 0, _ => none
  | n + 1, table =>
    let a := table + 8 * (va / 2 ^ (16 + 10 * n) % 1024)
    let x := s.tableEntry a
    if !bit x 0 then none
    else if n = 0 then some a
    else if bit x 1 then s.leafAddr va n (fieldOf x 13 43 * 8192)
    else none

/-- Unmap an image and give its pages back (R368). -/
def State.unmapImage (s : State) (i : Image) : State :=
  let clear (s : State) (k : Nat) : State :=
    match s.leafAddr (i.base.toNat + 65536 * k) 4 0 with
    | some a => s.stewardWrite a (bytesOfNat 8 0)
    | none => s
  let s := (List.range (i.size / 65536)).foldl clear s
  let keep (t : TlbEntry) : Bool := !t.dropped false false i.base.toNat i.size
  { s with images := s.images.filter (fun j => j.base != i.base), pool := s.pool ++ i.pages.map (fun p => (p, 65536))
           sheets := vmap (fun _ (x : Sheet) => { x with tlb := x.tlb.filter keep }) s.sheets }

/-- Dead images that no launch holds any longer are unmapped (R368). -/
def State.sweepImages (s : State) : State :=
  (s.images.filter fun i => i.refs == 0 && !s.packets.any fun p => p.image == some i.base).foldl State.unmapImage s

/-! The checks of a packet (R364 to R368). -/

/-- The first failing field of a list of checks: true and the offset of the field. -/
def firstField : List (Bool × Nat) → Option Nat
  | [] => none
  | (bad, k) :: xs => if bad then some k else firstField xs

/-- The bytes from an offset to 63, which a layout leaves reserved, as one field (R364). (Log entry 31: DEDUCED.) -/
def reservedField (p : Packet) (from_ : Nat) : Bool × Nat := (p.num from_ (64 - from_) != 0, from_)

/-- The header's checks (R364), and feature 6 (R362). -/
def Packet.headerBad (p : Packet) (feats : U64) : Option Nat :=
  firstField [
    (p.kind == 0 || decide (8 ≤ p.kind) || (p.kind == 5 && !bit feats 6), 2),
    (p.num 3 1 / 4 != 0 || (p.conc && (p.kind == 4 || p.kind == 6 || p.kind == 7)), 3),
    (p.num 8 8 % 32 != 0, 8)]

/-- Two ranges of n bytes overlap. -/
def rangesOverlap (a b n : Nat) : Bool := decide (a < b + n) && decide (b < a + n)

/-- The checks of the layouts of R368. -/
def Packet.layoutBad (p : Packet) : Option Nat :=
  match p.kind with
  | 2 =>
    let ref := p.num 44 1 % 2 == 1
    firstField [
      (if ref then p.num 16 8 != 0 else p.num 16 8 % 8 != 0, 16), (ref && p.num 24 8 != 0, 24), (ref && p.num 32 8 != 0, 32),
      (p.num 40 4 == 0, 40), (p.num 44 1 / 2 != 0, 44), reservedField p 45]
  | 3 => firstField [reservedField p 20]
  | 4 => firstField [reservedField p 24]
  | 5 =>
    firstField [
      (rangesOverlap (p.num 16 8) (p.num 24 8) (p.num 32 8), 24), (p.num 32 8 == 0 || decide (2 ^ 40 < p.num 32 8), 32),
      reservedField p 40]
  | 6 => firstField [(p.num 16 8 % 8 != 0, 16), (decide (2 ≤ p.num 32 1), 32), reservedField p 33]
  | 7 =>
    firstField [(p.num 16 8 % 8 != 0, 16), (decide (3 ≤ p.num 32 1), 32), (p.num 33 3 != 0, 33),
      reservedField p 40]
  | _ => none

/-- An argument block or a footprint list stands where it may (R366). -/
def blockBad (a : Nat) : Bool := a % 64 != 0 || decide (2 ^ 56 ≤ a)

/-- The entries of a footprint list (R367). -/
def readFoot : Nat → List Byte → List Region
  | 0, _ => []
  | n + 1, bs =>
    let x := natOfBytes (bs.take 8)
    ⟨x / 2 ^ 62 % 4, x % 2 ^ 62, natOfBytes ((bs.drop 8).take 8)⟩ :: readFoot n (bs.drop 16)

/-- The failing field of entry i of a footprint list, as R370 counts it. -/
def footBad : Nat → List Region → Option Nat
  | _, [] => none
  | i, r :: rs =>
    if r.rights = 0 ∨ 2 ^ 56 ≤ r.start then some (64 + 16 * i)
    else if r.len = 0 ∨ 2 ^ 56 < r.start + r.len then some (64 + 16 * i + 8)
    else footBad (i + 1) rs

/-- A grant is bound to a task: it is from the START that first binds the task until the task has ended (R366, R375, R379). -/
def State.grantLive (s : State) (grant : Nat) : Bool := s.slots.toList.any fun b => b.task.any fun t => t.grant == grant

/-- A LOAD of the handle was accepted before the packet with a number, and has not completed (R366). -/
def State.loading (s : State) (id handle : Nat) : Bool :=
  s.packets.any fun p => decide (p.id < id) && p.kind == 2 && p.num 40 4 == handle && p.num 44 1 == 0

/-- The checks of a LAUNCH (R366, R367): status and detail; with pending true those of its object are left for later. A footprint
list whose page cannot be served fails as FOOT. (Log entry 31: DEDUCED.) -/
def State.launchBad (s : State) (p : Packet) (pending gone : Bool) : Option (Nat × Nat) :=
  let img := s.image? (p.num 16 4)
  let entry := match img with | some i => i.kernels.contains (p.num 20 4) | none => false
  let w := p.num 40 1 % 16 + 1
  let h := p.num 40 1 / 16 + 1
  let grant := p.num 48 2
  let bad := fun (b : Bool) (k : Nat) => (b, (2, k))
  let list := [
    bad (!pending && img.isNone) 16, bad (!pending && !entry) 20, bad (blockBad (p.num 24 8)) 24,
    bad (blockBad (p.num 32 8) || (p.num 32 8 == 0 && p.num 42 1 != 0) || gone) 32, (!s.fits w h, (0x0A, 0)), bad (decide (17 ≤ p.num 42 1)) 42,
    bad (p.num 43 1 / 4 != 0) 43, bad (grant != 0 && (!bit s.bar0.feats 5 || s.grantLive grant)) 48,
    bad (p.num 50 14 != 0) 50]
  match list.find? (fun x => x.1) with
  | some x => some x.2
  | none => (footBad 0 p.foot).map fun k => (2, k)

/-! The readers (R360). -/

/-- The reader of a queue after it has accepted its packet, or has given it up. -/
def State.nextRead (s : State) (k : Nat) (q : HostQueue) : State :=
  let goes := s.bar0.en && q.enabled && q.head != q.tail
  { (s.putQueue k { q with asked := none, matched := none, reader := if goes then .reading 0 (s.gcyc + 1 + Config.readerDelay s.fresh) else .asleep })
    with fresh := s.fresh + 1 }

/-- The matcher's entries that have not retired (R376). -/
def State.matcherCount (s : State) : Nat := (s.packets.filter fun p => p.arrival.isSome && !p.retired).length

/-- The packet accepted: its place in the order of acceptance, and the task whose LAUNCH enqueued it. -/
def State.takeInPacket (s : State) (k : Nat) (q : HostQueue) (p : Packet) : State :=
  let launcher := (q.launchers.find? fun l => l.1 == q.head).map (·.2)
  let p := { p with launcher := launcher.getD 0#64 }
  let q := { q with head := q.head + 1#32, launchers := q.launchers.filter fun l => l.1 != q.head }
  ({ s with packets := s.packets ++ [p], accepted := s.accepted + 1 }).nextRead k q

/-- Check a packet and accept it (R364). A LAUNCH's footprint list is read now (R367). -/
def State.acceptPacket (s : State) (k : Nat) (bytes : List Byte) : State :=
  let q := s.queue k
  let p : Packet := { id := s.accepted, queue := k, count := q.head, bytes := bytes, ready := s.gcyc }
  let launch := p.kind == 1
  match p.headerBad s.bar0.feats with
  | some f => s.takeInPacket k q { p with result := some (if launch then 2 else 1, 0, f, 0) }
  | none =>
    if !launch then
      match p.layoutBad with
      | some f => s.takeInPacket k q { p with result := some (1, 0, f, 0) }
      | none => s.takeInPacket k q p
    else
      let pending := s.loading p.id (p.num 16 4)
      let judge (s : State) (p : Packet) (gone : Bool) : State :=
        match s.launchBad p pending gone with
        | some r => s.takeInPacket k q { p with result := some (r.1, 0, r.2, 0) }
        | none =>
          s.takeInPacket k q { p with phase := if pending then .object else .accepted, image := (s.image? (p.num 16 4)).map (·.base) }
      let n := p.num 42 1
      if blockBad (p.num 32 8) || n == 0 || decide (17 ≤ n) then judge s p false
      else
        let r := s.fetchBytes q.asked (u64 (p.num 32 8)) (16 * n)
        match r.1 with
        | .bytes xs => judge r.2 { p with foot := readFoot n xs } false
        | .wait w => r.2.putQueue k { q with asked := w, matched := some bytes }
        | .gone => judge r.2 p true

/-- The wall cycle of the header read after the one numbered n: 125 ns apart (R360). -/
def nextTry (n at_ : Nat) : Nat := at_ + (525 * (n + 1) / 4 - 525 * n / 4)

/-- A header that does not match (R360): another read, or STALE after the 64th. -/
def State.missHeader (s : State) (k : Nat) (q : HostQueue) (n at_ : Nat) : State :=
  s.putQueue k { q with reader := .reading (n + 1) (nextTry n at_) }

/-- QUEUE_HEADER_READ (R360): the reader of queue q reads the header at QHEAD. -/
def execQueueHeaderRead (q : Nat) (s : State) : Host.Outcome State Fault Refusal :=
  .next (
    let h := s.queue q
    match h.reader with
    | .asleep => s
    | .reading n at_ =>
      if s.gcyc < at_ ∨ (n = 0 ∧ !(s.bar0.en && h.enabled || h.busy)) ∨ 1024 ≤ s.matcherCount ∨ h.head = h.tail then s
      else if h.matched.isSome then s.acceptPacket q (h.matched.getD [])
      else if 64 ≤ n then
        s.putQueue q { h with reader := .asleep, stat := h.stat ||| 1#4,
                              stalecnt := if h.stalecnt = 0xFFFFFFFF#32 then h.stalecnt else h.stalecnt + 1#32 }
      else
        let r := s.page (u64 (h.slotAddr h.head)) 0 h.asked
        match r.1 with
        | .leaf pa bits =>
          let bytes := r.2.readBytes 0 .steward (leafHost bits) pa 64
          if natOfBytes (bytes.take 2) = h.head.toNat % 65536 then r.2.acceptPacket q bytes
          else r.2.missHeader q { h with asked := none } n at_
        | .wait w => r.2.putQueue q { h with asked := w }
        | .gone => r.2.missHeader q { h with asked := none } n at_)

/-! Starting (R365). -/

/-- A packet has started: it is at work, or its effect is complete. -/
def Packet.begun (p : Packet) : Bool := p.phase == .started || p.result.isSome

/-- Earlier packets of the same queue that have not completed. -/
def State.earlierOf (s : State) (p : Packet) : List Packet := s.packets.filter fun x => x.queue == p.queue && decide (x.id < p.id)

/-- The packet may start (R365); later packets of a queue wait for its WAITVAL (R368). -/
def State.mayStart (s : State) (p : Packet) : Bool :=
  p.result.isNone && (s.earlierOf p).all fun x => (p.conc || x.begun) && (x.kind != 7 || x.result.isSome)

/-- The packet of a kind at count k of queue q, when its turn has come. -/
def State.turnOf (s : State) (kind q k : Nat) : Option Packet :=
  s.packetAt? q k fun p => p.kind == kind && p.phase == .accepted && s.mayStart p && decide (p.ready ≤ s.gcyc)

/-- LOAD_PACKET (R333, R368). -/
def execLoadPacket (q k : Nat) (s : State) : Host.Outcome State Fault Refusal :=
  .next (match s.turnOf 2 q k with
    | none => s
    | some p =>
      let handle := p.num 40 4
      let live := s.image? handle
      if p.num 44 1 = 1 then
        match live with
        | some i =>
          (s.countImage i (i.refs + 1)).finishPacket p.id 0 0 0 0
        | none => s.finishPacket p.id 6 0 handle 0
      else if live.isSome then s.finishPacket p.id 6 0 handle 0
      else
        let r := s.fetchBytes p.asked (u64 (p.num 16 8)) (p.num 24 8)
        match r.1 with
        | .wait w => r.2.putPacket { p with asked := w }
        | .gone => r.2.finishPacket p.id 8 causeTranslation.toNat 0 0
        | .bytes file =>
          let base := p.num 32 8
          match loadObject file base with
          | .error e => r.2.finishPacket p.id 3 e.1 e.2 0
          | .ok l =>
            let m := r.2.rangeMapped base (l.size / 65536)
            if m.1 then m.2.finishPacket p.id 4 0 0 0
            else
              match m.2.placeImage l base (l.size / 65536) 0 with
              | none => m.2.finishPacket p.id 5 0 0 0
              | some (s, pages) =>
                let part (kind : Nat) : List Byte := ((l.parts.find? fun x => x.1 == kind).map (·.2.2)).getD []
                let i : Image := { handle := BitVec.ofNat 32 handle, base := u64 base, size := l.size, refs := 1,
                                   textSize := (part 1).length, trapBytes := part 5, kernels := l.kernels, pages := pages }
                ({ s with images := s.images ++ [i] }).finishPacket p.id 0 0 0 0)

/-- UNLOAD_PACKET (R368). -/
def execUnloadPacket (q k : Nat) (s : State) : Host.Outcome State Fault Refusal :=
  .next (match s.turnOf 3 q k with
    | none => s
    | some p =>
      if (s.earlierOf p).any fun x => x.kind == 1 then s
      else
        match s.image? (p.num 16 4) with
        | some i =>
          ((s.countImage i (i.refs - 1)).finishPacket p.id 0 0 0 0).sweepImages
        | none => s.finishPacket p.id 6 0 (p.num 16 4) 0)

/-- BARRIER_PACKET (R368). -/
def execBarrierPacket (q k : Nat) (s : State) : Host.Outcome State Fault Refusal :=
  .next (match s.turnOf 4 q k with
    | none => s
    | some p =>
      let mask := u64 (p.num 16 8)
      if s.packets.any fun x => decide (x.id < p.id) && (x.queue == q || bit mask x.queue) then s
      else s.finishPacket p.id 0 0 0 0)

/-- The value of a SIGNAL written as a release at system scope (R368). (Log entry 32: DEDUCED.) -/
def State.signal (s : State) (host : Bool) (pa : Nat) (x : Nat) : State :=
  let mine (a : Agent) : Bool := match a with | .host | .span => false | _ => true
  s.perform { agent := .steward, view := 0, onHost := host, addr := pa, data := bytesOfNat 8 x, together := allViews,
              needs := (s.writes.filter fun w => mine w.agent).map fun w => (w.id, allViews) }

/-- SIGNAL_PACKET (R368): an add is placed as R92 gives. -/
def execSignalPacket (q k : Nat) (s : State) : Host.Outcome State Fault Refusal :=
  .next (match s.turnOf 6 q k with
    | none => s
    | some p =>
      if !(s.earlierOf p).isEmpty then s
      else
        let add := p.num 32 1 == 1
        let r := s.page (u64 (p.num 16 8)) (if add then 2 else 1) p.asked
        match r.1 with
        | .wait w => r.2.putPacket { p with asked := w }
        | .gone => r.2.finishPacket p.id 8 causeTranslation.toNat 0 0
        | .leaf pa bits =>
          if !leafWritable bits || (add && leafHost bits && !leafSysat bits) then r.2.finishPacket p.id 8 causeProtection.toNat 0 0
          else
            let old := r.2.homeNum (leafHost bits) pa 8
            let x := if add then (old + p.num 24 8) % 2 ^ 64 else p.num 24 8
            (r.2.signal (leafHost bits) pa x).finishPacket p.id 0 0 0 0)

/-- One microsecond in wall cycles (R5, R14). -/
def microsecond : Nat := 1050

/-- WAITVAL_PACKET (R368): its polls begin. -/
def execWaitvalPacket (q k : Nat) (s : State) : Host.Outcome State Fault Refusal :=
  .next (match s.turnOf 7 q k with
    | none => s
    | some p =>
      let n := p.num 36 4
      s.putPacket { p with phase := .started, poll := s.gcyc, limit := if n = 0 then none else some (s.gcyc + n * microsecond) })

/-- The condition of a WAITVAL holds of a word. -/
def Packet.met (p : Packet) (x : Nat) : Bool :=
  match p.num 32 1 with
  | 0 => x == p.num 24 8
  | 1 => decide (p.num 24 8 ≤ x)
  | _ => x != p.num 24 8

/-- A WAITVAL that polls. -/
def Packet.polls (p : Packet) : Bool := p.kind == 7 && p.phase == .started && p.result.isNone

/-- WAITVAL_POLL (R368): an acquire at system scope; what the read that ends it has returned, and what precedes that, is in every view
before anything that the steward does later. (Log entry 103: DEDUCED.) -/
def execWaitvalPoll (q k : Nat) (s : State) : Host.Outcome State Fault Refusal :=
  .next (match s.packetAt? q k fun p => p.polls && decide (p.poll ≤ s.gcyc) with
    | none => s
    | some p =>
      let r := s.page (u64 (p.num 16 8)) 0 p.asked
      match r.1 with
      | .wait w => r.2.putPacket { p with asked := w }
      | .gone => r.2.finishPacket p.id 8 causeTranslation.toNat 0 0
      | .leaf pa bits =>
        let x := r.2.readNum 0 .steward (leafHost bits) pa 8
        if p.met x then (r.2.settle allViews (r.2.returnedIds 0 .steward (leafHost bits) pa 8)).finishPacket p.id 0 0 0 0
        else r.2.putPacket { p with asked := none, poll := p.poll + microsecond })

/-- WAITVAL_TIMEOUT (R368). -/
def execWaitvalTimeout (q k : Nat) (s : State) : Host.Outcome State Fault Refusal :=
  .next (match s.packetAt? q k fun p => p.polls && p.limit.any fun l => decide (l ≤ s.gcyc) with
    | none => s
    | some p => s.finishPacket p.id 9 0 0 0)

end Sys2Proof.Machine
end

