-- ==== Sys2Proof/Machine/Span.lean ====
section
/-!
DEFINITION. Span links (R371 to R375, R399): the span table, flits, what arrives from other packages, and links that go down
and come back.
-/

namespace Sys2Proof.Machine

/-! The span table (R372). -/

/-- A remote copy or a remote FINC of the package is in flight. -/
def State.remoteBusy (s : State) : Bool :=
  !s.remote.isEmpty || s.sheets.toList.any (fun x => x.jobs.any fun j => j.remote && j.phase != .action) ||
    s.ctxs.any fun c => c.glob.queue.any fun a => !a.performed && (match a.kind with | .remoteFinc _ _ => true | _ => false)

/-- The table in its bytes, when it is valid. -/
def parseSpanTable (bs : List Byte) : Option SpanTable :=
  let b (k : Nat) : Nat := (bs.getD k 0#8).toNat
  let self := natOfBytes (bs.take 8)
  let route := (List.range 4096).map fun p => b (64 + p)
  let member := (List.range 32768).map fun k => b (4160 + k)
  if decide (4096 ≤ self) || ((List.range' 8 56).any fun k => b k != 0) || (route.any fun r => decide (18 ≤ r) && r != 255) ||
      route.getD self 0 != 255 || (List.range 64).any fun g => member.getD (512 * g + self / 8) 0 / 2 ^ (self % 8) % 2 == 1 then none
  else some { self := self, route := route, member := member }

/-- A table that is not applied is recorded (R372); R411 gives no class for it, so the class is a free value.
(Log entry 67: DESIGN CHOICE.) -/
def State.refuseSpanTable (s : State) : State :=
  { (s.noteError { cls := Config.freeBits s.fresh % 11, scope := 0, detail := s.bar0.spanTable }) with fresh := s.fresh + 1 }

/-- SPAN_TABLE_APPLIED (R372): once nothing remote is in flight the table is read and, when it is valid, applied; else the steward
records the error. -/
def execSpanTableApplied (s : State) : Host.Outcome State Fault Refusal :=
  .next (
    if !s.bar0.applying || s.remoteBusy then s
    else
      let va := s.bar0.spanTable.toNat
      let r := s.bar2Pages false (pagesOf 3 va 36928)
      let t : Option SpanTable := match r.1 with
        | some ps =>
          if ps.any fun p => leafHost p.2.1 then none
          else parseSpanTable (ps.flatMap fun p => r.2.stewardBytes p.1 p.2.2)
        | none => none
      let u : State := { r.2 with bar0 := { r.2.bar0 with applying := false } }
      match t with
      | some x => { u with spanTable := some x }
      | none => u.refuseSpanTable)

/-! Flits and acknowledgements (R371, R374). -/

/-- The target of a message in flight. -/
def SpanMsg.target : SpanMsg → Nat
  | .finc p _ _ _ => p
  | .write p _ _ _ _ => p

/-- The one package that a message is for, when it is for one. -/
def SpanMsg.single : SpanMsg → Option Nat
  | .finc p _ _ _ => some p
  | .write p group _ _ _ => if group then none else some p

/-- The event with which a message arrives. -/
def SpanMsg.arrival : SpanMsg → Ev
  | .finc _ grant f inc => .remoteFincArrival grant f inc
  | .write _ _ _ addr data => .spanWriteArrival addr data

/-- The oldest message in flight that left on a link, and the rest. -/
def State.oldestOn (s : State) (link : Nat) : Option SpanMsg := s.remote.find? fun m => s.linkTo m.target == some link

/-- A list without the first occurrence of an element. -/
def dropMsg (m : SpanMsg) : List SpanMsg → List SpanMsg
  | [] => []
  | x :: xs => if x = m then xs else x :: dropMsg m xs

/-- A job of the package, with its sheet. -/
def State.findJob (s : State) (id : Nat) : Option (Nat × Job) :=
  (List.range 8).findSome? fun sh => (s.job? sh id).map fun j => (sh, j)

/-- A panel on whose sheet a job runs, as the events of the table name it. -/
def Job.home (j : Job) (sh : Nat) : Nat := j.panel.getD (32 * sh)

/-- One target's acknowledgement of a remote write. -/
def State.acknowledge (s : State) (m : SpanMsg) : State :=
  let s := { s with remote := dropMsg m s.remote }
  match m with
  | .write _ _ job _ _ => match s.findJob job with | some (sh, j) => s.putJob sh { j with acks := j.acks - 1 } | none => s
  | .finc _ _ _ _ => s

/-- SPAN_FLIT_RECEIVE (R371): a flit that fails its CRC is sent again; a good one acknowledges the oldest message that left on
its link. (Log entry 34: DESIGN CHOICE.) -/
def execSpanFlitReceive (link : Nat) (crcOk : Bool) (s : State) : Host.Outcome State Fault Refusal :=
  .next (
    if !(vget {} s.links link).up then s
    else if !crcOk then s.noteError { cls := 5, scope := 4, cell := link }
    else
      match s.oldestOn link with
      | some m => s.acknowledge m
      | none => s)

/-- The job of a remote write that cannot be done faults with PROTECTION and the remote address (R374). -/
def State.remoteFault (s : State) (m : SpanMsg) : State :=
  match m with
  | .write _ _ job addr _ =>
    match s.findJob job with
    | some (sh, j) =>
      let s := s.putJob sh { j with fault := some (causeProtection, 0#8, addr) }
      { s with agenda := .ev (.columnJobFault (j.home sh) job) :: s.agenda }
    | none => s
  | .finc _ _ _ _ => s

/-- A target's refusal of the oldest remote write that left on a link (R374). -/
def State.refusal (s : State) (link : Nat) : State :=
  match s.remote.find? (fun m => s.linkTo m.target == some link && match m with | .write _ _ _ _ _ => true | _ => false) with
  | some m => (s.acknowledge m).remoteFault m
  | none => s

/-! Arrivals (R374, R375, R399). -/

/-- The slot of the task that holds a grant, with the task: from the START that first binds it on (R375, R379). -/
def State.granted (s : State) (grant : Nat) : Option (Nat × Task) :=
  (List.range 64).findSome? fun k =>
    match (vget {} s.slots k).task with
    | some t => if t.grant = grant ∧ grant ≠ 0 then some (k, t) else none
    | none => none

/-- An increment that is dropped is counted (R375). -/
def State.dropFinc (s : State) : State := { s with bar0 := { s.bar0 with dropfinc := s.bar0.dropfinc + 1#32 } }

/-- The fields of a bind record's fifth word (R378): home sheet, first flag, partition size. -/
def BindSlot.partition (b : List U64) : Nat × Nat × Nat :=
  let x := b.getD 4 0#64
  (fieldOf x 16 3, fieldOf x 24 8, fieldOf x 32 8 + 1)

/-- SPAN_WRITE_ARRIVAL (R374, R399): a remote write is translated through the span page table and applied in the view of the die
that holds it, after the sender's earlier ones; or it is refused. -/
def execSpanWriteArrival (addr : BitVec 64) (data : List (BitVec 8)) (s : State) : Host.Outcome State Fault Refusal :=
  .next (
    let refuse (s : State) : State := s.emit (.spanReply false addr)
    if addr.extractLsb' 56 8 ≠ 0#8 ∨ isLocal addr = true ∨ 65536 < addr.toNat % 65536 + data.length then refuse s
    else
      let r := s.translate 0 true addr.toNat
      match r.1 with
      | .leaf pa bits =>
        if !leafWritable bits || leafHost bits then refuse r.2
        else
          let put (s : State) (x : Nat × List Byte) : State :=
            s.perform { agent := .span, view := x.1 / 2 ^ 37 % 4, addr := x.1, data := x.2,
                        needs := (s.writes.filter fun w => w.agent == .span).map fun w => (w.id, allViews) }
          ((piecesOf 16 (data.length / 16 + 2) pa data).foldl put r.2).emit (.spanReply true addr)
      | _ => refuse r.2)

/-- Traffic of other packages that comes on a link: it goes on, once on each link that the package's own ROUTE gives for its target, or for
some member of its group beyond this package; what is for this package arrives (R372, R373). (Log entry 92: DESIGN CHOICE.) -/
def State.transit (s : State) (link : Nat) (m : SpanMsg) (here : Bool) : State :=
  match s.spanTable with
  | none => s
  | some t =>
    let outs : List Nat :=
      match m with
      | .write g true _ _ _ => ((t.members g).filterMap s.linkTo).eraseDups.filter fun l => l != link
      | m => (s.linkTo m.target).toList
    let s := outs.foldl (fun s l => s.emit (.forward l m)) s
    if here || m.single == some t.self then { s with agenda := .ev m.arrival :: s.agenda } else s

/-! Links (R363, R374). -/

/-- SPAN_LINK_TRAINED (R363): a link comes up while feature 4 is in force and boot has not left the links down (R423). -/
def execSpanLinkTrained (link : Nat) (s : State) : Host.Outcome State Fault Refusal :=
  .next (if s.bar0.en && bit s.bar0.feats 4 && !s.boot.noSpan then { s with links := vset s.links link { up := true } } else s)

/-- SPAN_LINK_LOST (R374): a link that was up goes down, and the count of 100 ms begins. -/
def execSpanLinkLost (link : Nat) (s : State) : Host.Outcome State Fault Refusal :=
  .next (
    if (vget {} s.links link).up then { s with links := vset s.links link { up := false, downSince := some s.gcyc, since := s.gcyc } } else s)

/-- A job of the package has traffic that can leave only on a link. -/
def State.jobsOver (s : State) (link : Nat) : List (Nat × Job) :=
  (List.range 8).flatMap fun sh =>
    ((s.sheet sh).jobs.filter fun j =>
      j.remote && j.phase == .running && (Work.targets ⟨s, sh, j⟩).any fun t => s.linkTo t == some link).map fun j => (sh, j)

/-- SPAN_LINK_DOWN (R374): a route has stayed down for 100 ms; the jobs whose traffic it carries fault with the address of their
next remote write, and increments in flight on it are lost. -/
def execSpanLinkDown (link : Nat) (s : State) : Host.Outcome State Fault Refusal :=
  .next (match (vget {} s.links link).downSince with
    | none => s
    | some g =>
      if s.gcyc < g + tenthSecond then s
      else
        let s := { s with links := vset s.links link { (vget ({} : Link) s.links link) with up := false, downSince := none } }
        let s := s.noteError { cls := 6, scope := 4, cell := link }
        let lost := s.remote.filter fun m => s.linkTo m.target == some link
        let s := lost.foldl (fun s m => (s.acknowledge m).remoteFault m) s
        (s.jobsOver link).foldl (fun s x =>
          let n := x.2.pos + x.2.sub
          let p := x.2.spot2 n x.2.tty.width
          if x.2.fault.isSome then s
          else s.remoteFault (.write 0 false x.2.id p.va [])) s)

end Sys2Proof.Machine
end

