-- ==== Sys2Proof/Machine/Tasks.lean ====
section
/-!
DEFINITION. The footprint matcher (R376, R377), the slot table and dispatch (R378 to R380, R383): binding, the end of a task,
saving and restoring a gang (R287 to R289, R400, R409).
-/

namespace Sys2Proof.Machine

/-! The matcher. -/

/-- The footprint with which a packet enters the matcher (R368, R376). -/
def Packet.footprint (p : Packet) : List Region :=
  if p.kind = 5 then [⟨1, p.num 16 8, p.num 32 8⟩, ⟨2, p.num 24 8, p.num 32 8⟩] else p.foot

/-- The package with a packet in the matcher, in the order of entry (R376). -/
def State.enterMatcher (s : State) (p : Packet) : State :=
  let captured := decide (s.fleet.captureState = 1) && bit s.fleet.captureMask p.queue && p.kind == 1
  { (s.putPacket { p with phase := .started, arrival := some s.arrivals, foot := p.footprint, captured := captured })
    with arrivals := s.arrivals + 1 }

/-- A launch that waited for its object's LOAD, which has completed (R366). -/
def State.objectReady (s : State) (p : Packet) : Bool :=
  p.kind == 1 && p.result.isNone && p.phase == .object && !s.loading p.id (p.num 16 4)

/-- LAUNCH_PACKET (R365, R366): a launch whose object's LOAD was still under way is checked once that has completed; one whose turn
has come enters the matcher, while that has room (R376). -/
def execLaunchPacket (q k : Nat) (s : State) : Host.Outcome State Fault Refusal :=
  .next (match s.packetAt? q k s.objectReady with
    | some p =>
      match s.launchBad p false false with
      | some r => s.finishPacket p.id r.1 0 r.2 0
      | none => s.putPacket { p with phase := .accepted, image := (s.image? (p.num 16 4)).map (·.base) }
    | none =>
      match s.turnOf 1 q k with
      | some p => if 1024 ≤ s.matcherCount then s else s.enterMatcher p
      | none => s)

/-- COPY_PACKET (R365, R368): a copy whose turn has come enters the matcher, while that has room. -/
def execCopyPacket (q k : Nat) (s : State) : Host.Outcome State Fault Refusal :=
  .next (match s.turnOf 5 q k with
    | some p => if 1024 ≤ s.matcherCount then s else s.enterMatcher p
    | none => s)

/-- Earlier entries in arrival order that conflict with a packet and have not retired (R377). -/
def State.blockers (s : State) (p : Packet) : List Packet :=
  s.packets.filter fun x =>
    match x.arrival, p.arrival with
    | some a, some b => decide (a < b) && !x.retired && footsMeet x.foot p.foot
    | _, _ => false

/-- The notice of a packet (R377). -/
def Packet.ringNotice (p : Packet) : RingNotice :=
  { packet := p.id, queue := p.queue, count := p.count, prio := if p.kind = 1 then p.num 43 1 % 4 else 0,
    shape := if p.kind = 1 then p.num 40 1 else 0, budget := if p.kind = 1 then p.num 44 4 else 0 }

/-- MATCHER_ELIGIBLE (R377): packet k has become eligible, and its notice is posted when the ring has room. -/
def execMatcherEligible (k : Nat) (s : State) : Host.Outcome State Fault Refusal :=
  .next (match s.packet? k with
    | none => s
    | some p =>
      if p.arrival.isNone ∨ p.posted = true ∨ p.result.isSome = true ∨ s.blockers p ≠ [] ∨
          256 ≤ s.ring.length then s
      else { (s.putPacket { p with posted := true }) with ring := s.ring ++ [p.ringNotice] })

/-! Bind records (R378). -/

/-- A slot of the table. -/
def State.slot (s : State) (k : Nat) : BindSlot := vget {} s.slots k
/-- The package with a slot replaced. -/
def State.putSlot (s : State) (k : Nat) (b : BindSlot) : State := { s with slots := vset s.slots k b }

/-- Word n of a bind record. -/
def BindSlot.word (b : BindSlot) (n : Nat) : U64 := vget 0#64 b.words n
/-- Its fields. -/
def BindSlot.op (b : BindSlot) : Nat := fieldOf (b.word 0) 0 3
def BindSlot.state (b : BindSlot) : Nat := fieldOf (b.word 0) 4 3
def BindSlot.prio (b : BindSlot) : Nat := fieldOf (b.word 0) 16 2
def BindSlot.grace (b : BindSlot) : Nat := let n := fieldOf (b.word 0) 32 16; if n = 0 then 20 else n
def BindSlot.reexecs (b : BindSlot) : Nat := fieldOf (b.word 0) 48 16
def BindSlot.x0 (b : BindSlot) : Nat := fieldOf (b.word 4) 0 4
def BindSlot.y0 (b : BindSlot) : Nat := fieldOf (b.word 4) 4 4
def BindSlot.w (b : BindSlot) : Nat := fieldOf (b.word 4) 8 4 + 1
def BindSlot.h (b : BindSlot) : Nat := fieldOf (b.word 4) 12 4 + 1
def BindSlot.home (b : BindSlot) : Nat := fieldOf (b.word 4) 16 3
def BindSlot.fbase (b : BindSlot) : Nat := fieldOf (b.word 4) 24 8
def BindSlot.fsize (b : BindSlot) : Nat := fieldOf (b.word 4) 32 8 + 1
def BindSlot.start (b : BindSlot) : Nat := (b.word 5).toNat
def BindSlot.save (b : BindSlot) : Nat := fieldOf (b.word 6) 16 40 * 65536

/-- The states of a slot. -/
def slotFree : Nat := 0
def slotLoading : Nat := 1
def slotRunning : Nat := 2
def slotSaving : Nat := 3
def slotSaved : Nat := 4
def slotDone : Nat := 5
def slotAborted : Nat := 6
def slotReexec : Nat := 7

/-- A word with n bits from lo on replaced. -/
def setField (x : U64) (lo n v : Nat) : U64 := u64 (x.toNat - fieldOf x lo n * 2 ^ lo + v % 2 ^ n * 2 ^ lo)

/-- The record with STATE written by dispatch. -/
def BindSlot.withState (b : BindSlot) (n : Nat) : BindSlot := { b with words := vset b.words 0 (setField (b.word 0) 4 3 n) }
/-- The record with REASON written by dispatch. -/
def BindSlot.withReason (b : BindSlot) (n : Nat) : BindSlot := { b with words := vset b.words 0 (setField (b.word 0) 8 8 n) }

/-- A reserved field of the record is not zero: REASON 7 (R378). -/
def BindSlot.reservedBad (b : BindSlot) : Bool :=
  fieldOf (b.word 0) 18 14 != 0 || fieldOf (b.word 0) 7 1 != 0 || fieldOf (b.word 0) 3 1 != 0 || fieldOf (b.word 1) 38 26 != 0 ||
    fieldOf (b.word 2) 56 8 != 0 || fieldOf (b.word 2) 0 2 != 0 || fieldOf (b.word 3) 0 6 != 0 || fieldOf (b.word 4) 19 5 != 0 ||
    fieldOf (b.word 4) 40 24 != 0 || fieldOf (b.word 7) 32 32 != 0

/-- The panels of the record's rectangle, in the order of TASKPANEL.INDEX. -/
def BindSlot.rect (b : BindSlot) : List Nat := rectPanels b.x0 b.y0 b.w b.h

/-- The record as dispatch read it at a doorbell (R378). -/
def Task.record (t : Task) : BindSlot := { words := vmap (fun k _ => t.bind.getD k 0#64) (Vector.replicate 8 0#64) }

/-- A slot whose task has ended, and whose completion record is still to be written. -/
def BindSlot.ends (b : BindSlot) : Bool := b.task.any fun t => t.ending.isSome

/-- A slot whose task has panels: it is loading, running, or being saved. -/
def BindSlot.holdsPanels (b : BindSlot) : Bool := b.state == slotLoading || b.state == slotRunning || b.state == slotSaving

/-- The slots other than k whose tasks have panels, with those tasks. -/
def State.others (s : State) (k : Nat) : List Task :=
  (List.range 64).filterMap fun j => let b := s.slot j; if j ≠ k ∧ b.holdsPanels = true then b.task else none

/-- A panel is bound to a slot other than k. -/
def State.boundElsewhere (s : State) (k p : Nat) : Bool := (s.others k).any fun t => t.panels.contains p

/-- A slot whose task's partition is live: its panels are bound, or its grant still reaches the partition while it waits to be executed
again (R375, R383). The flags of a saved task are in its save area. (Log entry 102: DEDUCED.) -/
def BindSlot.holdsFlags (b : BindSlot) : Bool := b.holdsPanels || b.task.any fun t => t.saved.isNone

/-- A flag range of a sheet overlaps a live partition of a slot other than k. -/
def State.flagsTaken (s : State) (k home base size : Nat) : Bool :=
  (List.range 64).any fun j =>
    let b := s.slot j
    decide (j ≠ k) && b.holdsFlags && b.task.any fun t =>
      let q := BindSlot.partition t.bind
      q.1 == home && decide (base < q.2.1 + q.2.2) && decide (q.2.1 < base + size)

/-! Save areas in memory (R400, R409). -/

/-- The HBM pages of an area for n panels; none when one is not present, not writable, or not HBM. -/
def State.areaPages (s : State) (save : Nat) : Nat → Option (List Nat) × State
  | 0 => (some [], s)
  | k + 1 =>
    match s.areaPages save k with
    | (none, s) => (none, s)
    | (some ps, s) =>
      let r := s.translate 0 false (save + 65536 * k)
      match r.1 with
      | .leaf pa bits => (if leafWritable bits && !leafHost bits then some (ps ++ [pa]) else none, r.2)
      | _ => (none, r.2)

/-- The number of pages of an area. -/
def areaPageCount (panels : Nat) : Nat := areaSize panels / 65536

/-- The pages of the save area that a record names. -/
def State.savePages (s : State) (b : BindSlot) : Option (List Nat) × State := s.areaPages b.save (areaPageCount (b.w * b.h))

/-- The bytes of an area as they stand in memory. -/
def State.areaIn (s : State) (pages : List Nat) : Bytes :=
  let m := s.flush.hbm
  blocks 65536 (pages.map fun pa => (m.filter fun x => decide (pa ≤ x.1) && decide (x.1 < pa + 65536)).map fun x => (x.1 - pa, x.2))

/-- The package with an area written, whole, to its pages: page k is at the head of the list. -/
def State.putArea (s : State) (area : Bytes) : Nat → List Nat → State
  | _, [] => s
  | k, pa :: ps =>
    let mine := area.filter fun x => decide (65536 * k ≤ x.1) && decide (x.1 < 65536 * (k + 1))
    let hbm := mine.foldl (fun m x => Store.set m (pa + (x.1 - 65536 * k)) x.2) (Store.clear s.hbm pa 65536)
    State.putArea { s with hbm := hbm, badHbm := s.badHbm.filter fun l => !(decide (pa ≤ l * 64) && decide (l * 64 < pa + 65536)) }
      area (k + 1) ps

/-- A saved area passes the checks of RESTORE (R409). (Log entry 36: DESIGN CHOICE.) -/
def State.areaPasses (s : State) (b : BindSlot) (pages : List Nat) : Bool :=
  let a := s.areaIn pages
  let panels := b.w * b.h
  Store.num a 0 4 == 1 && Store.num a 4 2 == panels && Store.num a 8 8 == (b.word 1).toNat &&
    BitVec.ofNat 512 (Store.num a 0x40 64) == areaDigest a panels

/-! Doorbells (R378, R380). -/

/-- The checks of a record's placement in this order: reserved field, grid, service, another slot, flags. (Log entry 100: DESIGN CHOICE.) -/
def State.placementReason (s : State) (k : Nat) (b : BindSlot) : Nat :=
  if b.reservedBad then 7
  else if 16 < b.x0 + b.w ∨ 16 < b.y0 + b.h then 3
  else if b.rect.any fun p => !s.inService p then 1
  else if b.rect.any fun p => s.boundElsewhere k p then 2
  else if 256 < b.fbase + b.fsize ∨ s.flagsTaken k b.home b.fbase b.fsize = true then 4
  else 0

/-- A doorbell refused: nothing changes but REASON. -/
def State.refuse (s : State) (k n : Nat) : State := s.putSlot k ((s.slot k).withReason n)

/-- What dispatch makes of the reduce regions of a footprint (R383). -/
inductive Reserve where
  /-- their contents, by address; none when they cannot be kept -/
  | kept (xs : Option (List (Nat × List Byte)))
  /-- a page is not present, and the steward has been asked for it -/
  | wait (k : Option (Nat × Nat))
  deriving DecidableEq, Repr

/-- The contents of some pages. Host memory stands 2^56 above. A page that cannot be served leaves the node not re-executable.
(Log entry 98: DESIGN CHOICE.) -/
def State.keepPages (s : State) (asked : Option (Nat × Nat)) : List (Nat × Nat) → Reserve × State
  | [] => (.kept (some []), s)
  | q :: qs =>
    let r := s.page (u64 q.1) 0 asked
    match r.1 with
    | .wait k => (.wait k, r.2)
    | .gone => (.kept none, r.2)
    | .leaf pa bits =>
      let x := (if leafHost bits then 2 ^ 56 + pa else pa, bytesOfNat q.2 (r.2.homeNum (leafHost bits) pa q.2))
      match r.2.keepPages asked qs with
      | (.kept (some xs), s) => (.kept (some (x :: xs)), s)
      | y => y

/-- The bytes of the reserve that other tasks use. -/
def State.reserveUsed (s : State) : Nat :=
  ((List.range 64).map fun k => match (s.slot k).task.bind (·.reserve) with
    | some xs => (xs.map fun x => x.2.length).sum
    | none => 0).sum

/-- The reduce regions of a task about to start for the first time go into the reserve, unless they exceed it (R383). -/
def State.keepReduce (s : State) (k : Nat) (t : Task) : State :=
  let put (s : State) (t : Task) : State := s.putSlot k { (s.slot k) with task := some t }
  let none_ (s : State) : State := put s { t with kept := true, reserve := none, asked := none }
  match t.packet.bind s.packet? with
  | none => none_ s
  | some p =>
    let rs := p.foot.filter fun r => r.rights == 3
    if s.settings.reserve < s.reserveUsed + (rs.map (·.len)).sum then none_ s
    else
      match s.keepPages t.asked (rs.flatMap fun r => pagesOf (r.len / 65536 + 2) r.start r.len) with
      | (.kept xs, s) => put s { t with kept := true, reserve := xs, asked := none }
      | (.wait q, s) => put s { t with asked := q }

/-- The reserve written back before a re-execution (R383). -/
def State.writeBack (s : State) : List (Nat × List Byte) → State
  | [] => s
  | x :: xs =>
    (s.perform { agent := .steward, view := 0, onHost := decide (2 ^ 56 ≤ x.1), addr := x.1 % 2 ^ 56, data := x.2, together := allViews,
                 needs := s.writes.map fun w => (w.id, allViews) }).writeBack xs

/-- A launch is re-executable (R367). -/
def reexecutable (foot : List Region) : Bool :=
  !foot.any fun x => x.rights == 1 && foot.any fun y => y.rights != 1 && spansMeet x.start x.len y.start y.len

/-- The bytes of a region as it stands (R417), of its pages that are present. -/
def State.regionBytes (s : State) : List (Nat × Nat) → List Byte × State
  | [] => ([], s)
  | q :: qs =>
    let r := s.translate 0 false q.1
    let xs := match r.1 with | .leaf pa bits => r.2.readBytes 0 .steward (leafHost bits) pa q.2 | _ => []
    let y := r.2.regionBytes qs
    (xs ++ y.1, y.2)

/-- The digests of some regions as they stand. -/
def State.regionDigests (s : State) : List Region → List Line × State
  | [] => ([], s)
  | r :: rs =>
    let x := s.regionBytes (pagesOf (r.len / 65536 + 2) r.start r.len)
    let y := x.2.regionDigests rs
    (Config.sha3 x.1 :: y.1, y.2)

/-- The flags of a partition set to some values, from its first on. -/
def State.setFlags (s : State) (home base : Nat) (xs : List U32) : State :=
  let h := s.sheet home
  s.putSheet home { h with flags := Store.setList h.flags base xs }

/-- The wall cycle in which a load that begins now ends. -/
def State.loadEnd (s : State) : Nat := s.gcyc + 1 + Config.bindDelay s.fresh

/-- A START that is accepted (R379, R383): the load begins. A node that is to be executed again has its reduce regions written back. -/
def State.beginTask (s : State) (k : Nat) : State :=
  let b := ((s.slot k).withState slotLoading).withReason 0
  let p := b.packet.bind s.packet?
  let s := match b.task.bind (·.reserve) with | some xs => s.writeBack xs | none => s
  let s := match p with
    | some x =>
      if x.captured && x.digests.isNone then
        let d := s.regionDigests x.foot
        d.2.putPacket { x with digests := some d.1 }
      else s
    | none => s
  let t : Task := match b.task with
    | some t => { t with bind := b.words.toList, panels := b.rect, loaded := some s.loadEnd, restoring := false }
    | none =>
      { bind := b.words.toList, packet := b.packet, panels := b.rect, loaded := some s.loadEnd, firstBind := b.words.toList
        grant := match p with | some x => x.num 48 2 | none => 0 }
  let s := s.setFlags b.home b.fbase (List.replicate b.fsize 0#32)
  { (s.putSlot k { b with task := some t }) with fresh := s.fresh + 1 }

/-- The record's OP names the doorbell. -/
def State.rings (s : State) (k op : Nat) : Bool := decide (k < 64) && (s.slot k).op == op

/-- DISPATCH_START (R379, R380). -/
def execDispatchStart (slot : Nat) (s : State) : Host.Outcome State Fault Refusal :=
  .next (
    let b := s.slot slot
    if !s.rings slot 1 then s
    else if b.state == slotLoading || b.state == slotRunning || b.state == slotSaving || b.state == slotSaved then s.refuse slot 5
    else
      let n := s.placementReason slot b
      if n ≠ 0 then s.refuse slot n
      else
        match s.savePages b with
        | (some _, s) => s.beginTask slot
        | (none, s) => s.refuse slot 6)

/-- DISPATCH_RESTORE (R379, R380, R409). -/
def execDispatchRestore (slot : Nat) (s : State) : Host.Outcome State Fault Refusal :=
  .next (
    let b := s.slot slot
    if !s.rings slot 2 then s
    else if b.state ≠ slotSaved ∨ b.ends = true then s.refuse slot 5
    else
      let n := s.placementReason slot b
      if n ≠ 0 then s.refuse slot n
      else
        match s.savePages b, b.task with
        | (some pages, s), some t =>
          if !s.areaPasses b pages then s.refuse slot 6
          else
            let b := (b.withState slotLoading).withReason 0
            let t := { t with bind := b.words.toList, panels := b.rect, loaded := some s.loadEnd, restoring := true, area := s.areaIn pages }
            { (s.putSlot slot { b with task := some t }) with fresh := s.fresh + 1 }
        | (_, s), _ => s.refuse slot 6)

/-! The end of a run. -/

/-- The contexts of a gang, by slot. -/
def State.gang (s : State) (k : Nat) : List Ctx := s.ctxs.filter fun c => c.id.slot == k

/-- The gang's panels are released (R289): its contexts are gone, and what they had handed over with them. -/
def State.unbind (s : State) (k : Nat) : State :=
  let gang := s.gang k
  let mine (p : Nat) : Bool := gang.any fun c => c.id.panel == p
  { s with
    ctxs := s.ctxs.filter fun c => c.id.slot != k
    fresh := (gang.map (·.fresh)).foldl Nat.max s.fresh
    sheets := vmap (fun _ (x : Sheet) => { x with jobs := x.jobs.filter fun j => !j.panel.any mine }) s.sheets
    borderFlight := s.borderFlight.filter fun x => !mine x.2.1 }

/-- The wall cycles that a task has run (R381). -/
def Task.runTime (t : Task) (running : Bool) (g : Nat) : Nat := t.ran + (if running then g - t.since else 0)

/-- The budget of a launch in µs (R366, R381). -/
def State.budget (s : State) (p : Packet) : Nat := let n := p.num 44 4; if n = 0 then vget 0 s.policy.quantum p.queue else n

/-- The class of a launch (R366). -/
def Packet.cls (p : Packet) : Nat := p.num 43 1 % 4

/-- A deficit changed. -/
def Policy.add (x : Policy) (cls queue : Nat) (n : Int) : Policy :=
  { x with deficit := vset x.deficit (64 * cls + queue) (vget 0 x.deficit (64 * cls + queue) + n) }

/-- The overrun of a task that ends is taken from its queue's deficit (R381). -/
def State.charge (s : State) (p : Packet) (cycles : Nat) : State :=
  { s with policy := s.policy.add p.cls p.queue (-((cycles / microsecond - s.budget p : Nat) : Int)) }

/-- A panel's generators at its finish (R418). -/
def Ctx.generators (c : Ctx) : List U64 :=
  [c.sys.rngkey, c.sys.rngstr.setWidth 64, c.sys.rngctr.setWidth 64, c.sys.srctr.setWidth 64]

/-- Contexts in the order of TASKPANEL.INDEX. -/
def byIndex (cs : List Ctx) : List Ctx := cs.mergeSort fun x y => decide (x.index ≤ y.index)

/-- A context of a gang that has ended: it does nothing more, and what it has not performed is dropped. -/
def Ctx.ended (c : Ctx) : Ctx := { c with finished := true, glob := { c.glob with queue := [] } }

/-- The gang of slot k does nothing more: its contexts stand still, and its jobs are gone. -/
def State.quell (s : State) (k : Nat) : State :=
  let mine (p : Nat) : Bool := (s.gang k).any fun c => c.id.panel == p
  { s with
    ctxs := s.ctxs.map fun c => if c.id.slot = k then c.ended else c
    sheets := vmap (fun _ (x : Sheet) => { x with jobs := x.jobs.filter fun j => !j.panel.any mine }) s.sheets }

/-- The task of slot k ends (R379, R380): it stands still, and its record is to be written; the slot keeps its STATE until then. -/
def State.endTask (s : State) (k status code detail state : Nat) : State :=
  let b := s.slot k
  match b.task with
  | none => s
  | some t =>
    if t.ending.isSome then s
    else
      let ctxs := byIndex (match t.saved with | some v => v.ctxs | none => s.gang k)
      let ran := t.runTime (b.state == slotRunning || b.state == slotSaving) s.gcyc
      let s := match t.packet.bind s.packet? with
        | some p =>
          let p := { p with firstBind := t.firstBind, reexecs := b.reexecs, finals := ctxs.map Ctx.generators }
          ((s.putPacket p).charge p ran).finishPacket p.id status code detail (t.record.word 1).toNat
        | none => s
      (s.quell k).putSlot k { b with task := some { t with ending := some state, loaded := none, asked := none } }

/-- Once the completion record of a task that has ended is written, its panels are released, and STATE follows (R379). -/
def State.closeTask (s : State) (k : Nat) : State :=
  let b := s.slot k
  match b.task with
  | none => s
  | some t =>
    match t.ending with
    | none => s
    | some state =>
      if (t.packet.bind s.packet?).isSome then s
      else
        let s := s.unbind k
        let pool := match b.hold with | some r => s.pool ++ [r] | none => s.pool
        { (s.putSlot k { (b.withState state) with task := none, packet := none, hold := none }) with pool := pool }

/-- Every access of the context has been performed, so that none can trap any more, and what its task's completion releases is done (R91,
R152); a wait, or a motif load, has no effect outside. (Log entry 101: DEDUCED.) -/
def Ctx.allPerformed (c : Ctx) : Bool := c.glob.queue.all fun a => a.isWait || a.kind == .image

/-- CONTEXT_FINISH (R51, R52): after an EXIT, once queues, results, jobs and accesses are done; with the last context of a task, the
task is complete (R379). -/
def execContextFinish (p : Nat) (s : State) : Host.Outcome State Fault Refusal :=
  .next (match s.ctx? p with
    | none => s
    | some c =>
      if c.issue.exited && !c.trap.tctx && c.drained && c.allPerformed then
        let s := s.putCtx { c with finished := true }
        if (s.gang c.id.slot).all fun d => d.finished then s.endTask c.id.slot 0 0 0 slotDone else s
      else s)

/-! Requests (R285 to R287, R380). -/

/-- A graceful request reaches a context. -/
def Ctx.request (c : Ctx) (grace g : Nat) : Ctx :=
  if c.finished then c
  else { c with preempt := { c.preempt with req := true, grace := BitVec.ofNat 16 grace, deadline := some (g + grace * microsecond) },
                latch := { c.latch with preempt := true } }

/-- The package with a function applied to the contexts of a gang. -/
def State.mapGang (s : State) (k : Nat) (f : Ctx → Ctx) : State :=
  { s with ctxs := s.ctxs.map fun c => if c.id.slot = k then f c else c }

/-- An abandoned load (R380): the panels are released; FREE after a START, and SAVED after a RESTORE. -/
def State.abandon (s : State) (k : Nat) : State :=
  let b := s.slot k
  match b.task with
  | some t =>
    let t := { t with panels := [], loaded := none, asked := none }
    let b := b.withReason 0
    if t.restoring then s.putSlot k { (b.withState slotSaved) with task := some { t with restoring := false } }
    else if b.reexecs = 0 then s.putSlot k { (b.withState slotFree) with task := none }
    else s.putSlot k { (b.withState slotFree) with task := some t }
  | none => s

/-- A slot in a state in which PREEMPT, FORCE and ABORT are allowed (R380). -/
def BindSlot.occupied (b : BindSlot) : Bool := b.holdsPanels || b.state == slotSaved

/-- The record is read at the doorbell that stops the task: the area that it is saved to is the one that SAVE names now (R378). -/
def BindSlot.takeSave (b : BindSlot) : BindSlot := { b with task := b.task.map fun t => { t with bind := t.bind.set 6 (b.word 6) } }

/-- The gang's stops at once (R287). -/
def State.forceGang (s : State) (k : Nat) : State := s.mapGang k fun c => if c.forcible then c.forceStop s.gcyc else c

/-- DISPATCH_PREEMPT (R380, R285). -/
def execDispatchPreempt (slot : Nat) (s : State) : Host.Outcome State Fault Refusal :=
  .next (
    let b := s.slot slot
    if !s.rings slot 3 then s
    else if !b.occupied then s.refuse slot 5
    else if b.reservedBad then s.refuse slot 7
    else if b.ends then s.refuse slot 0
    else if b.state = slotLoading then s.abandon slot
    else if b.state = slotRunning then
      (s.mapGang slot fun c => c.request b.grace s.gcyc).putSlot slot ((b.takeSave.withState slotSaving).withReason 0)
    else s.refuse slot 0)

/-- DISPATCH_FORCE (R380, R287). -/
def execDispatchForce (slot : Nat) (s : State) : Host.Outcome State Fault Refusal :=
  .next (
    let b := s.slot slot
    if !s.rings slot 4 then s
    else if !b.occupied then s.refuse slot 5
    else if b.reservedBad then s.refuse slot 7
    else if b.ends then s.refuse slot 0
    else if b.state = slotLoading then s.abandon slot
    else if b.state = slotRunning then (s.forceGang slot).putSlot slot ((b.takeSave.withState slotSaving).withReason 0)
    else if b.state = slotSaving then (s.forceGang slot).refuse slot 0
    else s.refuse slot 0)

/-- DISPATCH_ABORT (R380): nothing is saved; STATUS ABORTED and CODE 0. -/
def execDispatchAbort (slot : Nat) (s : State) : Host.Outcome State Fault Refusal :=
  .next (
    let b := s.slot slot
    if !s.rings slot 5 then s
    else if !b.occupied then s.refuse slot 5
    else if b.reservedBad then s.refuse slot 7
    else (s.refuse slot 0).endTask slot 7 0 0 slotAborted)

/-- DOORBELL_INVALID_OP (R378): OP 0, 6 or 7. -/
def execDoorbellInvalidOp (slot : Nat) (s : State) : Host.Outcome State Fault Refusal :=
  .next (if s.rings slot 0 || s.rings slot 6 || s.rings slot 7 then s.refuse slot 5 else s)

/-! The end of a load (R289, R379). -/

/-- Read n bytes of TEXT from a virtual address, page by page, for the instruction caches: the bytes, and whether every page is
executable (R146, R392). A page that is not present is asked for. (Log entry 39: DEDUCED.) -/
def State.fillText (s : State) (asked : Option (Nat × Nat)) : Nat → U64 → Nat → (Fetch × Bool) × State
  | 0, _, _ => ((.bytes [], true), s)
  | k + 1, va, n =>
    if n = 0 then ((.bytes [], true), s)
    else
      let r := s.page va 3 asked
      match r.1 with
      | .wait q => ((.wait q, true), r.2)
      | .gone => ((.gone, false), r.2)
      | .leaf pa bits =>
        let m := Nat.min n (65536 - va.toNat % 65536)
        let xs := r.2.readBytes 0 .steward (leafHost bits) pa m
        match r.2.fillText asked k (va + u64 m) (n - m) with
        | ((.bytes ys, x), s) => ((.bytes (xs ++ ys), x && leafExecutable bits), s)
        | q => q

/-- Instruction words from bytes. -/
def wordsOf : Nat → List Byte → List U32
  | 0, _ => []
  | k + 1, xs => if xs.isEmpty then [] else BitVec.ofNat 32 (natOfBytes (xs.take 4)) :: wordsOf k (xs.drop 4)

/-- The image of a record's HANDLE, while the launch holds it (R368). (Log entry 70: DESIGN CHOICE.) -/
def State.boundImage (s : State) (t : Task) : Option Image :=
  let named := s.image? (fieldOf (t.record.word 7) 0 32)
  match t.packet.bind s.packet? with
  | some p => match p.image.bind s.imageAt? with | some i => some i | none => named
  | none => named

/-- FLAGBASE of a record (R72, R378). -/
def BindSlot.flagBase (b : BindSlot) : U64 := u64 (b.fbase + (b.fsize - 1) * 2 ^ 8 + b.home * 2 ^ 16)

/-- ARGPTR of a record: bits 63 to 56 and 5 to 0 read as 0 (R23). -/
def BindSlot.argPtr (b : BindSlot) : U64 := b.word 3 &&& 0x00FFFFFFFFFFFFC0#64

/-- The identity of the context with index i of a record on a panel (R23, R379, R408): at a restore too it comes from the record. (Log
entry 112: DEDUCED.) -/
def BindSlot.ident (b : BindSlot) (slot i panel : Nat) (node : Bool) : Ident :=
  { panel := panel, slot := slot, taskId := b.word 1, taskPanel := u64 (i % b.w + i / b.w * 2 ^ 4 + i * 2 ^ 8)
    taskShape := u64 (b.w - 1 + (b.h - 1) * 2 ^ 4 + (b.w * b.h - 1) * 2 ^ 8), argPtr := b.argPtr, flagBase := b.flagBase, node := node }

/-- Every line's age begins at a wall cycle (R75, R288). -/
def Ctx.newAges (c : Ctx) (g : Nat) : Ctx := c.mapCells fun _ x => { x with ages := List.replicate 64 { base := g } }

/-- A freshly bound context (R18, R289). -/
def State.freshCtx (s : State) (id : Ident) (code : Code) (trapBytes : List Byte) (entry : U64) (grace : Nat) : Ctx :=
  ({ id := id, code := code, trapMem := blockAt 0 (trapBytes.take 8192), issue := { pc := entry }, fresh := s.fresh
     preempt := { grace := BitVec.ofNat 16 grace } } : Ctx).newAges s.gcyc

/-- The instruction caches of a gang, filled from TEXT at every bind (R146, R322); none while a page is awaited. -/
def State.textOf (s : State) (k : Nat) (t : Task) : Option Code × State :=
  let img := s.boundImage t
  let base := match img with | some i => i.base | none => 0#64
  let size := match img with | some i => i.textSize | none => 0
  let r := s.fillText t.asked (size / 65536 + 2) base size
  match r.1 with
  | (.wait q, _) => (none, r.2.putSlot k { (r.2.slot k) with task := some { t with asked := q } })
  | (.bytes xs, x) => (some { base := base, words := wordsOf xs.length xs, executable := x }, r.2)
  | (.gone, _) => (some { base := base, words := wordsOf size (List.replicate size 0#8), executable := false }, r.2)

/-- The start of a first bind or of a re-execution: a fresh context on every panel. -/
def State.bindFresh (s : State) (k : Nat) (t : Task) (code : Code) : State :=
  let s := s.flush
  let b := t.record
  let trap := match s.boundImage t with | some i => i.trapBytes | none => []
  let node := match t.packet.bind s.packet? with | some p => reexecutable p.foot && t.reserve.isSome | none => false
  let ctxs := mapFrom (fun i p => s.freshCtx (b.ident k i p node) code trap (b.word 2) b.grace) 0 t.panels
  let t := { t with loaded := none, asked := none, since := s.gcyc + 1 }
  { (s.putSlot k { ((s.slot k).withState slotRunning) with task := some t }) with ctxs := s.ctxs ++ ctxs }

/-- A deferred fault of a context that comes back outside its handlers is taken (R277). -/
def Ctx.takeDeferred (c : Ctx) (g : Nat) : Ctx :=
  match c.trap.deferred with
  | some d =>
    if c.trap.tctx then c
    else
      ({ c with trap := { c.trap with deferred := none } }).stopFor
        { code := d.cause.extractLsb' 0 8, sub := d.cause.extractLsb' 8 8, tval := d.tval, queue := some (fieldOf d.cause 16 4), pc := 0#64,
          after := true, access := none, early := false } g
  | none => c

/-- A saved context on a new panel (R261, R288, R397, R408): dispatch writes the identity from the panel and the bind record, and what a
forced stop marked as pending walks afresh. -/
def Ctx.restored (c : Ctx) (panel : Nat) (b : BindSlot) (slot : Nat) (code : Code) (forced : Bool) (g fresh : Nat) : Ctx :=
  let restart (a : GAccess) : GAccess := if a.performed then a else { a with walk := if a.kind.memory then .walking else a.walk, ready := g }
  let trap := if c.trap.tctx then c.trap else { c.trap with pacc := false, access := none }
  let slots : Vector Slot 8 := Vector.replicate 8 Slot.empty
  let c :=
    { c with
      code := code
      id := b.ident slot c.index panel c.id.node
      trap := trap
      preempt := { notify := c.preempt.notify, lastf := forced, grace := BitVec.ofNat 16 b.grace }
      motif := { c.motif with slots := slots, load := none }
      glob := { c.glob with queue := (c.glob.queue.filter fun (a : GAccess) => a.kind != GKind.image).map restart, past := [] }
      time := { c.time with held := 0, holding := 0#8, heldQ := [], refreshUntil := 0, taken := [], landed := [], moved := [], ran := false }
      issue := { c.issue with wait := .none, closed := true }
      fresh := Nat.max c.fresh fresh }
  (((c.mapCells fun _ x => { x with send := x.send.map fun m => { m with arrive := g } }).newAges g).takeDeferred g)

/-- The start of a restored gang, from the bytes of its area (R288, R409). -/
def State.bindSaved (s : State) (k : Nat) (t : Task) (v : Saved) (code : Code) : State :=
  let s := s.flush
  let b := t.record
  let g := s.gcyc
  let one (c : Ctx) : Ctx := (c.areaFrom t.area).restored (t.panels.getD c.index 0) b k code (areaForced t.area) g s.fresh
  let s := s.setFlags b.home b.fbase (areaFlags t.area b.fsize)
  let t := { t with loaded := none, asked := none, restoring := false, saved := none, since := g + 1 }
  { (s.putSlot k { ((s.slot k).withState slotRunning) with task := some t }) with ctxs := s.ctxs ++ v.ctxs.map one }

/-- BIND_COMPLETE (R289, R379): the load has ended, and every context starts in the next cycle, which is not before START. -/
def execBindComplete (slot : Nat) (s : State) : Host.Outcome State Fault Refusal :=
  .next (
    let b := s.slot slot
    match b.task with
    | none => s
    | some t =>
      match t.loaded with
      | none => s
      | some g =>
        if b.state ≠ slotLoading ∨ s.gcyc < g then s
        else
          let s := if t.kept || t.saved.isSome then s else s.keepReduce slot t
          match (s.slot slot).task with
          | none => s
          | some t =>
            if (!t.kept && t.saved.isNone) || decide (s.gcyc + 1 < t.record.start) then s
            else
              match s.textOf slot t, t.saved with
              | (none, s), _ => s
              | (some code, s), some v => s.bindSaved slot t v code
              | (some code, s), none => s.bindFresh slot t code)

/-! Saving (R287, R288, R400). -/

/-- A fill of a ring has lines to write, or is complete and the next to publish its tag. -/
def Cell.filling (x : Cell) : Bool :=
  x.rings.toList.any fun r =>
    (match r.fills with | f :: _ => f.written.isSome | [] => false) ||
      r.fills.any fun f => f.written.isNone && match f.ord with | none => true | some n => decide (2 ^ 64 ≤ n)

/-- What a context still has to wait for before it is saved. -/
def Ctx.unsettled (c : Ctx) : Bool := c.glob.queue.any GAccess.outstanding || c.cells.toList.any Cell.filling

/-- Every panel of the gang has stopped, and nothing of it is out (R288). -/
def State.savable (s : State) (k : Nat) : Bool :=
  let gang := s.gang k
  let mine (p : Nat) : Bool := gang.any fun c => c.id.panel == p
  (s.slot k).state == slotSaving && gang.all (fun c => (c.finished || c.preempt.stop == .quiet) && !c.unsettled) &&
    !s.borderFlight.any (fun x => mine x.2.1) && !s.sheets.toList.any fun x => x.jobs.any fun j => j.panel.any mine

/-- The save area of a gang (R400 to R408). -/
def State.saveArea (s : State) (b : BindSlot) (gang : List Ctx) (forced : Bool) (flags : List U32) : Bytes :=
  let body := shiftBlock 0x10000 (blocks panelBlock ((byIndex gang).map fun c => c.saveBlock (s.env c.id.panel)))
  withDigest (saveHeader (b.w * b.h) b.w b.h forced (b.word 1).toNat s.gcyc flags 0#512 ++ body) (b.w * b.h)

/-- GANG_SAVE (R287, R288, R400): the area is written whole, and the panels are released; a page that fails ends the task. -/
def execGangSave (slot : Nat) (s : State) : Host.Outcome State Fault Refusal :=
  .next (
    let b := s.slot slot
    match b.task with
    | none => s
    | some t =>
      let r := t.record
      if t.ending.isSome || !s.savable slot then s
      else
        match s.savePages r with
        | (none, s) => s.endTask slot 7 causeTranslation.toNat 0 slotAborted
        | (some pages, s) =>
          let s := s.flush
          let gang := s.gang slot
          let forced := gang.any fun c => !c.finished && c.preempt.lastf
          let flags := Store.getList (s.sheet r.home).flags r.fbase r.fsize
          let area := s.saveArea r gang forced flags
          let v : Saved := { ctxs := gang, flags := Store.setList [] 0 flags, forced := forced }
          let t := { t with saved := some v, panels := [], ran := t.runTime true s.gcyc, area := area }
          ((s.putArea area 0 pages).unbind slot).putSlot slot { (b.withState slotSaved) with task := some t })

/-- The flags of a saved task in its save area, and its digest, after an increment (R375, R288). -/
def State.rewriteSaved (s : State) (k : Nat) : State :=
  let b := s.slot k
  match b.task with
  | some t =>
    let r := t.record
    match t.saved, s.savePages r with
    | some v, (some pages, s) =>
      let area := withDigest (Store.setList t.area 0x100 (nums 4 ((Store.getList v.flags 0 r.fsize).map (·.toNat)))) (r.w * r.h)
      (s.flush.putArea area 0 pages).putSlot k { b with task := some { t with area := area } }
    | _, (_, s) => s
  | none => s

/-- REMOTE_FINC_ARRIVAL (R375): while the task is saved, the increment goes to its saved flags. It is a release at system scope: remote
writes that came before it are in every view first (R74). -/
def execRemoteFincArrival (grant f : Nat) (inc : BitVec 32) (s : State) : Host.Outcome State Fault Refusal :=
  let s := s.settle allViews ((s.writes.filter fun w => w.agent == .span).map (·.id))
  .next (match s.granted grant with
    | none => s.dropFinc
    | some (k, t) =>
      let p := BindSlot.partition t.bind
      if p.2.2 ≤ f then s.dropFinc
      else
        match t.saved with
        | some v =>
          let v := { v with flags := Store.set v.flags f (Store.get v.flags f + inc) }
          (s.putSlot k { (s.slot k) with task := some { t with saved := some v } }).rewriteSaved k
        | none =>
          let x := s.sheet p.1
          s.putSheet p.1 { x with flags := Store.set x.flags (p.2.1 + f) (Store.get x.flags (p.2.1 + f) + inc) })

/-! Ends that dispatch sees (R270, R278, R281, R383). -/

/-- The contexts of some that first raised UNCORRECTABLE (R370). -/
def firstErrors (cs : List Ctx) : List Ctx :=
  cs.filter fun c => c.trap.errorAt.isSome && cs.all fun d => d.trap.errorAt.all fun n => decide (c.trap.errorAt.getD 0 ≤ n)

/-- The lowest TASKPANEL.INDEX of some contexts. -/
def lowestIndex (cs : List Ctx) : Nat := (cs.map Ctx.index).foldl Nat.min 255

/-- The DOUBLE record that the steward receives from a halted context (R278). -/
def Ctx.doubleRecord (c : Ctx) : Output :=
  .doubleRecord c.id.panel c.trap.cause ((c.trap.halted.map Raise.cause).getD 0#64) c.trap.tpc c.trap.tval

/-- A node that consumed an uncorrectable error (R383): the gang is dropped, and the node is to start again, or ends at the
fourth. -/
def State.reexecute (s : State) (k : Nat) (b : BindSlot) (t : Task) (index : Nat) : State :=
  if 3 ≤ t.consumed then s.endTask k 7 causeUncorrectable.toNat index slotAborted
  else
    let ran := t.runTime true s.gcyc
    let b1 := { b with words := vset b.words 0 (setField (b.word 0) 48 16 (b.reexecs + 1)) }
    (s.unbind k).putSlot k { (b1.withState slotReexec) with task := some { t with consumed := t.consumed + 1, panels := [], ran := ran } }

/-- The task of slot k commits (R270, R377): its writes are in the view of every die, and its entry has retired. -/
def State.commitTask (s : State) (k : Nat) (b : BindSlot) (t : Task) : State :=
  let s := (s.settle 0x0F#5 (s.taskIds (t.record.word 1).toNat)).mapGang k fun c => { c with id := { c.id with node := false } }
  let s := match t.packet.bind s.packet? with | some p => s.putPacket { p with retired := true } | none => s
  s.putSlot k { b with task := some { t with committed := true } }

/-- What the contexts of slot k bring about for their gang: the double-fault halt, the end by UNCORRECTABLE, a re-execution,
or the task's commitment. -/
def State.watchSlot (s : State) (k : Nat) : State :=
  let b := s.slot k
  match b.task with
  | none => s
  | some t =>
    if t.ending.isSome ∨ (b.state ≠ slotRunning ∧ b.state ≠ slotSaving) then s
    else
      let gang := s.gang k
      let halted := gang.filter fun c => c.trap.halted.isSome
      let aborted := gang.filter fun c => c.preempt.stop == .aborted
      let again := gang.filter fun c => c.preempt.stop == .reexec
      if halted ≠ [] then
        ((byIndex halted).foldl (fun s c => s.emit c.doubleRecord) s).endTask k 7 causeDouble.toNat (lowestIndex halted) slotAborted
      else if aborted ≠ [] then s.endTask k 7 causeUncorrectable.toNat (lowestIndex (firstErrors gang)) slotAborted
      else if again ≠ [] then s.reexecute k b t (lowestIndex again)
      else if !t.committed && gang.any (fun c => c.committed) && gang.all (fun c => c.committed || c.finished) then s.commitTask k b t
      else s

end Sys2Proof.Machine
end

