-- ==== Sys2Proof/Machine/Steward.lean ====
section
/-!
DEFINITION. The steward's default policy (R377, R381, R382): which eligible task is placed next, where, and what it displaces.
The steward takes one step in every wall cycle: it makes at most one placement in it, and moves the pointer of each class at
most once.
-/

namespace Sys2Proof.Machine

/-! Invalidation (R394, R395). -/

/-- Accesses translated and not yet performed: what an invalidation waits for. One that a trap left pending walks afresh (R152). -/
def State.translatedIds (s : State) : List Nat :=
  s.ctxs.flatMap fun c =>
    (c.glob.queue.filter fun a => !a.performed && !c.isPending a && match a.walk with | .done _ _ _ => true | _ => false).map (·.id)

/-- The pieces that column jobs hold back are written: their pages were translated. -/
def State.flushJobs (s : State) : State :=
  (List.range 8).foldl (fun s sh => (s.sheet sh).jobs.foldl (fun s j =>
    if j.remote then s else let w := Work.flush ⟨s, sh, j⟩; w.s.putJob sh w.j) s) s

/-- What the steward has seen of the tables stands in every die's view (R395). (Log entry 90: DEDUCED.) -/
def State.spreadView (s : State) : State := s.settle 0x0F#5 ((s.writes.filter fun w => w.isIn 0).map (·.id))

/-- The KIND, START and LENGTH of a request hold an invalid value (R394). -/
def invalBad (kind start len : Nat) : Bool :=
  kind / 8 != 0 || decide (2 ≤ kind % 4) ||
    (kind % 4 == 1 && (start % 65536 != 0 || len % 65536 != 0 || len == 0 || decide (2 ^ 56 < start + len)))

/-- The request as it is carried out; an invalid field makes it cover the whole table, and the steward records the error. R411 gives no
class for it, so the class is a free value (R395). (Log entry 67: DESIGN CHOICE.) -/
def State.invalidate (s : State) (seq kind start len : Nat) : State :=
  let s := if invalBad kind start len then
      { (s.noteError { cls := Config.freeBits s.fresh % 11, scope := 0, detail := u64 kind }) with fresh := s.fresh + 1 }
    else s
  let s := s.flushJobs.spreadView
  let all := kind % 4 != 1 || invalBad kind start len
  let drop (x : Sheet) : Sheet := { x with tlb := x.tlb.filter fun t => !t.dropped (kind / 4 % 2 == 1) all start len }
  { s with sheets := vmap (fun _ x => drop x) s.sheets,
           fleet := { s.fleet with inval := some (BitVec.ofNat 64 seq, s.translatedIds) } }

/-- TLB_INVALIDATION (R395): on a new REQSEQ the entries are dropped; once the accesses translated with them have been
performed, DONESEQ follows. What the driver writes to DONESEQ counts for nothing (R385). -/
def execTlbInvalidation (s : State) : Host.Outcome State Fault Refusal :=
  .next (match s.fleet.inval with
    | some (seq, ids) =>
      if ids.any fun i => s.translatedIds.contains i then s
      else ({ s with fleet := { s.fleet with inval := none, doneSeq := seq } }).stewardWrite 0x2008 (bytesOfNat 8 seq.toNat)
    | none =>
      let seq := s.stewardRead 0x2000 8
      if seq = s.fleet.doneSeq.toNat then s
      else s.invalidate seq (s.stewardRead 0x2010 8) (s.stewardRead 0x2018 8) (s.stewardRead 0x2020 8))

/-! Eligible copies (R368). -/

/-- The card of the column job that a COPY is: bytes between unit strides. -/
def Packet.copyCard (p : Packet) : List Byte :=
  bytesOfNat 8 0x11 ++ List.replicate 16 0#8 ++ bytesOfNat 8 (p.num 16 8) ++ bytesOfNat 8 (p.num 32 8) ++ List.replicate 24 0#8 ++
    bytesOfNat 8 1 ++ List.replicate 56 0#8 ++ bytesOfNat 8 (p.num 24 8) ++ bytesOfNat 8 1 ++ List.replicate 112 0#8

/-- An eligible COPY goes to the column engine of a sheet that the steward chooses. (Log entry 35: DESIGN CHOICE.) -/
def State.startCopy (s : State) (p : Packet) : State :=
  let sh := Config.freeBits s.fresh % 8
  let j : Job := { id := s.fresh, panel := none, packet := some p.id, form := 4, stream := 0, cardAddr := 0#64, card := p.copyCard,
                   phase := .matched, foot := p.foot, ready := s.gcyc + 1 }
  let x := s.sheet sh
  { (s.putSheet sh { x with jobs := x.jobs ++ [j] }).putPacket { p with taken := true } with fresh := s.fresh + 1 }

/-! What waits. -/

/-- The steward reads the notices of the eligible ring (R377). -/
def State.readRing (s : State) : State :=
  s.ring.foldl (fun s n =>
    match s.packet? n.packet with
    | some p => if p.kind = 5 then s.startCopy p else s.putPacket { p with taken := true }
    | none => s) { s with ring := [] }

/-- A record whose doorbell was refused, or whose load was given up, serves no packet any more. -/
def State.tidySlot (s : State) (k : Nat) : State :=
  let b := s.slot k
  if b.task.isSome then s
  else
    match b.hold with
    | some r => { (s.putSlot k { b with packet := none, hold := none }) with pool := s.pool ++ [r] }
    | none => if b.packet.isSome then s.putSlot k { b with packet := none } else s

/-- A packet has a slot. -/
def State.hasSlot (s : State) (id : Nat) : Bool := (List.range 64).any fun k => (s.slot k).packet == some id

/-- The eligible launches that wait to be placed. -/
def State.eligible (s : State) : List Packet :=
  s.packets.filter fun p => p.kind == 1 && p.taken && p.result.isNone && !s.hasSlot p.id

/-- The first in arrival order of some launches. -/
def oldestOf : List Packet → Option Packet
  | [] => none
  | p :: ps =>
    match oldestOf ps with
    | some x => if decide (x.arrival.getD 0 < p.arrival.getD 0) then some x else some p
    | none => some p

/-- A slot whose task waits to run again: it is saved, or is to be re-executed (R381, R383). -/
def BindSlot.waits (b : BindSlot) : Bool :=
  b.task.isSome && !b.ends && (b.state == slotSaved || b.state == slotReexec || b.state == slotFree)

/-- The slots of a class whose tasks wait to run again. -/
def State.waitingSlots (s : State) (cls : Nat) : List Nat :=
  (List.range 64).filter fun k => let b := s.slot k; b.waits && b.prio == cls

/-! Placement (R382). -/

/-- A panel is in service, no task holds it, and no operator request waits for it (R382, R415). -/
def State.panelFree (s : State) (p : Nat) : Bool :=
  s.inService p && !s.boundElsewhere 64 p && !s.fleet.operatorWaits.any fun x => x.1 == p

/-- The lowest range of n flags of a sheet that is free for the task of slot k. (Log entry 38: DEDUCED.) -/
def State.freeFlags (s : State) (k home n : Nat) : Option Nat := (List.range (257 - n)).find? fun b => !s.flagsTaken k home b n

/-- A place for a task of slot k, or for a new one with k = 64: the origin, the home of its flags, and the first of them. -/
def State.placeFor (s : State) (k w h flags : Nat) : Option (Nat × Nat × Nat × Nat) :=
  match (originsOf w h).find? fun o => (rectPanels o.1 o.2 w h).all s.panelFree with
  | some (x, y) =>
    let home := sheetOf (panelAt y x)
    (s.freeFlags k home flags).map fun b => (x, y, home, b)
  | none => none

/-- The fifth word of a record. -/
def placeWord (x y w h home fbase fsize : Nat) : U64 :=
  u64 (x + y * 2 ^ 4 + (w - 1) * 2 ^ 8 + (h - 1) * 2 ^ 12 + home * 2 ^ 16 + fbase * 2 ^ 24 + (fsize - 1) * 2 ^ 32)

/-- The steward rings a doorbell (R378). -/
def State.doorbell (s : State) (k op : Nat) : State :=
  let b := s.slot k
  let s := s.putSlot k { b with words := vset b.words 0 (setField (b.word 0) 0 3 op) }
  let e : Ev := match op with
    | 1 => .dispatchStart k
    | 2 => .dispatchRestore k
    | 3 => .dispatchPreempt k
    | 4 => .dispatchForce k
    | 5 => .dispatchAbort k
    | _ => .doorbellInvalidOp k
  { s with agenda := .ev e :: s.agenda }

/-- A waiting task of slot k is placed again: the same record in another place. -/
def State.placeAgain (s : State) (k : Nat) (q : Nat × Nat × Nat × Nat) : State :=
  let b := s.slot k
  let w4 := placeWord q.1 q.2.1 b.w b.h q.2.2.1 q.2.2.2 b.fsize
  let op := if b.state = slotSaved then 2 else 1
  (s.putSlot k { b with words := vset b.words 4 w4 }).doorbell k op

/-- A slot for a new task. -/
def State.freeSlot (s : State) : Option Nat :=
  (List.range 64).find? fun k =>
    let b := s.slot k
    b.task.isNone && (b.state == slotFree || b.state == slotDone || b.state == slotAborted)

/-- The shape of a launch, and the size of its partition (R366). -/
def Packet.shape (p : Packet) : Nat × Nat := (p.num 40 1 % 16 + 1, p.num 40 1 / 16 + 1)
def Packet.flags (p : Packet) : Nat := p.num 41 1 + 1

/-- A new task is placed: its record is written and its doorbell rung; none while there is no slot, or no room for its save
area. -/
def State.placeNew (s : State) (p : Packet) (q : Nat × Nat × Nat × Nat) : Option State :=
  let n := areaSize (p.shape.1 * p.shape.2)
  match s.freeSlot, takePool n s.pool with
  | some k, some (a, pool) =>
    let b := s.slot k
    let base := match p.image with | some x => x.toNat | none => 0
    let serial := s.policy.serial + 1
    let w0 := u64 (b.state * 2 ^ 4 + p.cls * 2 ^ 16)
    let words : Vector U64 8 := ⟨#[w0, u64 (p.queue * 2 ^ 32 + serial % 2 ^ 32), u64 (base + p.num 20 4), u64 (p.num 24 8),
      placeWord q.1 q.2.1 p.shape.1 p.shape.2 q.2.2.1 q.2.2.2 p.flags, 0#64, u64 (0x00FE000000000000 + a), u64 (p.num 16 4)], rfl⟩
    let s := { (s.putSlot k { words := words, task := none, packet := some p.id, hold := some (a, n) }) with
               pool := pool, policy := { s.policy with serial := serial } }
    some (s.doorbell k 1)
  | _, _ => none

/-! Displacement (R382). -/

/-- The start of a task for the order of displacement: one that loads has started later than any that runs. -/
def Task.startKey (t : Task) : Nat := match t.loaded with | some g => 2 ^ 64 + g | none => t.since

/-- Tasks that a class may displace: slot and panels, in the order in which they are chosen. -/
def State.lowerTasks (s : State) (cls : Nat) : List (Nat × List Nat) :=
  let xs := (List.range 64).filterMap fun k =>
    let b := s.slot k
    match b.task with
    | some t => if (b.state = slotRunning ∨ b.state = slotLoading) ∧ cls < b.prio ∧ b.ends = false then some (b.prio, t.startKey, k, t.panels) else none
    | none => none
  (xs.mergeSort fun x y => decide (y.1 < x.1) || (x.1 == y.1 && decide (y.2.1 ≤ x.2.1))).map fun x => (x.2.2.1, x.2.2.2)

/-- The shortest beginning of a list of tasks whose panels, with those at hand, are enough; none when all of them are not. -/
def firstEnough (ok : List Nat → Bool) : List Nat → List (Nat × List Nat) → Option (List Nat)
  | acc, [] => if ok acc then some [] else none
  | acc, x :: xs => if ok acc then some [] else (firstEnough ok (acc ++ x.2) xs).map fun ks => x.1 :: ks

/-- The slots that receive PREEMPT so that a rectangle comes free for a class. -/
def State.victims (s : State) (w h cls : Nat) : List Nat :=
  let leaving := ((List.range 64).filterMap fun k => let b := s.slot k; if b.state = slotSaving ∨ b.ends = true then b.task else none).flatMap (·.panels)
  let ok (acc : List Nat) : Bool :=
    (originsOf w h).any fun o => (rectPanels o.1 o.2 w h).all fun p => s.inService p && (acc.contains p || !s.boundElsewhere 64 p)
  (firstEnough ok leaving (s.lowerTasks cls)).getD []

/-- PREEMPT goes to what a task of a class displaces. -/
def State.displace (s : State) (w h cls : Nat) : State := (s.victims w h cls).foldl (fun s k => s.doorbell k 3) s

/-! One class (R381). -/

/-- The quantum of a queue. -/
def State.quantum (s : State) (q : Nat) : Nat := vget 0 s.policy.quantum q

/-- The deficit of a queue in a class. -/
def Policy.deficitOf (x : Policy) (cls q : Nat) : Int := vget 0 x.deficit (64 * cls + q)

/-- Queues without an eligible task of a class have their deficits set to 0. -/
def State.clearDeficits (s : State) (ws : List Packet) : State :=
  let clear (i : Nat) (x : Int) : Int := if ws.any fun p => p.queue == i % 64 && p.cls == i / 64 then x else 0
  { s with policy := { s.policy with deficit := vmap clear s.policy.deficit } }

/-- The next queue, from q on and round to it, whose oldest eligible task has a class. -/
def nextQueue (ws : List Packet) (cls q : Nat) : Option Nat :=
  ((List.range 64).map fun i => (q + 1 + i) % 64).find? fun k => (oldestOf (ws.filter fun p => p.queue == k)).any fun p => p.cls == cls

/-- The pointer of a class comes onto a queue, whose deficit gains the quantum. -/
def State.pointAt (s : State) (cls q : Nat) : State :=
  { s with policy := { (s.policy.add cls q (s.quantum q)) with pointer := vset s.policy.pointer cls q, arrived := vset s.policy.arrived cls true } }

/-- The task that the pointer of a class rests on, when the deficit covers it. -/
def State.resting (s : State) (ws : List Packet) (cls : Nat) : Option Packet :=
  let q := vget 0 s.policy.pointer cls
  (oldestOf (ws.filter fun p => p.queue == q && p.cls == cls)).filter fun p => decide ((s.budget p : Int) ≤ s.policy.deficitOf cls q)

/-- What has come of serving a class. -/
inductive Served where
  /-- a task has been placed, or the pointer has moved and may come to place one next -/
  | placed
  /-- a task that fits no more has ended: the class is served on -/
  | ended
  /-- nothing of the class can be placed now -/
  | waits
  deriving DecidableEq, Repr

/-- A task of a class under the pointer: NOFIT, its placement, or what it displaces. -/
def State.serve (s : State) (p : Packet) : State × Served :=
  let sh := p.shape
  if !s.fits sh.1 sh.2 then (s.finishPacket p.id 0x0A 0 0 0, .ended)
  else
    match s.placeFor 64 sh.1 sh.2 p.flags with
    | some q =>
      match s.placeNew p q with
      | some s => ({ s with policy := s.policy.add p.cls p.queue (-(s.budget p : Int)) }, .placed)
      | none => (s, .waits)
    | none => (s.displace sh.1 sh.2 p.cls, .waits)

/-- One step for the new tasks of a class. -/
def State.serveNew (s : State) (ws : List Packet) (cls : Nat) : State × Served :=
  if !ws.any fun p => p.cls == cls then (s, .waits)
  else
    let s := if vget false s.policy.arrived cls then s else s.pointAt cls (vget 0 s.policy.pointer cls)
    match s.resting ws cls with
    | some p => s.serve p
    | none =>
      match nextQueue ws cls (vget 0 s.policy.pointer cls) with
      | some q => (s.pointAt cls q, .placed)
      | none => (s, .waits)

/-- The task of a waiting slot whose shape no rectangle in service has any more completes with NOFIT (R382). (Log entry 97: DESIGN
CHOICE.) -/
def State.unplaceable (s : State) (k : Nat) : State :=
  s.endTask k 0x0A 0 0 (if (s.slot k).state = slotFree then slotFree else slotAborted)

/-- One step for a class: tasks that wait to run again come first. -/
def State.serveClass (s : State) (ws : List Packet) (cls : Nat) : State × Served :=
  match s.waitingSlots cls with
  | [] => s.serveNew ws cls
  | k :: ks =>
    let place (j : Nat) : Option (Nat × Nat × Nat × Nat × Nat) := let b := s.slot j; (s.placeFor j b.w b.h b.fsize).map fun q => (j, q)
    match (k :: ks).find? fun j => !s.fits (s.slot j).w (s.slot j).h with
    | some j => (s.unplaceable j, .ended)
    | none =>
      match (k :: ks).findSome? place with
      | some (j, q) => (s.placeAgain j q, .placed)
      | none => let b := s.slot k; (s.displace b.w b.h cls, .waits)

/-- The classes from one on, until a task has been placed, and the classes that were passed: of those nothing can be placed now. -/
def State.serveFrom (s : State) : Nat → Nat → State × List Nat
  | 0, _ => (s, [])
  | n + 1, cls =>
    if 4 ≤ cls then (s, [])
    else
      let r := s.serveClass s.eligible cls
      match r.2 with
      | .placed => (r.1, [])
      | .ended => r.1.serveFrom n cls
      | .waits => let x := r.1.serveFrom n (cls + 1); (x.1, cls :: x.2)

/-! Overrun (R381). -/

/-- A PREEMPT for a slot has been rung and not carried out. -/
def State.preempting (s : State) (k : Nat) : Bool := s.agenda.contains (.ev (.dispatchPreempt k))

/-- A task has run beyond its budget, for the first time, while another of its class waits unplaced: it cannot be placed now. -/
def State.overruns (s : State) (passed : List Nat) (k : Nat) : Bool :=
  let b := s.slot k
  match b.task with
  | some t =>
    b.state == slotRunning && !b.ends && !t.overran && !s.preempting k && passed.contains b.prio &&
      (match t.packet.bind s.packet? with
        | some p => decide (s.budget p * microsecond < t.runTime true s.gcyc)
        | none => false) &&
      ((s.eligible.any fun p => p.cls == b.prio) || !(s.waitingSlots b.prio).isEmpty)
  | none => false

/-- PREEMPT for an overrun. -/
def State.stopOverrun (s : State) (passed : List Nat) (k : Nat) : State :=
  if s.overruns passed k then
    let b := s.slot k
    (s.putSlot k { b with task := b.task.map fun t => { t with overran := true } }).doorbell k 3
  else s

/-- One step of the steward's policy. (Log entry 37: DEDUCED.) -/
def State.policyStep (s : State) : State :=
  let s := (List.range 64).foldl State.tidySlot s.readRing
  let s := s.clearDeficits s.eligible
  let r := s.serveFrom (68 + s.packets.length) 0
  (List.range 64).foldl (fun s k => s.stopOverrun r.2 k) r.1

end Sys2Proof.Machine
end

