-- ==== Sys2Proof/Machine/Fleet.lean ====
section
/-!
DEFINITION. What the steward does for the operator: errors and the survey (R410 to R415), power and temperature (R384, R416),
replay capture (R417, R418), the mailbox (R420, R421), and boot (R386, R422, R423).
-/

namespace Sys2Proof.Machine

/-! Times. -/

/-- One second, and 24 hours, in wall cycles. -/
def oneSecond : Nat := 1050000000
def oneDay : Nat := 86400 * oneSecond

/-! The survey (R413, R414). -/

/-- The package with a panel's survey record replaced. -/
def State.putSurvey (s : State) (p : Nat) (v : Survey) : State :=
  { s with fleet := { s.fleet with survey := vset s.fleet.survey p v } }

/-- A count that saturates at 65,535. -/
def satInc (n : Nat) : Nat := Nat.min (n + 1) 65535

/-- Events of one panel, or of one of its cells or banks. -/
def ErrorEvent.samePanel (x y : ErrorEvent) : Bool := x.cls == y.cls && x.panelNo == y.panelNo
def ErrorEvent.sameCell (x y : ErrorEvent) : Bool := x.samePanel y && x.cell == y.cell
def ErrorEvent.sameBank (x y : ErrorEvent) : Bool := x.sameCell y && x.bank == y.bank

/-- A panel with more cells under suspicion (R414). -/
def Survey.suspectCells (v : Survey) (mask : BitVec 16) : Survey :=
  if mask = 0#16 then v else { v with suspect := v.suspect ||| mask, state := if v.state = 0 then 1 else v.state }

/-- The counts of a survey record after an event (R413). -/
def Survey.count (v : Survey) (cls : Nat) : Survey :=
  match cls with
  | 0 => { v with corr := satInc v.corr }
  | 1 => { v with chk := satInc v.chk }
  | 2 => { v with res := satInc v.res }
  | 3 | 4 => { v with uc := satInc v.uc }
  | _ => v

/-- The cells that an event makes suspect, given the events of the last 24 hours, itself among them (R414). -/
def ErrorEvent.suspects (e : ErrorEvent) (day : List ErrorEvent) : BitVec 16 :=
  let cell : BitVec 16 := BitVec.ofNat 16 (2 ^ (e.cell % 16))
  let many (n : Nat) (same : ErrorEvent → Bool) : Bool := decide (n ≤ (day.filter same).length)
  match e.cls with
  | 0 => if many 64 e.sameBank then cell else 0#16
  | 1 => if many 3 e.samePanel then 0xFFFF#16 else 0#16
  | 2 => if many 2 e.sameCell then cell else 0#16
  | 3 | 4 => if e.scope = 3 then cell else 0#16
  | 7 => 0xFFFF#16
  | _ => 0#16

/-- An event of class 0 is logged at most once per bank per second (R412). -/
def Fleet.logs (f : Fleet) (g : Nat) (e : ErrorEvent) : Bool :=
  e.cls != 0 || !f.lastCorr.any fun x => x.2.sameBank e && decide (g < x.1 + oneSecond)

/-- The steward judges an event: it stands to be logged, and the survey takes note of it. -/
def State.judgeEvent (s : State) (x : Nat × ErrorEvent) : State :=
  let g := x.1
  let e := x.2
  let f := s.fleet
  let logs := f.logs g e
  let keeps := decide (e.cls ≤ 2)
  let recent := (f.recent.filter fun y => decide (g < y.1 + oneDay)) ++ (if keeps then [x] else [])
  let last := if logs && e.cls == 0 then x :: f.lastCorr.filter (fun y => !y.2.sameBank e) else f.lastCorr
  let s := { s with fleet := { f with recent := recent, lastCorr := last, toLog := if logs then f.toLog ++ [x] else f.toLog } }
  if e.scope = 2 ∨ e.scope = 3 then
    let p := e.panelNo
    s.putSurvey p (((s.survey p).count e.cls).suspectCells (e.suspects (recent.map (·.2))))
  else s

/-- The steward judges what has been detected. -/
def State.judgeEvents (s : State) : State :=
  let new := s.fleet.log
  new.foldl State.judgeEvent { s with fleet := { s.fleet with log := [] } }

/-- No task is bound to a panel. -/
def State.unbound (s : State) (p : Nat) : Bool := !s.boundElsewhere 64 p

/-- Bytes 0 to 15 of a panel's survey entry (R413). -/
def Survey.bytes (v : Survey) : List Byte :=
  let bypass := (v.bypass.toList.foldr (fun b n => b % 8 + 8 * n) 0) * 2 ^ 4
  nums 8 [v.state + bypass + v.suspect.toNat * 2 ^ 16 + v.uc * 2 ^ 32 + v.res * 2 ^ 48, v.chk + v.corr * 2 ^ 16 + v.screens * 2 ^ 32]

/-- The two bytes of a physical cell's entry. -/
def cellEntry (c : Option Nat × Option Nat × Bool) : List Byte :=
  let bank (b : Option Nat) : Nat := match b with | some n => n % 64 + 64 | none => 0
  nums 2 [bank c.1 + bank c.2.1 * 2 ^ 8 + (if c.2.2 then 2 ^ 15 else 0)]

/-- The bytes of the sparing overlay. -/
def Flash.overlayBytes (f : Flash) : List Byte := f.overlay.flatMap fun x => bytesOfNat 8 x.1 ++ x.2.bytes ++ x.2.cells.flatMap cellEntry

/-- The signature that this package gives an overlay (R420). -/
def Flash.overlaySigned (f : Flash) : List Byte := padTo 4627 (Config.signIdentity f.overlayBytes)

/-- The package accepts the overlay: its own signature stands under it (R420). (Log entry 99: DESIGN CHOICE.) -/
def Flash.overlayOk (f : Flash) : Bool := f.overlay.isEmpty || f.overlaySig == f.overlaySigned

/-- A value recorded in the sparing overlay, which is signed again (R415). -/
def State.record (s : State) (p : Nat) : State :=
  let f : Flash := { s.flash with overlay := (s.flash.overlay.filter fun x => x.1 != p) ++ [(p, s.survey p)] }
  { s with flash := { f with overlaySig := f.overlaySigned } }

/-- The failed banks of a physical cell, with those that a screen found. -/
def banksWith (cell : Option Nat × Option Nat × Bool) (found : List Nat) : List Nat :=
  (cell.1.toList ++ cell.2.1.toList ++ found.map (· % 64)).eraseDups

/-- A physical cell fails (R414, R17): the row's bypass moves to it, or the panel is out. -/
def Survey.failCell (v : Survey) (k : Nat) : Survey :=
  let row := k / 5
  let col := k % 5
  let bypass := vget 4 v.bypass row
  let taken := ((v.cells.getD (5 * row + bypass) (none, none, false)).2.2) && decide (bypass ≠ col)
  let cells := v.cells.set k ((v.cells.getD k (none, none, false)).1, (v.cells.getD k (none, none, false)).2.1, true)
  if taken then { v with cells := cells, state := 3 } else { v with cells := cells, bypass := vset v.bypass row col }

/-- What the screen found in physical cell k (R414). -/
def Survey.screenCell (v : Survey) (k : Nat) (found : List Nat) (logic : Bool) : Survey :=
  let cell := v.cells.getD k (none, none, false)
  if cell.2.2 then v
  else
    let banks := banksWith cell found
    if logic ∨ 3 ≤ banks.length then v.failCell k
    else { v with cells := v.cells.set k (banks[0]?, banks[1]?, false) }

/-- The outcome of a screen, whose number gives what it finds (R414). (Log entry 12: DESIGN CHOICE.) -/
def Survey.screened (v : Survey) (n : Nat) : Survey :=
  let found (k : Nat) : List Nat := Config.screenBanks n k
  let v := (List.range 20).foldl (fun (v : Survey) k => v.screenCell k (found k) (Config.screenLogic n k)) v
  let v := { v with screens := (v.screens + 1) % 2 ^ 32, screenEnd := 0 }
  if v.state = 3 then v else { v with state := 0, suspect := 0#16 }

/-- A panel that is to be screened once it is unbound (R414). -/
def Survey.toScreen (v : Survey) : Bool := v.state == 1 || (v.state == 0 && v.suspect != 0#16)

/-- A screen begins or ends: it lasts at most 2 s. -/
def State.screenStep (s : State) (p : Nat) : State :=
  let v := s.survey p
  if v.toScreen && s.unbound p then
    let n := s.fresh
    { (s.putSurvey p { v with state := 2, screenEnd := s.gcyc + 1 + Config.screenTime n % (2 * oneSecond) }) with fresh := n + 1 }
  else if v.state = 2 && decide (v.screenEnd ≤ s.gcyc) then
    let n := s.fresh
    ({ (s.putSurvey p (v.screened n)) with fresh := n + 1 }).record p
  else s

/-- PANEL_SCREEN (R414): the screen of a panel that is under suspicion and unbound, and its outcome. -/
def execPanelScreen (p : Nat) (s : State) : Host.Outcome State Fault Refusal := .next (s.screenStep p)

/-! Operator requests (R415). -/

/-- An operator request acts on an unbound panel. -/
def State.operate (s : State) (p action : Nat) : State :=
  let v := s.survey p
  if 256 ≤ p ∨ v.state = 3 then s
  else
    match action with
    | 1 => (s.putSurvey p { v with state := 4, screenEnd := 0 }).record p
    | 2 => if v.state = 4 then (s.putSurvey p { v with state := 0 }).record p else s
    | 3 => if v.state = 2 then s else (s.putSurvey p { v with state := 1 }).screenStep p
    | _ => s

/-- The number of the operator's latest request. -/
def State.requestSeq (s : State) : Nat := s.stewardRead (s.fleet.page + 0x8048) 8

/-- A new SEQ is taken up, behind those that still wait for their panels. -/
def State.takeRequest (s : State) : State :=
  let at_ := s.fleet.page + 0x8040
  if s.requestSeq = s.fleet.operatorSeq then s
  else { s with fleet := { s.fleet with operatorSeq := s.requestSeq,
                                        operatorWaits := s.fleet.operatorWaits ++ [(s.stewardRead at_ 2, s.stewardRead (at_ + 2) 1)] } }

/-- OPERATOR_REQUEST (R415): a new SEQ is taken up, and each request is acted on when its panel is next unbound. -/
def execOperatorRequest (s : State) : Host.Outcome State Fault Refusal :=
  .next (
    let s := s.takeRequest
    let xs := s.fleet.operatorWaits
    (xs.filter fun x => s.unbound x.1).foldl (fun t x => t.operate x.1 x.2)
      { s with fleet := { s.fleet with operatorWaits := xs.filter fun x => !s.unbound x.1 } })

/-! Power and temperature (R384, R416). -/

/-- An island cut for a slice of 1,024 cycles (R384, R416), of which g is the first: cutUntil is the last. -/
def Island.cut (i : Island) (g : Nat) : Island := { i with cutUntil := g + 1023, slices := i.slices + 1 }

/-- Cut islands, of some with their powers in the order given, until the power is at most the limit.
(Log entry 45: DEDUCED.) -/
def State.cutIslands (s : State) : List (Nat × Nat) → Nat → State
  | [], _ => s
  | x :: xs, total =>
    if total ≤ 2400000 then s else (s.putIsland x.1 ((s.island x.1).cut (s.gcyc + 1))).cutIslands xs (total - x.2)

/-- How many microseconds ahead an island's LOAD applies: HORIZON, where 0 is treated as 8 (R384). -/
def Island.ahead (i : Island) : Nat := if i.horizon = 0#8 then 8 else i.horizon.toNat

/-- POWER_CHECK (R384): every µs the forecasts are rewritten, 8 µs ahead, and islands are cut when power exceeds 2,400 W, those of greatest
power first and in ascending order on equal power. (Log entry 11: DESIGN CHOICE.) -/
def execPowerCheck (s : State) : Host.Outcome State Fault Refusal :=
  .next (
    if s.gcyc < s.fleet.powerAt then s
    else
      let n := s.fresh
      let powers := (List.range 64).map fun k => (k, Config.power k (s.island k).ahead n)
      let s := { s with fresh := n + 1, fleet := { s.fleet with powerAt := s.gcyc + microsecond },
                        islands := vmap (fun k (i : Island) => { i with load := BitVec.ofNat 8 (Config.forecast k n), horizon := 8#8 }) s.islands }
      s.cutIslands (powers.mergeSort fun x y => decide (y.2 < x.2) || (x.2 == y.2 && decide (x.1 ≤ y.1))) (powers.map (·.2)).sum)

/-- The band that a temperature brings an island to (R416). -/
def Island.nextBand (i : Island) (t : Int) (g : Nat) : Nat :=
  if 110 * 16 ≤ t then 3
  else if 105 * 16 < t then 2
  else if 2 ≤ i.band then (if t ≤ 103 * 16 then 1 else 2)
  else if 80 * 16 < t then 1
  else if i.band = 1 then (match i.coolSince with | some c => if c + oneSecond ≤ g then 0 else 1 | none => 1)
  else 0

/-- FBASE and MARGIN of a band (R416); a package that halts keeps those of band 2. -/
def bandFields (band : Nat) : BitVec 16 × BitVec 16 :=
  match band with
  | 0 => (3004#16, 65535#16)
  | 1 => (751#16, 65535#16)
  | _ => (187#16, 16383#16)

/-- The island after a sample (R416). -/
def Island.sample (i : Island) (t : Int) (g : Nat) : Island :=
  let cool := if t ≤ 75 * 16 then (match i.coolSince with | some c => some c | none => some g) else none
  let i := { i with coolSince := cool }
  let b := i.nextBand t g
  { i with temp := t, band := b, fbase := (bandFields b).1, margin := (bandFields b).2 }

/-- An island in band 2 that is not cut is cut for a slice from cycle g on, which is an event of class 10 (R411, R416). -/
def State.thermalCut (g : Nat) (s : State) (k : Nat) : State :=
  let i := s.island k
  if i.band = 2 ∧ i.cutUntil = 0 then (s.putIsland k (i.cut g)).noteError { cls := 10, scope := 5, cell := k } else s

/-- SUPPLY_CUT_END (R384, R416): a slice of an island ends, behind the panels' turns of its last cycle; in band 2 another follows
at once. -/
def execSupplyCutEnd (island : Nat) (s : State) : Host.Outcome State Fault Refusal :=
  .next (
    let i := s.island island
    if i.cutUntil ≤ s.gcyc then (s.putIsland island { i with cutUntil := 0 }).thermalCut (s.gcyc + 1) island else s)

/-- The package halts (R416): every bound gang is aborted. (Log entry 40: DEDUCED.) -/
def State.haltPackage (s : State) : State :=
  let s := { s with bar0 := { s.bar0 with halt := true } }
  (List.range 64).foldl (fun s k => if (s.slot k).holdsPanels then s.endTask k 7 0 0 slotAborted else s) s

/-- A sample of the islands' temperatures, and what follows from it. It stands before the panels' turns of its cycle, which is the first
of a slice that it begins. -/
def State.sampleIslands (s : State) : State :=
  let n := s.fresh
  let s := { s with fresh := n + 1, fleet := { s.fleet with thermalAt := s.gcyc + 10 * microsecond },
                    islands := vmap (fun k (i : Island) => i.sample (Config.temperature k n) s.gcyc) s.islands }
  let s := (List.range 64).foldl (State.thermalCut s.gcyc) s
  if !s.bar0.halt && s.islands.toList.any (fun i => i.band == 3) then s.haltPackage else s

/-- THERMAL_SAMPLE (R416): every 10 µs. -/
def execThermalSample (s : State) : Host.Outcome State Fault Refusal :=
  .next (if s.gcyc < s.fleet.thermalAt then s else s.sampleIslands)

/-! Replay capture (R417, R418). -/

/-- USED and STATE in the capture control. -/
def State.showCapture (s : State) : State :=
  let f := s.fleet
  (s.stewardWrite (f.page + 0x8020) (bytesOfNat 8 f.captureUsed)).stewardWrite (f.page + 0x8028) (bytesOfNat 8 f.captureState)

/-- CAPTURE_CONTROL_POLL (R417). -/
def execCaptureControlPoll (s : State) : Host.Outcome State Fault Refusal :=
  .next (
    let f := s.fleet
    let rd (off : Nat) : Nat := s.stewardRead (f.page + off) 8
    let en := rd 0x8000 % 2 == 1
    if en && !f.captureEn then
      let ok := bit s.bar0.feats 3 && rd 0x8010 % 64 == 0 && rd 0x8018 % 64 == 0
      State.showCapture { s with fleet := { f with captureEn := true, captureUsed := 0, captureState := if ok then 1 else 3,
                                                   captureMask := u64 (rd 0x8008), captureBuf := u64 (rd 0x8010), captureSize := rd 0x8018 } }
    else if !en && f.captureEn then State.showCapture { s with fleet := { f with captureEn := false, captureState := 0 } }
    else if en then { s with fleet := { f with captureMask := u64 (rd 0x8008) } }
    else s)

/-- The capture record of a launch that completes now (R418). -/
def State.captureRecord (s : State) (p : Packet) (r : Nat × Nat × Nat × Nat) (now : List Line) : List Byte :=
  let n := p.num 42 1
  let panels := p.shape.1 * p.shape.2
  let len := (224 + 128 * n + 32 * panels + 63) / 64 * 64
  let digests (xs : List Line) : List Byte := padTo (64 * n) (xs.flatMap fun d => bytesOfNat 64 d.toNat)
  let head := bytesOfNat 4 len ++ bytesOfNat 1 p.queue ++ bytesOfNat 1 n ++ bytesOfNat 2 panels ++ bytesOfNat 2 p.reexecs ++
    bytesOfNat 6 0 ++ bytesOfNat 8 r.2.2.2 ++ bytesOfNat 8 p.launcher.toNat
  padTo len (padTo 64 head ++ padTo 64 p.bytes ++ padTo 64 (nums 8 (p.firstBind.map (·.toNat))) ++
    digests (p.digests.getD now) ++ digests now ++ padTo 32 (p.record r s.gcyc ++ p.doneWord) ++
    padTo (32 * panels) (p.finals.flatMap fun xs => nums 8 (xs.map (·.toNat))))

/-- Write bytes behind a virtual address, page by page; none when a page is not there or not writable. -/
def State.putVirtual (s : State) : List (Nat × Nat) → List Byte → Option State
  | [], _ => some s
  | q :: qs, xs =>
    let r := s.translate 0 false q.1
    match r.1 with
    | .leaf pa bits =>
      if !leafWritable bits then none
      else
        let req : WriteReq := { agent := .steward, view := 0, onHost := leafHost bits, addr := pa, data := xs.take q.2,
                                needs := (s.writes.filter fun w => w.agent == .steward).map fun w => (w.id, allViews), together := allViews }
        (r.2.perform req).putVirtual qs (xs.drop q.2)
    | _ => none

/-- The record of a captured launch is written, or capture is full (R417). -/
def State.capture (s : State) (p : Packet) (r : Nat × Nat × Nat × Nat) : State :=
  if !p.captured ∨ s.fleet.captureState ≠ 1 then s
  else
    let d := s.regionDigests p.foot
    let s := d.2
    let f := s.fleet
    let xs := s.captureRecord p r d.1
    let full : State := State.showCapture { s with fleet := { f with captureState := 2 } }
    if f.captureSize < f.captureUsed + xs.length then full
    else
      match s.putVirtual (pagesOf (xs.length / 65536 + 2) (f.captureBuf.toNat + f.captureUsed) xs.length) xs with
      | some s => State.showCapture { s with fleet := { f with captureUsed := f.captureUsed + xs.length } }
      | none => full

/-- A packet whose effect is complete: its completion record, and once that is written, for a captured launch the capture record,
which holds it (R417, R418). -/
def State.completePacket (s : State) (p : Packet) : State :=
  match p.result with
  | none => s
  | some r =>
    let t := s.complete p
    if (t.packet? p.id).isSome then t else t.capture p r

/-! The mailbox (R420, R421). -/

/-- The address of the mailbox. -/
def State.mailbox (s : State) : Nat := s.fleet.page + 0xC000

/-- The request under way, or else one that has not been answered. -/
def State.mailRequest (s : State) : Option MailRequest :=
  let m := s.mailbox
  match s.fleet.mail with
  | some r => some r
  | none =>
    let seq := s.stewardRead (m + 0x18) 8
    if seq = s.stewardRead (m + 0x20) 8 then none
    else some { seq := seq, op := s.stewardRead m 8, arg0 := s.stewardRead (m + 8) 8, arg1 := s.stewardRead (m + 0x10) 8 }

/-- Its operation. -/
def State.mailOp (s : State) : Option Nat := s.mailRequest.map (·.op)

/-- The request answered: STATUS, the response, and then DONESEQ. -/
def State.answer (s : State) (r : MailRequest) (status : Nat) (xs : List Byte) : State :=
  let m := s.mailbox
  let s := s.stewardWrite (m + 0x28) (bytesOfNat 8 status)
  let s := if xs.isEmpty then s else s.stewardWrite (m + 0x40) xs
  ({ s with fleet := { s.fleet with mailAsked := none, mail := none } }).stewardWrite (m + 0x20) (bytesOfNat 8 r.seq)

/-- The images in force. -/
def State.firmware (s : State) : List Byte := if s.boot.fromB then s.flash.slotB else s.flash.slotA
def State.configImage (s : State) : List Byte := if s.boot.configB then s.flash.configB else s.flash.configA

/-- The survey record's two parts (R410). -/
def Fleet.surveyBytes (f : Fleet) : List Byte := f.survey.toList.flatMap Survey.bytes
def Fleet.cellBytes (f : Fleet) : List Byte := f.survey.toList.flatMap fun v => v.cells.flatMap cellEntry

/-- A digest's bytes. -/
def digestBytes (xs : List Byte) : List Byte := bytesOfNat 64 (Config.sha3 xs).toNat

/-- The evidence of ATTEST (R421). (Log entry 10: DESIGN CHOICE.) -/
def State.evidence (s : State) (nonce : List Byte) : List Byte :=
  padTo 512 (padTo 64 nonce ++ digestBytes Config.rom ++ digestBytes s.firmware ++ digestBytes s.configImage ++
    digestBytes s.flash.overlayBytes ++ nums 8 [s.boot.bootno, s.bar0.featacc0.toNat, s.bar0.featacc1.toNat] ++
    digestBytes (s.fleet.surveyBytes ++ s.fleet.cellBytes))

/-- ATTEST (R421). -/
def execAttest (s : State) : Host.Outcome State Fault Refusal :=
  .next (match s.mailRequest with
    | none => s
    | some q =>
      if q.op ≠ 1 then s
      else
        let fw := Config.sha3 s.firmware
        let ev := s.evidence (s.stewardBytes (s.mailbox + 0x40) 64)
        let key := padTo 2592 (Config.attestKey fw)
        s.answer q 0 (ev ++ key ++ padTo 4627 (Config.signIdentity key) ++ padTo 4627 (Config.signAttest fw ev)))

/-- The inactive slot takes an image, and is preferred at the next start (R421). -/
def State.stageImage (s : State) (xs : List Byte) : State :=
  let f := s.flash
  { s with flash :=
      if Config.isConfig xs then
        (if s.boot.configB then { f with configA := xs, configPreferB := false } else { f with configB := xs, configPreferB := true })
      else if s.boot.fromB then { f with slotA := xs, preferB := false }
      else { f with slotB := xs, preferB := true } }

/-- STAGE (R421). -/
def execStage (s : State) : Host.Outcome State Fault Refusal :=
  .next (match s.mailRequest with
    | none => s
    | some q =>
      if q.op ≠ 2 then s
      else if 67108864 < q.arg1 then s.answer q 3 []
      else
        let r := s.fetchBytes s.fleet.mailAsked (u64 q.arg0) q.arg1
        match r.1 with
        | .wait k => { r.2 with fleet := { r.2.fleet with mailAsked := k, mail := some q } }
        | .gone => r.2.answer q 2 []
        | .bytes xs => if Config.vendorSigned xs then (r.2.stageImage xs).answer q 0 [] else r.2.answer q 2 [])

/-- IDENTITY (R421). -/
def execIdentity (s : State) : Host.Outcome State Fault Refusal :=
  .next (match s.mailRequest with
    | none => s
    | some q => if q.op ≠ 3 then s else s.answer q 0 (padTo 2592 Config.identityKey ++ padTo 4627 Config.certificate))

/-- CLEARALT (R421, R423). -/
def execClearalt (s : State) : Host.Outcome State Fault Refusal :=
  .next (match s.mailRequest with
    | none => s
    | some q =>
      if q.op ≠ 4 then s
      else ({ s with flash := { s.flash with cleared := (s.flash.cleared ++ [q.arg0]).eraseDups } }).answer q 0 [])

/-- MAILBOX_BADOP (R421). -/
def execMailboxBadop (s : State) : Host.Outcome State Fault Refusal :=
  .next (match s.mailRequest with
    | some q => if q.op = 0 ∨ 5 ≤ q.op then s.answer q 1 [] else s
    | none => s)

/-! The fleet page (R410, R412, R416, R422). -/

/-- An entry of the boot journal. -/
def JournalEntry.bytes (j : JournalEntry) : List Byte :=
  bytesOfNat 4 j.bootno ++ bytesOfNat 1 j.step ++ bytesOfNat 1 j.kind ++ bytesOfNat 2 j.code ++ bytesOfNat 8 j.detail ++ bytesOfNat 16 0

/-- An island's thermal record (R416). -/
def Island.thermal (i : Island) : List Byte :=
  nums 8 [(BitVec.ofInt 16 i.temp).toNat + i.band % 4 * 2 ^ 16 + i.slices % 2 ^ 32 * 2 ^ 32]

/-- An entry of the event log (R412): the cycle of detection and the event. -/
def logEntry (x : Nat × ErrorEvent) : List Byte :=
  bytesOfNat 8 x.1 ++ bytesOfNat 1 x.2.cls ++ bytesOfNat 1 x.2.scope ++ bytesOfNat 2 0 ++ bytesOfNat 4 x.2.place ++
    nums 8 [x.2.detail.toNat, x.2.taskId.toNat]

/-- The parts of the page between 0x0040 and 0x7FFF, but for the event log. -/
def State.pageParts (s : State) : List (Nat × List Byte) :=
  [(0x0040, nums 8 s.fleet.counters.toList), (0x0100, bytesOfNat 8 s.fleet.logTail), (0x2000, s.fleet.surveyBytes),
   (0x3000, s.fleet.cellBytes), (0x5800, s.islands.toList.flatMap Island.thermal),
   (0x6000, padTo 8192 ((s.flash.journal.drop (s.flash.journal.length - 256)).flatMap JournalEntry.bytes))]

/-- The entries of the event log that are to be written, with their places in the page. -/
def State.logParts (s : State) : List (Nat × List Byte) :=
  mapFrom (fun j x => (0x1000 + 32 * (j % 128), logEntry x)) s.fleet.logTail s.fleet.toLog

/-- Parts written to the page. -/
def State.putParts (s : State) (xs : List (Nat × List Byte)) : State := xs.foldl (fun s x => s.stewardWrite (s.fleet.page + x.1) x.2) s

/-- The page is brought up to date, between an odd GEN and an even one, when something in it has changed (R410); new events are
signalled (R412). (Log entry 44: DEDUCED.) -/
def State.updatePage (s : State) : State :=
  let new := s.logParts
  let t := { s with fleet := { s.fleet with logTail := s.fleet.logTail + s.fleet.toLog.length, toLog := [] } }
  let parts := t.pageParts.filter fun x => t.stewardBytes (t.fleet.page + x.1) x.2.length != x.2
  if parts.isEmpty && new.isEmpty then s
  else
    let gen := t.fleet.gen
    let t := t.putParts ([(8, bytesOfNat 8 (gen + 1))] ++ new ++ parts ++ [(8, bytesOfNat 8 (gen + 2))])
    let t := { t with fleet := { t.fleet with gen := gen + 2 } }
    if new.isEmpty then t else t.emit (.msix 64)

/-! Boot (R386, R410, R422, R423). -/

/-- An entry appended to the journal, a ring of 4,096. -/
def State.journal (s : State) (step kind code detail : Nat) : State :=
  let js := s.flash.journal ++ [{ bootno := s.boot.bootno, step := step, kind := kind, code := code, detail := detail }]
  { s with flash := { s.flash with journal := js.drop (js.length - 4096) } }

/-- The kinds of journal entries. -/
def kindBegin : Nat := 1
def kindOk : Nat := 2
def kindFail : Nat := 3
def kindAlt : Nat := 4
def kindSkipped : Nat := 5

/-- The entries of a step, newest first. -/
def Flash.entriesOf (f : Flash) (step : Nat) : List Nat := ((f.journal.filter fun j => j.step == step).map (·.kind)).reverse

/-- The alternate of a step is taken (R423). -/
def Flash.alternate (f : Flash) (step : Nat) : Bool :=
  if step = 0 ∨ step = 6 then false
  else
    match f.entriesOf step with
    | [] => false
    | k :: ks =>
      let first := if k = kindOk ∨ k = kindFail then ks.headD kindBegin else k
      let good := k == kindOk || k == kindSkipped
      if good then (first == kindAlt || first == kindSkipped) && !f.cleared.contains step else first == kindBegin

/-- A step begins: its BEGIN or ALT_BEGIN stands in the journal before it runs; steps 4 and 5 are skipped as their alternate. -/
def State.beginStep (s : State) (step : Nat) : State :=
  let alt := s.flash.alternate step
  let s := if alt then { s with flash := { s.flash with cleared := s.flash.cleared.filter fun k => k != step } } else s
  if alt && (step == 4 || step == 5) then
    let s := s.journal step kindSkipped 0 0
    { s with boot := { s.boot with step := some (step + 1, false, s.gcyc), noSpan := s.boot.noSpan || step == 5 }, agenda := .ev .boot :: s.agenda }
  else
    let s := s.journal step (if alt then kindAlt else kindBegin) 0 0
    { s with boot := { s.boot with step := some (step, alt, s.gcyc), running := true } }

/-- BOOT (R423): the step in hand begins. -/
def execBoot (s : State) : Host.Outcome State Fault Refusal :=
  .next (match s.boot.step with
    | some (k, _, _) => if s.boot.running then s else s.beginStep k
    | none => s)

/-- BOOT_WATCHDOG (R422): a step that has run for 10 s restarts the package. -/
def execBootWatchdog (s : State) : Host.Outcome State Fault Refusal :=
  .next (match s.boot.step with
    | some (_, _, g) => if s.boot.running && decide (g + 10 * oneSecond ≤ s.gcyc) then s.restart else s
    | none => s)

/-- The entries of the table window's table of level 2 for one stack (R386). -/
def windowLeaves (stack : Nat) : List Byte := nums 8 ((List.range 1024).map fun k => stack * 2 ^ 36 + k / 16 * 2 ^ 30 + 0x205)

/-- HBM address of the steward's tables of the window. -/
def windowTables : Nat := 0x2000010000

/-- The steward writes its part of the reserved page, and the table window (R385, R386, R410). -/
def State.writeReserved (s : State) : State :=
  let s := s.stewardWrite 0x1FC0 (bytesOfNat 8 (windowTables + 3))
  let s := s.stewardWrite windowTables (padTo 8192 (nums 8 ((List.range 8).map fun k => windowTables + 8192 * (k + 1) + 3)))
  let s := (List.range 8).foldl (fun (s : State) k => s.stewardWrite (windowTables + 8192 * (k + 1)) (windowLeaves k)) s
  let s := s.stewardWrite 0x2008 (bytesOfNat 8 0)
  let s := s.stewardWrite 0x2028 (List.replicate 2264 0#8)
  let s := s.stewardWrite 0x2900 (bytesOfNat 8 s.fleet.page ++ List.replicate 5880 0#8)
  s.stewardWrite 0x6000 (List.replicate 40960 0#8)

/-- The fleet page as boot leaves it (R410). -/
def State.writePage (s : State) : State :=
  let s := s.stewardWrite s.fleet.page (List.replicate 65536 0#8)
  let s := s.stewardWrite s.fleet.page (nums 8 [1, 0, s.boot.bootno])
  s.updatePage

/-- Boot has finished: tables, fleet page, and READY (R356, R386, R410); REFSTAT's fields come with the first sample (R79). -/
def State.finishBoot (s : State) : State :=
  let s := ({ s with boot := { s.boot with step := none } }).sampleIslands
  let s := s.writeReserved.writePage
  { s with bar0 := { s.bar0 with ready := true },
           fleet := { s.fleet with pollAt := s.gcyc + 2 * microsecond, powerAt := s.gcyc + microsecond } }

/-- The effect of a step that has ended well (R423). -/
def State.stepEffect (s : State) (step : Nat) (alt : Bool) : State :=
  match step with
  | 1 => { s with boot := { s.boot with fromB := s.flash.preferB != alt } }
  | 2 =>
    let put (s : State) (x : Nat × Survey) : State :=
      if alt then s.putSurvey x.1 { (s.survey x.1) with state := 1 } else s.putSurvey x.1 { x.2 with suspect := 0#16, uc := 0, res := 0, chk := 0, corr := 0 }
    let held := if s.flash.overlayOk then s.flash.overlay else []
    held.foldl put { s with boot := { s.boot with configB := s.flash.configPreferB } }
  | 4 =>
    let screen (s : State) (p : Nat) : State :=
      if (s.survey p).state = 1 then ({ (s.putSurvey p ((s.survey p).screened s.fresh)) with fresh := s.fresh + 1 }).record p else s
    (List.range 256).foldl screen s
  | _ => s

/-- The image that a step runs from carries the vendor's signature, by the key whose digest the ROM holds: firmware at step 1, the
configuration image at step 2 (R420). -/
def State.stepSigned (s : State) (step : Nat) (alt : Bool) : Bool :=
  let f := s.flash
  match step with
  | 1 => Config.vendorSigned (if f.preferB != alt then f.slotB else f.slotA)
  | 2 => Config.vendorSigned (if f.configPreferB then f.configB else f.configA)
  | _ => true

/-- A boot step ends (R422, R423), and fails when what it runs from is not signed: the next one follows, or the package starts again after a failure.
(Log entry 41: DEDUCED.) -/
def State.endStep (s : State) (ok : Bool) (code detail : Nat) : State :=
  match s.boot.step with
  | none => s
  | some (k, alt, _) =>
    if !s.boot.running then s
    else if !ok || !s.stepSigned k alt then (s.journal k kindFail code detail).restart
    else
      let s := (s.journal k kindOk code detail).stepEffect k alt
      let s := { s with boot := { s.boot with running := false } }
      if k = 6 then s.finishBoot
      else { s with boot := { s.boot with step := some (k + 1, false, s.gcyc) }, agenda := .ev .boot :: s.agenda }

end Sys2Proof.Machine
end

