-- ==== Sys2Proof/Machine/Scalar.lean ====
section
/-!
DEFINITION. Majors 0x00 to 0x03 and 0x10: integer arithmetic and logic of the sequencer (R147 to R150).
-/

namespace Sys2Proof.Machine

/-- The low half of a scalar. -/
def low32 (x : U64) : U32 := x.extractLsb' 0 32
/-- A word sign-extended. -/
def sextw (x : U32) : U64 := x.signExtend 64

/-- ADD (R147): a + b modulo 2^64. -/
def fnAdd (x y : U64) : U64 := x + y

/-- SUB (R147): a - b modulo 2^64. -/
def fnSub (x y : U64) : U64 := x - y

/-- AND (R147): a and b. -/
def fnAnd (x y : U64) : U64 := x &&& y

/-- OR (R147): a or b. -/
def fnOr (x y : U64) : U64 := x ||| y

/-- XOR (R147): a exclusive or b. -/
def fnXor (x y : U64) : U64 := x ^^^ y

/-- ANDN (R147): a and not b. -/
def fnAndn (x y : U64) : U64 := x &&& ~~~y

/-- SLL (R147): a shifted left by b[5:0]. -/
def fnSll (x y : U64) : U64 := x <<< (y.toNat % 64)

/-- SRL (R147): a shifted right by b[5:0], zeros entering. -/
def fnSrl (x y : U64) : U64 := x >>> (y.toNat % 64)

/-- SRA (R147): a shifted right by b[5:0], the sign entering. -/
def fnSra (x y : U64) : U64 := x.sshiftRight (y.toNat % 64)

/-- ROR (R147): a rotated right by b[5:0]. -/
def fnRor (x y : U64) : U64 := x.rotateRight (y.toNat % 64)

/-- SLT (R147): 1 when a is less than b, signed. -/
def fnSlt (x y : U64) : U64 := ofBool64 (x.slt y)

/-- SLTU (R147): 1 when a is less than b, unsigned. -/
def fnSltu (x y : U64) : U64 := ofBool64 (x.ult y)

/-- MIN (R147): the signed lesser. -/
def fnMin (x y : U64) : U64 := if x.slt y then x else y

/-- MAX (R147): the signed greater. -/
def fnMax (x y : U64) : U64 := if x.slt y then y else x

/-- MINU (R147): the unsigned lesser. -/
def fnMinu (x y : U64) : U64 := if x.ult y then x else y

/-- MAXU (R147): the unsigned greater. -/
def fnMaxu (x y : U64) : U64 := if x.ult y then y else x

/-- ADDW (R147): the low halves added, sign-extended. -/
def fnAddw (x y : U64) : U64 := sextw (low32 x + low32 y)

/-- SUBW (R147): the low halves subtracted, sign-extended. -/
def fnSubw (x y : U64) : U64 := sextw (low32 x - low32 y)

/-- SLLW (R147): the low half shifted left by b[4:0], sign-extended. -/
def fnSllw (x y : U64) : U64 := sextw (low32 x <<< (y.toNat % 32))

/-- SRLW (R147): the low half shifted right by b[4:0], sign-extended. -/
def fnSrlw (x y : U64) : U64 := sextw (low32 x >>> (y.toNat % 32))

/-- SRAW (R147): the low half shifted right arithmetically by b[4:0], sign-extended. -/
def fnSraw (x y : U64) : U64 := sextw ((low32 x).sshiftRight (y.toNat % 32))

/-- CLZ (R147): the number of leading zero bits. -/
def fnClz (x : U64) : U64 := BitVec.ofNat 64 (clzNat 64 x.toNat)

/-- CTZ (R147): the number of trailing zero bits. -/
def fnCtz (x : U64) : U64 := BitVec.ofNat 64 (ctzNat 64 x.toNat)

/-- POPC (R147): the number of 1 bits. -/
def fnPopc (x : U64) : U64 := BitVec.ofNat 64 (popcountNat 64 x.toNat)

/-- SEXTB (R147): a[7:0] sign-extended. -/
def fnSextb (x : U64) : U64 := sext (x.extractLsb' 0 8)

/-- SEXTH (R147): a[15:0] sign-extended. -/
def fnSexth (x : U64) : U64 := sext (x.extractLsb' 0 16)

/-- SEXTW (R147): a[31:0] sign-extended. -/
def fnSextw (x : U64) : U64 := sextw (low32 x)

/-- ZEXTW (R147): a[31:0] zero-extended. -/
def fnZextw (x : U64) : U64 := (low32 x).setWidth 64

/-- ADD (R147), latency 1. -/
def execAdd (e : Bool) (d a b : BitVec 5) (s : State) : Host.Outcome State Fault Refusal :=
  onCtx s fun _ c => c.alu (.add e d a b) e d [.s a, .s b] 1 fun c => fnAdd (c.rs a) (c.rs b)

/-- SUB (R147), latency 1. -/
def execSub (e : Bool) (d a b : BitVec 5) (s : State) : Host.Outcome State Fault Refusal :=
  onCtx s fun _ c => c.alu (.sub e d a b) e d [.s a, .s b] 1 fun c => fnSub (c.rs a) (c.rs b)

/-- AND (R147), latency 1. -/
def execAnd (e : Bool) (d a b : BitVec 5) (s : State) : Host.Outcome State Fault Refusal :=
  onCtx s fun _ c => c.alu (.and e d a b) e d [.s a, .s b] 1 fun c => fnAnd (c.rs a) (c.rs b)

/-- OR (R147), latency 1. -/
def execOr (e : Bool) (d a b : BitVec 5) (s : State) : Host.Outcome State Fault Refusal :=
  onCtx s fun _ c => c.alu (.or e d a b) e d [.s a, .s b] 1 fun c => fnOr (c.rs a) (c.rs b)

/-- XOR (R147), latency 1. -/
def execXor (e : Bool) (d a b : BitVec 5) (s : State) : Host.Outcome State Fault Refusal :=
  onCtx s fun _ c => c.alu (.xor e d a b) e d [.s a, .s b] 1 fun c => fnXor (c.rs a) (c.rs b)

/-- ANDN (R147), latency 1. -/
def execAndn (e : Bool) (d a b : BitVec 5) (s : State) : Host.Outcome State Fault Refusal :=
  onCtx s fun _ c => c.alu (.andn e d a b) e d [.s a, .s b] 1 fun c => fnAndn (c.rs a) (c.rs b)

/-- SLL (R147), latency 1. -/
def execSll (e : Bool) (d a b : BitVec 5) (s : State) : Host.Outcome State Fault Refusal :=
  onCtx s fun _ c => c.alu (.sll e d a b) e d [.s a, .s b] 1 fun c => fnSll (c.rs a) (c.rs b)

/-- SRL (R147), latency 1. -/
def execSrl (e : Bool) (d a b : BitVec 5) (s : State) : Host.Outcome State Fault Refusal :=
  onCtx s fun _ c => c.alu (.srl e d a b) e d [.s a, .s b] 1 fun c => fnSrl (c.rs a) (c.rs b)

/-- SRA (R147), latency 1. -/
def execSra (e : Bool) (d a b : BitVec 5) (s : State) : Host.Outcome State Fault Refusal :=
  onCtx s fun _ c => c.alu (.sra e d a b) e d [.s a, .s b] 1 fun c => fnSra (c.rs a) (c.rs b)

/-- ROR (R147), latency 1. -/
def execRor (e : Bool) (d a b : BitVec 5) (s : State) : Host.Outcome State Fault Refusal :=
  onCtx s fun _ c => c.alu (.ror e d a b) e d [.s a, .s b] 1 fun c => fnRor (c.rs a) (c.rs b)

/-- SLT (R147), latency 1. -/
def execSlt (e : Bool) (d a b : BitVec 5) (s : State) : Host.Outcome State Fault Refusal :=
  onCtx s fun _ c => c.alu (.slt e d a b) e d [.s a, .s b] 1 fun c => fnSlt (c.rs a) (c.rs b)

/-- SLTU (R147), latency 1. -/
def execSltu (e : Bool) (d a b : BitVec 5) (s : State) : Host.Outcome State Fault Refusal :=
  onCtx s fun _ c => c.alu (.sltu e d a b) e d [.s a, .s b] 1 fun c => fnSltu (c.rs a) (c.rs b)

/-- MIN (R147), latency 1. -/
def execMin (e : Bool) (d a b : BitVec 5) (s : State) : Host.Outcome State Fault Refusal :=
  onCtx s fun _ c => c.alu (.min e d a b) e d [.s a, .s b] 1 fun c => fnMin (c.rs a) (c.rs b)

/-- MAX (R147), latency 1. -/
def execMax (e : Bool) (d a b : BitVec 5) (s : State) : Host.Outcome State Fault Refusal :=
  onCtx s fun _ c => c.alu (.max e d a b) e d [.s a, .s b] 1 fun c => fnMax (c.rs a) (c.rs b)

/-- MINU (R147), latency 1. -/
def execMinu (e : Bool) (d a b : BitVec 5) (s : State) : Host.Outcome State Fault Refusal :=
  onCtx s fun _ c => c.alu (.minu e d a b) e d [.s a, .s b] 1 fun c => fnMinu (c.rs a) (c.rs b)

/-- MAXU (R147), latency 1. -/
def execMaxu (e : Bool) (d a b : BitVec 5) (s : State) : Host.Outcome State Fault Refusal :=
  onCtx s fun _ c => c.alu (.maxu e d a b) e d [.s a, .s b] 1 fun c => fnMaxu (c.rs a) (c.rs b)

/-- ADDW (R147), latency 1. -/
def execAddw (e : Bool) (d a b : BitVec 5) (s : State) : Host.Outcome State Fault Refusal :=
  onCtx s fun _ c => c.alu (.addw e d a b) e d [.s a, .s b] 1 fun c => fnAddw (c.rs a) (c.rs b)

/-- SUBW (R147), latency 1. -/
def execSubw (e : Bool) (d a b : BitVec 5) (s : State) : Host.Outcome State Fault Refusal :=
  onCtx s fun _ c => c.alu (.subw e d a b) e d [.s a, .s b] 1 fun c => fnSubw (c.rs a) (c.rs b)

/-- SLLW (R147), latency 1. -/
def execSllw (e : Bool) (d a b : BitVec 5) (s : State) : Host.Outcome State Fault Refusal :=
  onCtx s fun _ c => c.alu (.sllw e d a b) e d [.s a, .s b] 1 fun c => fnSllw (c.rs a) (c.rs b)

/-- SRLW (R147), latency 1. -/
def execSrlw (e : Bool) (d a b : BitVec 5) (s : State) : Host.Outcome State Fault Refusal :=
  onCtx s fun _ c => c.alu (.srlw e d a b) e d [.s a, .s b] 1 fun c => fnSrlw (c.rs a) (c.rs b)

/-- SRAW (R147), latency 1. -/
def execSraw (e : Bool) (d a b : BitVec 5) (s : State) : Host.Outcome State Fault Refusal :=
  onCtx s fun _ c => c.alu (.sraw e d a b) e d [.s a, .s b] 1 fun c => fnSraw (c.rs a) (c.rs b)

/-- CLZ (R147), latency 1. -/
def execClz (e : Bool) (d a : BitVec 5) (s : State) : Host.Outcome State Fault Refusal :=
  onCtx s fun _ c => c.alu (.clz e d a) e d [.s a] 1 fun c => fnClz (c.rs a)

/-- CTZ (R147), latency 1. -/
def execCtz (e : Bool) (d a : BitVec 5) (s : State) : Host.Outcome State Fault Refusal :=
  onCtx s fun _ c => c.alu (.ctz e d a) e d [.s a] 1 fun c => fnCtz (c.rs a)

/-- POPC (R147), latency 1. -/
def execPopc (e : Bool) (d a : BitVec 5) (s : State) : Host.Outcome State Fault Refusal :=
  onCtx s fun _ c => c.alu (.popc e d a) e d [.s a] 1 fun c => fnPopc (c.rs a)

/-- SEXTB (R147), latency 1. -/
def execSextb (e : Bool) (d a : BitVec 5) (s : State) : Host.Outcome State Fault Refusal :=
  onCtx s fun _ c => c.alu (.sextb e d a) e d [.s a] 1 fun c => fnSextb (c.rs a)

/-- SEXTH (R147), latency 1. -/
def execSexth (e : Bool) (d a : BitVec 5) (s : State) : Host.Outcome State Fault Refusal :=
  onCtx s fun _ c => c.alu (.sexth e d a) e d [.s a] 1 fun c => fnSexth (c.rs a)

/-- SEXTW (R147), latency 1. -/
def execSextw (e : Bool) (d a : BitVec 5) (s : State) : Host.Outcome State Fault Refusal :=
  onCtx s fun _ c => c.alu (.sextw e d a) e d [.s a] 1 fun c => fnSextw (c.rs a)

/-- ZEXTW (R147), latency 1. -/
def execZextw (e : Bool) (d a : BitVec 5) (s : State) : Host.Outcome State Fault Refusal :=
  onCtx s fun _ c => c.alu (.zextw e d a) e d [.s a] 1 fun c => fnZextw (c.rs a)

/-- ADDI (R148): the sign-extended immediate in place of b. -/
def execAddi (e : Bool) (d a : BitVec 5) (i : BitVec 12) (s : State) : Host.Outcome State Fault Refusal :=
  onCtx s fun _ c => c.alu (.addi e d a i) e d [.s a] 1 fun c => fnAdd (c.rs a) (sext i)

/-- ANDI (R148): the sign-extended immediate in place of b. -/
def execAndi (e : Bool) (d a : BitVec 5) (i : BitVec 12) (s : State) : Host.Outcome State Fault Refusal :=
  onCtx s fun _ c => c.alu (.andi e d a i) e d [.s a] 1 fun c => fnAnd (c.rs a) (sext i)

/-- ORI (R148): the sign-extended immediate in place of b. -/
def execOri (e : Bool) (d a : BitVec 5) (i : BitVec 12) (s : State) : Host.Outcome State Fault Refusal :=
  onCtx s fun _ c => c.alu (.ori e d a i) e d [.s a] 1 fun c => fnOr (c.rs a) (sext i)

/-- XORI (R148): the sign-extended immediate in place of b. -/
def execXori (e : Bool) (d a : BitVec 5) (i : BitVec 12) (s : State) : Host.Outcome State Fault Refusal :=
  onCtx s fun _ c => c.alu (.xori e d a i) e d [.s a] 1 fun c => fnXor (c.rs a) (sext i)

/-- SLTI (R148): the sign-extended immediate in place of b. -/
def execSlti (e : Bool) (d a : BitVec 5) (i : BitVec 12) (s : State) : Host.Outcome State Fault Refusal :=
  onCtx s fun _ c => c.alu (.slti e d a i) e d [.s a] 1 fun c => fnSlt (c.rs a) (sext i)

/-- SLLI (R148): the shift count is imm12[5:0]. -/
def execSlli (e : Bool) (d a : BitVec 5) (i : BitVec 6) (s : State) : Host.Outcome State Fault Refusal :=
  onCtx s fun _ c => c.alu (.slli e d a i) e d [.s a] 1 fun c => fnSll (c.rs a) (i.setWidth 64)

/-- SRLI (R148): the shift count is imm12[5:0]. -/
def execSrli (e : Bool) (d a : BitVec 5) (i : BitVec 6) (s : State) : Host.Outcome State Fault Refusal :=
  onCtx s fun _ c => c.alu (.srli e d a i) e d [.s a] 1 fun c => fnSrl (c.rs a) (i.setWidth 64)

/-- SRAI (R148): the shift count is imm12[5:0]. -/
def execSrai (e : Bool) (d a : BitVec 5) (i : BitVec 6) (s : State) : Host.Outcome State Fault Refusal :=
  onCtx s fun _ c => c.alu (.srai e d a i) e d [.s a] 1 fun c => fnSra (c.rs a) (i.setWidth 64)

/-- The upper immediate as a 32-bit value, sign-extended (R149). -/
def upper (i : BitVec 20) : U64 := sext (i.setWidth 32 <<< 12)

/-- LIH (R149). -/
def execLih (e : Bool) (d : BitVec 5) (i : BitVec 20) (s : State) : Host.Outcome State Fault Refusal :=
  onCtx s fun _ c => c.alu (.lih e d i) e d [] 1 fun _ => upper i

/-- LIPC (R149): relative to its own address. -/
def execLipc (e : Bool) (d : BitVec 5) (i : BitVec 20) (s : State) : Host.Outcome State Fault Refusal :=
  onCtx s fun _ c => c.alu (.lipc e d i) e d [] 1 fun c => c.issue.pc + upper i

/-- MUL (R150): the low half of the product. -/
def fnMul (x y : U64) : U64 := x * y
/-- MULH (R150): the high half of the signed product. -/
def fnMulh (x y : U64) : U64 := ((x.signExtend 128 * y.signExtend 128).extractLsb' 64 64)
/-- MULHU (R150): the high half of the unsigned product. -/
def fnMulhu (x y : U64) : U64 := ((x.setWidth 128 * y.setWidth 128).extractLsb' 64 64)
/-- DIV (R150): truncating; by zero all ones; the most negative number by -1 gives itself. -/
def fnDiv (x y : U64) : U64 := if y = 0#64 then ~~~0#64 else x.sdiv y
/-- DIVU (R150): by zero all ones. -/
def fnDivu (x y : U64) : U64 := if y = 0#64 then ~~~0#64 else x / y
/-- REM (R150): the sign of the dividend; by zero the dividend. -/
def fnRem (x y : U64) : U64 := if y = 0#64 then x else x.srem y
/-- REMU (R150): by zero the dividend. -/
def fnRemu (x y : U64) : U64 := if y = 0#64 then x else x % y
/-- MULW (R150). -/
def fnMulw (x y : U64) : U64 := sextw (low32 x * low32 y)
/-- DIVW (R150). -/
def fnDivw (x y : U64) : U64 := if low32 y = 0#32 then ~~~0#64 else sextw ((low32 x).sdiv (low32 y))

/-- MUL (R150), latency 3. -/
def execMul (e : Bool) (d a b : BitVec 5) (s : State) : Host.Outcome State Fault Refusal :=
  onCtx s fun _ c => c.alu (.mul e d a b) e d [.s a, .s b] 3 fun c => fnMul (c.rs a) (c.rs b)

/-- MULH (R150), latency 3. -/
def execMulh (e : Bool) (d a b : BitVec 5) (s : State) : Host.Outcome State Fault Refusal :=
  onCtx s fun _ c => c.alu (.mulh e d a b) e d [.s a, .s b] 3 fun c => fnMulh (c.rs a) (c.rs b)

/-- MULHU (R150), latency 3. -/
def execMulhu (e : Bool) (d a b : BitVec 5) (s : State) : Host.Outcome State Fault Refusal :=
  onCtx s fun _ c => c.alu (.mulhu e d a b) e d [.s a, .s b] 3 fun c => fnMulhu (c.rs a) (c.rs b)

/-- MULW (R150), latency 3. -/
def execMulw (e : Bool) (d a b : BitVec 5) (s : State) : Host.Outcome State Fault Refusal :=
  onCtx s fun _ c => c.alu (.mulw e d a b) e d [.s a, .s b] 3 fun c => fnMulw (c.rs a) (c.rs b)

/-- DIV (R150), latency 24. -/
def execDiv (e : Bool) (d a b : BitVec 5) (s : State) : Host.Outcome State Fault Refusal :=
  onCtx s fun _ c => c.alu (.div e d a b) e d [.s a, .s b] 24 fun c => fnDiv (c.rs a) (c.rs b)

/-- DIVU (R150), latency 24. -/
def execDivu (e : Bool) (d a b : BitVec 5) (s : State) : Host.Outcome State Fault Refusal :=
  onCtx s fun _ c => c.alu (.divu e d a b) e d [.s a, .s b] 24 fun c => fnDivu (c.rs a) (c.rs b)

/-- REM (R150), latency 24. -/
def execRem (e : Bool) (d a b : BitVec 5) (s : State) : Host.Outcome State Fault Refusal :=
  onCtx s fun _ c => c.alu (.rem e d a b) e d [.s a, .s b] 24 fun c => fnRem (c.rs a) (c.rs b)

/-- REMU (R150), latency 24. -/
def execRemu (e : Bool) (d a b : BitVec 5) (s : State) : Host.Outcome State Fault Refusal :=
  onCtx s fun _ c => c.alu (.remu e d a b) e d [.s a, .s b] 24 fun c => fnRemu (c.rs a) (c.rs b)

/-- DIVW (R150), latency 24. -/
def execDivw (e : Bool) (d a b : BitVec 5) (s : State) : Host.Outcome State Fault Refusal :=
  onCtx s fun _ c => c.alu (.divw e d a b) e d [.s a, .s b] 24 fun c => fnDivw (c.rs a) (c.rs b)

end Sys2Proof.Machine
end

