-- ==== Sys2Proof/Machine/Dispatch.lean ====
section
/-!
DEFINITION. The dispatcher: one arm for each row of the opcode table.
-/

namespace Sys2Proof.Machine

/-- What an instruction, or an event of the package, does (R26, R135 to R139). -/
def exec (i : Instr) (s : State) : Host.Outcome State Fault Refusal :=
  match i with
  | .add e d a b => Sys2Proof.Machine.execAdd e d a b s
  | .sub e d a b => Sys2Proof.Machine.execSub e d a b s
  | .and e d a b => Sys2Proof.Machine.execAnd e d a b s
  | .or e d a b => Sys2Proof.Machine.execOr e d a b s
  | .xor e d a b => Sys2Proof.Machine.execXor e d a b s
  | .andn e d a b => Sys2Proof.Machine.execAndn e d a b s
  | .sll e d a b => Sys2Proof.Machine.execSll e d a b s
  | .srl e d a b => Sys2Proof.Machine.execSrl e d a b s
  | .sra e d a b => Sys2Proof.Machine.execSra e d a b s
  | .ror e d a b => Sys2Proof.Machine.execRor e d a b s
  | .slt e d a b => Sys2Proof.Machine.execSlt e d a b s
  | .sltu e d a b => Sys2Proof.Machine.execSltu e d a b s
  | .min e d a b => Sys2Proof.Machine.execMin e d a b s
  | .max e d a b => Sys2Proof.Machine.execMax e d a b s
  | .minu e d a b => Sys2Proof.Machine.execMinu e d a b s
  | .maxu e d a b => Sys2Proof.Machine.execMaxu e d a b s
  | .addw e d a b => Sys2Proof.Machine.execAddw e d a b s
  | .subw e d a b => Sys2Proof.Machine.execSubw e d a b s
  | .sllw e d a b => Sys2Proof.Machine.execSllw e d a b s
  | .srlw e d a b => Sys2Proof.Machine.execSrlw e d a b s
  | .sraw e d a b => Sys2Proof.Machine.execSraw e d a b s
  | .clz e d a => Sys2Proof.Machine.execClz e d a s
  | .ctz e d a => Sys2Proof.Machine.execCtz e d a s
  | .popc e d a => Sys2Proof.Machine.execPopc e d a s
  | .sextb e d a => Sys2Proof.Machine.execSextb e d a s
  | .sexth e d a => Sys2Proof.Machine.execSexth e d a s
  | .sextw e d a => Sys2Proof.Machine.execSextw e d a s
  | .zextw e d a => Sys2Proof.Machine.execZextw e d a s
  | .addi e d a imm => Sys2Proof.Machine.execAddi e d a imm s
  | .andi e d a imm => Sys2Proof.Machine.execAndi e d a imm s
  | .ori e d a imm => Sys2Proof.Machine.execOri e d a imm s
  | .xori e d a imm => Sys2Proof.Machine.execXori e d a imm s
  | .slli e d a imm => Sys2Proof.Machine.execSlli e d a imm s
  | .srli e d a imm => Sys2Proof.Machine.execSrli e d a imm s
  | .srai e d a imm => Sys2Proof.Machine.execSrai e d a imm s
  | .slti e d a imm => Sys2Proof.Machine.execSlti e d a imm s
  | .lih e d imm => Sys2Proof.Machine.execLih e d imm s
  | .lipc e d imm => Sys2Proof.Machine.execLipc e d imm s
  | .ldb e d a imm => Sys2Proof.Machine.execLdb e d a imm s
  | .ldh e d a imm => Sys2Proof.Machine.execLdh e d a imm s
  | .ldw e d a imm => Sys2Proof.Machine.execLdw e d a imm s
  | .ldd e d a imm => Sys2Proof.Machine.execLdd e d a imm s
  | .ldbu e d a imm => Sys2Proof.Machine.execLdbu e d a imm s
  | .ldhu e d a imm => Sys2Proof.Machine.execLdhu e d a imm s
  | .ldwu e d a imm => Sys2Proof.Machine.execLdwu e d a imm s
  | .ldacq e d a sc o => Sys2Proof.Machine.execLdacq e d a sc o s
  | .stb e b a imm => Sys2Proof.Machine.execStb e b a imm s
  | .sth e b a imm => Sys2Proof.Machine.execSth e b a imm s
  | .stw e b a imm => Sys2Proof.Machine.execStw e b a imm s
  | .std e b a imm => Sys2Proof.Machine.execStd e b a imm s
  | .strel e b a sc o => Sys2Proof.Machine.execStrel e b a sc o s
  | .aadd e d a b sc o w => Sys2Proof.Machine.execAadd e d a b sc o w s
  | .aand e d a b sc o w => Sys2Proof.Machine.execAand e d a b sc o w s
  | .aor e d a b sc o w => Sys2Proof.Machine.execAor e d a b sc o w s
  | .axor e d a b sc o w => Sys2Proof.Machine.execAxor e d a b sc o w s
  | .amin e d a b sc o w => Sys2Proof.Machine.execAmin e d a b sc o w s
  | .amax e d a b sc o w => Sys2Proof.Machine.execAmax e d a b sc o w s
  | .aminu e d a b sc o w => Sys2Proof.Machine.execAminu e d a b sc o w s
  | .amaxu e d a b sc o w => Sys2Proof.Machine.execAmaxu e d a b sc o w s
  | .aswap e d a b sc o w => Sys2Proof.Machine.execAswap e d a b sc o w s
  | .acas e d a b sc o w => Sys2Proof.Machine.execAcas e d a b sc o w s
  | .ptgt e n o => Sys2Proof.Machine.execPtgt e n o s
  | .ptgtr e n a => Sys2Proof.Machine.execPtgtr e n a s
  | .br e n c sn => Sys2Proof.Machine.execBr e n c sn s
  | .brl e n c sn => Sys2Proof.Machine.execBrl e n c sn s
  | .cmpeq e d a b => Sys2Proof.Machine.execCmpeq e d a b s
  | .cmpne e d a b => Sys2Proof.Machine.execCmpne e d a b s
  | .cmplt e d a b => Sys2Proof.Machine.execCmplt e d a b s
  | .cmpge e d a b => Sys2Proof.Machine.execCmpge e d a b s
  | .cmpltu e d a b => Sys2Proof.Machine.execCmpltu e d a b s
  | .cmpgeu e d a b => Sys2Proof.Machine.execCmpgeu e d a b s
  | .cand e d a b => Sys2Proof.Machine.execCand e d a b s
  | .cor e d a b => Sys2Proof.Machine.execCor e d a b s
  | .cxor e d a b => Sys2Proof.Machine.execCxor e d a b s
  | .cnot e d a => Sys2Proof.Machine.execCnot e d a s
  | .sel e d a b => Sys2Proof.Machine.execSel e d a b s
  | .ctos e d a => Sys2Proof.Machine.execCtos e d a s
  | .loop e a st l => Sys2Proof.Machine.execLoop e a st l s
  | .lbreak e c k => Sys2Proof.Machine.execLbreak e c k s
  | .tstart e => Sys2Proof.Machine.execTstart e s
  | .twait e a imm => Sys2Proof.Machine.execTwait e a imm s
  | .tread e d sl => Sys2Proof.Machine.execTread e d sl s
  | .srd e d r => Sys2Proof.Machine.execSrd e d r s
  | .swr e a r => Sys2Proof.Machine.execSwr e a r s
  | .fence e sc k => Sys2Proof.Machine.execFence e sc k s
  | .trap e imm => Sys2Proof.Machine.execTrap e imm s
  | .rft e => Sys2Proof.Machine.execRft e s
  | .exit e => Sys2Proof.Machine.execExit e s
  | .yield e => Sys2Proof.Machine.execYield e s
  | .waitev e v => Sys2Proof.Machine.execWaitev e v s
  | .qflush e m => Sys2Proof.Machine.execQflush e m s
  | .qsync e m => Sys2Proof.Machine.execQsync e m s
  | .qmark e d q => Sys2Proof.Machine.execQmark e d q s
  | .qdepth e d q => Sys2Proof.Machine.execQdepth e d q s
  | .rcfg e d a imm => Sys2Proof.Machine.execRcfg e d a imm s
  | .waitf e d n => Sys2Proof.Machine.execWaitf e d n s
  | .waite e d n => Sys2Proof.Machine.execWaite e d n s
  | .rclaim e d n => Sys2Proof.Machine.execRclaim e d n s
  | .rpub e d n => Sys2Proof.Machine.execRpub e d n s
  | .rpop e d n => Sys2Proof.Machine.execRpop e d n s
  | .rstat e d m sl cl => Sys2Proof.Machine.execRstat e d m sl cl s
  | .finc e d a sc f => Sys2Proof.Machine.execFinc e d a sc f s
  | .fwait e a sc f => Sys2Proof.Machine.execFwait e a sc f s
  | .fset e a sc f => Sys2Proof.Machine.execFset e a sc f s
  | .fread e d sc f => Sys2Proof.Machine.execFread e d sc f s
  | .bar e a sc f => Sys2Proof.Machine.execBar e a sc f s
  | .admode e m => Sys2Proof.Machine.execAdmode e m s
  | .tapemk e d => Sys2Proof.Machine.execTapemk e d s
  | .tapecut e a => Sys2Proof.Machine.execTapecut e a s
  | .launch e d a q => Sys2Proof.Machine.execLaunch e d a q s
  | .ncommit e => Sys2Proof.Machine.execNcommit e s
  | .mul e d a b => Sys2Proof.Machine.execMul e d a b s
  | .mulh e d a b => Sys2Proof.Machine.execMulh e d a b s
  | .mulhu e d a b => Sys2Proof.Machine.execMulhu e d a b s
  | .div e d a b => Sys2Proof.Machine.execDiv e d a b s
  | .divu e d a b => Sys2Proof.Machine.execDivu e d a b s
  | .rem e d a b => Sys2Proof.Machine.execRem e d a b s
  | .remu e d a b => Sys2Proof.Machine.execRemu e d a b s
  | .mulw e d a b => Sys2Proof.Machine.execMulw e d a b s
  | .divw e d a b => Sys2Proof.Machine.execDivw e d a b s
  | .fmt e a => Sys2Proof.Machine.execFmt e a s
  | .fmtclr e => Sys2Proof.Machine.execFmtclr e s
  | .mld e a sl => Sys2Proof.Machine.execMld e a sl s
  | .mbind e sl cd => Sys2Proof.Machine.execMbind e sl cd s
  | .munbind e cd => Sys2Proof.Machine.execMunbind e cd s
  | .mstat e d sl => Sys2Proof.Machine.execMstat e d sl s
  | .spmark e m => Sys2Proof.Machine.execSpmark e m s
  | .spaccept e a => Sys2Proof.Machine.execSpaccept e a s
  | .spdrop e => Sys2Proof.Machine.execSpdrop e s
  | .vadd h d a b ty => Sys2Proof.Machine.execVadd h d a b ty s
  | .vsub h d a b ty => Sys2Proof.Machine.execVsub h d a b ty s
  | .vmul h d a b ty => Sys2Proof.Machine.execVmul h d a b ty s
  | .vmulh h d a b ty => Sys2Proof.Machine.execVmulh h d a b ty s
  | .vmin h d a b ty => Sys2Proof.Machine.execVmin h d a b ty s
  | .vmax h d a b ty => Sys2Proof.Machine.execVmax h d a b ty s
  | .vabs h d a ty => Sys2Proof.Machine.execVabs h d a ty s
  | .vneg h d a ty => Sys2Proof.Machine.execVneg h d a ty s
  | .vadds h d a b ty => Sys2Proof.Machine.execVadds h d a b ty s
  | .vsubs h d a b ty => Sys2Proof.Machine.execVsubs h d a b ty s
  | .vavg h d a b ty => Sys2Proof.Machine.execVavg h d a b ty s
  | .vmad h d a b ty => Sys2Proof.Machine.execVmad h d a b ty s
  | .vdot4 h d a b ty => Sys2Proof.Machine.execVdot4 h d a b ty s
  | .vfadd h d a b ty rm => Sys2Proof.Machine.execVfadd h d a b ty rm s
  | .vfsub h d a b ty rm => Sys2Proof.Machine.execVfsub h d a b ty rm s
  | .vfmul h d a b ty rm => Sys2Proof.Machine.execVfmul h d a b ty rm s
  | .vfma h d a b ty rm => Sys2Proof.Machine.execVfma h d a b ty rm s
  | .vfmin h d a b ty => Sys2Proof.Machine.execVfmin h d a b ty s
  | .vfmax h d a b ty => Sys2Proof.Machine.execVfmax h d a b ty s
  | .vfabs h d a ty => Sys2Proof.Machine.execVfabs h d a ty s
  | .vfneg h d a ty => Sys2Proof.Machine.execVfneg h d a ty s
  | .vfscl h d a b ty rm => Sys2Proof.Machine.execVfscl h d a b ty rm s
  | .vfclass h d a ty => Sys2Proof.Machine.execVfclass h d a ty s
  | .vcvt h d a ts ty hp rm => Sys2Proof.Machine.execVcvt h d a ts ty hp rm s
  | .vpack h d a b ty => Sys2Proof.Machine.execVpack h d a b ty s
  | .vunpk h d a ty hp => Sys2Proof.Machine.execVunpk h d a ty hp s
  | .vqnt h d a b ty rm => Sys2Proof.Machine.execVqnt h d a b ty rm s
  | .vdqnt h d a b ty => Sys2Proof.Machine.execVdqnt h d a b ty s
  | .vand h d a b ty => Sys2Proof.Machine.execVand h d a b ty s
  | .vor h d a b ty => Sys2Proof.Machine.execVor h d a b ty s
  | .vxor h d a b ty => Sys2Proof.Machine.execVxor h d a b ty s
  | .vlop3 h d a b th tl => Sys2Proof.Machine.execVlop3 h d a b th tl s
  | .vshl h d a b ty => Sys2Proof.Machine.execVshl h d a b ty s
  | .vshr h d a b ty => Sys2Proof.Machine.execVshr h d a b ty s
  | .vsra h d a b ty => Sys2Proof.Machine.execVsra h d a b ty s
  | .vrot h d a b ty => Sys2Proof.Machine.execVrot h d a b ty s
  | .vfunl h d a b ty n => Sys2Proof.Machine.execVfunl h d a b ty n s
  | .vfunr h d a b ty n => Sys2Proof.Machine.execVfunr h d a b ty n s
  | .vpopc h d a ty => Sys2Proof.Machine.execVpopc h d a ty s
  | .vclz h d a ty => Sys2Proof.Machine.execVclz h d a ty s
  | .vcmp h d a b ty op => Sys2Proof.Machine.execVcmp h d a b ty op s
  | .vfcmp h d a b ty op => Sys2Proof.Machine.execVfcmp h d a b ty op s
  | .vsel h d a b ty => Sys2Proof.Machine.execVsel h d a b ty s
  | .vplog h d a b op => Sys2Proof.Machine.execVplog h d a b op s
  | .vvote h d a ty al => Sys2Proof.Machine.execVvote h d a ty al s
  | .vpcnt h d a ty => Sys2Proof.Machine.execVpcnt h d a ty s
  | .vperm h d a b ty => Sys2Proof.Machine.execVperm h d a b ty s
  | .vbcast h d a ty => Sys2Proof.Machine.execVbcast h d a ty s
  | .vlane h d a b ty => Sys2Proof.Machine.execVlane h d a b ty s
  | .vshuf h d a b ty op => Sys2Proof.Machine.execVshuf h d a b ty op s
  | .vred h d a ty op => Sys2Proof.Machine.execVred h d a ty op s
  | .vscan h d a ty op => Sys2Proof.Machine.execVscan h d a ty op s
  | .vidx h d a ty => Sys2Proof.Machine.execVidx h d a ty s
  | .vcell h d ty sl => Sys2Proof.Machine.execVcell h d ty sl s
  | .vld h d a imm => Sys2Proof.Machine.execVld h d a imm s
  | .vst h d a imm => Sys2Proof.Machine.execVst h d a imm s
  | .vlds h d a imm k => Sys2Proof.Machine.execVlds h d a imm k s
  | .vsts h d a imm k => Sys2Proof.Machine.execVsts h d a imm k s
  | .vldx h d a imm k => Sys2Proof.Machine.execVldx h d a imm k s
  | .vstx h d a imm k => Sys2Proof.Machine.execVstx h d a imm k s
  | .vldr h d m ll imm lh => Sys2Proof.Machine.execVldr h d m ll imm lh s
  | .vstr h d m ll lh => Sys2Proof.Machine.execVstr h d m ll lh s
  | .vaadd h d a b ty => Sys2Proof.Machine.execVaadd h d a b ty s
  | .vafadd h d a b ty => Sys2Proof.Machine.execVafadd h d a b ty s
  | .vamin h d a b ty => Sys2Proof.Machine.execVamin h d a b ty s
  | .vamax h d a b ty => Sys2Proof.Machine.execVamax h d a b ty s
  | .vaswap h d a b ty => Sys2Proof.Machine.execVaswap h d a b ty s
  | .vexp2 h d a ty => Sys2Proof.Machine.execVexp2 h d a ty s
  | .vlog2 h d a ty => Sys2Proof.Machine.execVlog2 h d a ty s
  | .vrcp h d a ty => Sys2Proof.Machine.execVrcp h d a ty s
  | .vrsq h d a ty => Sys2Proof.Machine.execVrsq h d a ty s
  | .vtanh h d a ty => Sys2Proof.Machine.execVtanh h d a ty s
  | .vdiv h d a b ty rm => Sys2Proof.Machine.execVdiv h d a b ty rm s
  | .vrnd h d a b ty w => Sys2Proof.Machine.execVrnd h d a b ty w s
  | .vgumb h d a b ty => Sys2Proof.Machine.execVgumb h d a b ty s
  | .vsamp h d a b ty => Sys2Proof.Machine.execVsamp h d a b ty s
  | .mot h cd d a b ep x y => Sys2Proof.Machine.execMot h cd d a b ep x y s
  | .vshift h dr d a eg tg => Sys2Proof.Machine.execVshift h dr d a eg tg s
  | .vxsend h d a tg => Sys2Proof.Machine.execVxsend h d a tg s
  | .vxrecv h dr d tg => Sys2Proof.Machine.execVxrecv h dr d tg s
  | .vbord h dr d tg => Sys2Proof.Machine.execVbord h dr d tg s
  | .vjoin h dr d a => Sys2Proof.Machine.execVjoin h dr d a s
  | .mma h t ra rb n m tr z pa pb => Sys2Proof.Machine.execMma h t ra rb n m tr z pa pb s
  | .mmaq h t ra rb n m tr z pa pb pz => Sys2Proof.Machine.execMmaq h t ra rb n m tr z pa pb pz s
  | .mmab h t ra rb n m tr z pa pb pz => Sys2Proof.Machine.execMmab h t ra rb n m tr z pa pb pz s
  | .mzero h t n => Sys2Proof.Machine.execMzero h t n s
  | .mtov h t d l ty => Sys2Proof.Machine.execMtov h t d l ty s
  | .mtot h t ra n m tr z => Sys2Proof.Machine.execMtot h t ra n m tr z s
  | .cfill h a qc ax => Sys2Proof.Machine.execCfill h a qc ax s
  | .cdrain h a qc ax => Sys2Proof.Machine.execCdrain h a qc ax s
  | .cpair h a qc ax => Sys2Proof.Machine.execCpair h a qc ax s
  | .cgath h a qc ax => Sys2Proof.Machine.execCgath h a qc ax s
  | .ccopy h a qc ax => Sys2Proof.Machine.execCcopy h a qc ax s
  | .cred h a qc ax => Sys2Proof.Machine.execCred h a qc ax s
  | .queueEntryStart p q => Sys2Proof.Machine.execQueueEntryStart p q s
  | .resultWriteback p => Sys2Proof.Machine.execResultWriteback p s
  | .holdTimeout p => Sys2Proof.Machine.execHoldTimeout p s
  | .scalarDataReturn p k => Sys2Proof.Machine.execScalarDataReturn p k s
  | .loopPass p => Sys2Proof.Machine.execLoopPass p s
  | .waitComplete p => Sys2Proof.Machine.execWaitComplete p s
  | .ringFill p cell ring => Sys2Proof.Machine.execRingFill p cell ring s
  | .expressArrival p cell => Sys2Proof.Machine.execExpressArrival p cell s
  | .borderLanding p => Sys2Proof.Machine.execBorderLanding p s
  | .columnJobStart p k => Sys2Proof.Machine.execColumnJobStart p k s
  | .columnChunk p k => Sys2Proof.Machine.execColumnChunk p k s
  | .columnJobRetire p k => Sys2Proof.Machine.execColumnJobRetire p k s
  | .columnJobFault p k => Sys2Proof.Machine.execColumnJobFault p k s
  | .refreshSweep p => Sys2Proof.Machine.execRefreshSweep p s
  | .forcedRefresh p => Sys2Proof.Machine.execForcedRefresh p s
  | .forcedRefreshEnd p => Sys2Proof.Machine.execForcedRefreshEnd p s
  | .handlerFirstPacket p => Sys2Proof.Machine.execHandlerFirstPacket p s
  | .graceWindowExpiry p => Sys2Proof.Machine.execGraceWindowExpiry p s
  | .drainComplete p => Sys2Proof.Machine.execDrainComplete p s
  | .gangSave slot => Sys2Proof.Machine.execGangSave slot s
  | .contextFinish p => Sys2Proof.Machine.execContextFinish p s
  | .motifLoadEnd p => Sys2Proof.Machine.execMotifLoadEnd p s
  | .hostRegisterWrite off size v => Sys2Proof.Machine.execHostRegisterWrite off size v s
  | .kick q v => Sys2Proof.Machine.execKick q v s
  | .deviceEnable => Sys2Proof.Machine.execDeviceEnable s
  | .deviceDisable => Sys2Proof.Machine.execDeviceDisable s
  | .packageReset => Sys2Proof.Machine.execPackageReset s
  | .queueEnable q v => Sys2Proof.Machine.execQueueEnable q v s
  | .queueDisable q v => Sys2Proof.Machine.execQueueDisable q v s
  | .qstatClear q v => Sys2Proof.Machine.execQstatClear q v s
  | .spancfgApply v => Sys2Proof.Machine.execSpancfgApply v s
  | .spanTableApplied => Sys2Proof.Machine.execSpanTableApplied s
  | .queueHeaderRead q => Sys2Proof.Machine.execQueueHeaderRead q s
  | .launchPacket q k => Sys2Proof.Machine.execLaunchPacket q k s
  | .loadPacket q k => Sys2Proof.Machine.execLoadPacket q k s
  | .unloadPacket q k => Sys2Proof.Machine.execUnloadPacket q k s
  | .barrierPacket q k => Sys2Proof.Machine.execBarrierPacket q k s
  | .copyPacket q k => Sys2Proof.Machine.execCopyPacket q k s
  | .signalPacket q k => Sys2Proof.Machine.execSignalPacket q k s
  | .waitvalPacket q k => Sys2Proof.Machine.execWaitvalPacket q k s
  | .waitvalPoll q k => Sys2Proof.Machine.execWaitvalPoll q k s
  | .waitvalTimeout q k => Sys2Proof.Machine.execWaitvalTimeout q k s
  | .bar2Read off n => Sys2Proof.Machine.execBar2Read off n s
  | .bar2Write off data => Sys2Proof.Machine.execBar2Write off data s
  | .bar2Atomic off width op x y => Sys2Proof.Machine.execBar2Atomic off width op x y s
  | .spanFlitReceive link crcOk => Sys2Proof.Machine.execSpanFlitReceive link crcOk s
  | .remoteFincArrival grant f inc => Sys2Proof.Machine.execRemoteFincArrival grant f inc s
  | .spanWriteArrival addr data => Sys2Proof.Machine.execSpanWriteArrival addr data s
  | .spanLinkDown link => Sys2Proof.Machine.execSpanLinkDown link s
  | .matcherEligible k => Sys2Proof.Machine.execMatcherEligible k s
  | .dispatchStart slot => Sys2Proof.Machine.execDispatchStart slot s
  | .dispatchRestore slot => Sys2Proof.Machine.execDispatchRestore slot s
  | .dispatchPreempt slot => Sys2Proof.Machine.execDispatchPreempt slot s
  | .dispatchForce slot => Sys2Proof.Machine.execDispatchForce slot s
  | .dispatchAbort slot => Sys2Proof.Machine.execDispatchAbort slot s
  | .bindComplete slot => Sys2Proof.Machine.execBindComplete slot s
  | .powerCheck => Sys2Proof.Machine.execPowerCheck s
  | .supplyCutEnd island => Sys2Proof.Machine.execSupplyCutEnd island s
  | .pageWalk p k => Sys2Proof.Machine.execPageWalk p k s
  | .noticeReply k => Sys2Proof.Machine.execNoticeReply k s
  | .faultlimExpiry k => Sys2Proof.Machine.execFaultlimExpiry k s
  | .tlbInvalidation => Sys2Proof.Machine.execTlbInvalidation s
  | .thermalSample => Sys2Proof.Machine.execThermalSample s
  | .operatorRequest => Sys2Proof.Machine.execOperatorRequest s
  | .panelScreen p => Sys2Proof.Machine.execPanelScreen p s
  | .captureControlPoll => Sys2Proof.Machine.execCaptureControlPoll s
  | .attest => Sys2Proof.Machine.execAttest s
  | .stage => Sys2Proof.Machine.execStage s
  | .identity => Sys2Proof.Machine.execIdentity s
  | .clearalt => Sys2Proof.Machine.execClearalt s
  | .boot => Sys2Proof.Machine.execBoot s
  | .bootWatchdog => Sys2Proof.Machine.execBootWatchdog s
  | .unassignedEncoding sub w0 w1 => Sys2Proof.Machine.execUnassignedEncoding sub w0 w1 s
  | .writeAppliedToView w view => Sys2Proof.Machine.execWriteAppliedToView w view s
  | .spanLinkTrained link => Sys2Proof.Machine.execSpanLinkTrained link s
  | .spanLinkLost link => Sys2Proof.Machine.execSpanLinkLost link s
  | .mailboxBadop => Sys2Proof.Machine.execMailboxBadop s
  | .doorbellInvalidOp slot => Sys2Proof.Machine.execDoorbellInvalidOp slot s

end Sys2Proof.Machine
end

