-- ==== Sys2Proof/Machine/Cycle.lean ====
section
/-!
DEFINITION. The wall cycle (R5, R14, R34): which agents act in it and in which order. Arrivals land; each bound context decides
whether it is held (R39, R424), starts its engine commands, issues a packet (R24 to R32, R146) and ends its cycle; then the
memory system, the column engines, the readers, dispatch and the steward take their turns.
-/

namespace Sys2Proof.Machine

/-! Events. -/

/-- What an event of the opcode table does: the meaning of the constructor of Instr with its name.
(Log entry 65: DESIGN CHOICE.) -/
def runEv (e : Ev) (s : State) : Host.Outcome State Fault Refusal :=
  match e with
  | .queueEntryStart p q => execQueueEntryStart p q s
  | .resultWriteback p => execResultWriteback p s
  | .holdTimeout p => execHoldTimeout p s
  | .scalarDataReturn p k => execScalarDataReturn p k s
  | .loopPass p => execLoopPass p s
  | .waitComplete p => execWaitComplete p s
  | .ringFill p cell ring => execRingFill p cell ring s
  | .expressArrival p cell => execExpressArrival p cell s
  | .borderLanding p => execBorderLanding p s
  | .columnJobStart p k => execColumnJobStart p k s
  | .columnChunk p k => execColumnChunk p k s
  | .columnJobRetire p k => execColumnJobRetire p k s
  | .columnJobFault p k => execColumnJobFault p k s
  | .refreshSweep p => execRefreshSweep p s
  | .forcedRefresh p => execForcedRefresh p s
  | .forcedRefreshEnd p => execForcedRefreshEnd p s
  | .handlerFirstPacket p => execHandlerFirstPacket p s
  | .graceWindowExpiry p => execGraceWindowExpiry p s
  | .drainComplete p => execDrainComplete p s
  | .gangSave slot => execGangSave slot s
  | .contextFinish p => execContextFinish p s
  | .motifLoadEnd p => execMotifLoadEnd p s
  | .hostRegisterWrite off size v => execHostRegisterWrite off size v s
  | .kick q v => execKick q v s
  | .deviceEnable => execDeviceEnable s
  | .deviceDisable => execDeviceDisable s
  | .packageReset => execPackageReset s
  | .queueEnable q v => execQueueEnable q v s
  | .queueDisable q v => execQueueDisable q v s
  | .qstatClear q v => execQstatClear q v s
  | .spancfgApply v => execSpancfgApply v s
  | .spanTableApplied => execSpanTableApplied s
  | .queueHeaderRead q => execQueueHeaderRead q s
  | .launchPacket q k => execLaunchPacket q k s
  | .loadPacket q k => execLoadPacket q k s
  | .unloadPacket q k => execUnloadPacket q k s
  | .barrierPacket q k => execBarrierPacket q k s
  | .copyPacket q k => execCopyPacket q k s
  | .signalPacket q k => execSignalPacket q k s
  | .waitvalPacket q k => execWaitvalPacket q k s
  | .waitvalPoll q k => execWaitvalPoll q k s
  | .waitvalTimeout q k => execWaitvalTimeout q k s
  | .bar2Read off n => execBar2Read off n s
  | .bar2Write off data => execBar2Write off data s
  | .bar2Atomic off width op x y => execBar2Atomic off width op x y s
  | .spanFlitReceive link crcOk => execSpanFlitReceive link crcOk s
  | .remoteFincArrival grant f inc => execRemoteFincArrival grant f inc s
  | .spanWriteArrival addr data => execSpanWriteArrival addr data s
  | .spanLinkDown link => execSpanLinkDown link s
  | .matcherEligible k => execMatcherEligible k s
  | .dispatchStart slot => execDispatchStart slot s
  | .dispatchRestore slot => execDispatchRestore slot s
  | .dispatchPreempt slot => execDispatchPreempt slot s
  | .dispatchForce slot => execDispatchForce slot s
  | .dispatchAbort slot => execDispatchAbort slot s
  | .bindComplete slot => execBindComplete slot s
  | .powerCheck => execPowerCheck s
  | .supplyCutEnd island => execSupplyCutEnd island s
  | .pageWalk p k => execPageWalk p k s
  | .noticeReply k => execNoticeReply k s
  | .faultlimExpiry k => execFaultlimExpiry k s
  | .tlbInvalidation => execTlbInvalidation s
  | .thermalSample => execThermalSample s
  | .operatorRequest => execOperatorRequest s
  | .panelScreen p => execPanelScreen p s
  | .captureControlPoll => execCaptureControlPoll s
  | .attest => execAttest s
  | .stage => execStage s
  | .identity => execIdentity s
  | .clearalt => execClearalt s
  | .boot => execBoot s
  | .bootWatchdog => execBootWatchdog s
  | .writeAppliedToView w view => execWriteAppliedToView w view s
  | .spanLinkTrained link => execSpanLinkTrained link s
  | .spanLinkLost link => execSpanLinkLost link s
  | .mailboxBadop => execMailboxBadop s
  | .doorbellInvalidOp slot => execDoorbellInvalidOp slot s

/-! Fetching a packet (R24, R128, R146). -/

/-- What a fetch of a word finds. -/
inductive Fetched where
  | word (w : Nat)
  /-- no place that the context may fetch from (R146) -/
  | nowhere
  /-- the word holds an uncorrectable error (R278, R281) -/
  | corrupt
  deriving DecidableEq, Repr

/-- The word at an address: of the loaded TEXT, and in trap context of trap memory (R146). (Log entry 48: DEDUCED.) -/
def Ctx.fetchWord (c : Ctx) (a : U64) : Fetched :=
  let off := (a - 0x00FF000000100000#64).toNat
  if off < 8192 then
    if !c.trap.tctx || off % 4 != 0 then .nowhere
    else if c.badTrapMem.contains (off / 8) then .corrupt
    else .word (Store.num c.trapMem off 4)
  else if !c.code.executable then .nowhere
  else match c.code.word a with | some w => .word w.toNat | none => .nowhere

/-- Word1 of an instruction, 0 for one of a single word. -/
def Ctx.fetchSecond (c : Ctx) (a : U64) (w0 : Nat) : Fetched := if lengthOf w0 = 1 then .word 0 else c.fetchWord (a + 4#64)

/-- The function code of a format of majors 0x09 to 0x0D (R130). -/
def fn3Of (w : Nat) : Nat := w % 8
/-- The op of major 0x07 (R156). -/
def op2Of (w : Nat) : Nat := w / 2 ^ 23 % 4

/-- A word of a branch-class instruction (R25). -/
def branchClass (w : Nat) : Bool :=
  match majorOf w with
  | 0x07 => decide (2 ≤ op2Of w)
  | 0x09 => fn3Of w == 0 || fn3Of w == 1 || fn3Of w == 3
  | 0x0A => decide (3 ≤ fn3Of w)
  | 0x0C => fn3Of w == 1 || fn3Of w == 2
  | 0x0D => fn3Of w == 1 || fn3Of w == 4
  | _ => false

/-- A word that a delay slot of a branch by way of register n must not hold (R29). -/
def slotForbids (n : BitVec 2) (w : Nat) : Bool :=
  match majorOf w with
  | 0x07 => decide (2 ≤ op2Of w) || field w 21 2 == n
  | 0x09 => fn3Of w == 0 || fn3Of w == 2
  | 0x0A => fn3Of w == 3 || fn3Of w == 4 || fn3Of w == 5
  | _ => false

/-- A sequencer trap of the packet that would issue (R24, R29, R146). -/
def Ctx.packetTrap (c : Ctx) (code sub : BitVec 8) (tval : U64) : Ctx :=
  c.raise { code := code, sub := sub, tval := tval, queue := none, pc := c.issue.pc, after := false, access := none, early := false }

/-- A packet's first words, or the trap that keeps it from issuing: code, subcode and TVAL. -/
inductive Packet1 where
  | ok (ws : List Nat)
  | bad (code sub : BitVec 8) (tval : U64)
  deriving DecidableEq, Repr

/-- Read a packet from address a on, with n instructions, b of them branch-class and e engine commands, already read: limits
before anything else (R24, R139, R146). -/
def Ctx.scan (c : Ctx) : Nat → U64 → Nat → Nat → Nat → List Nat → Packet1
  | 0, a, _, _, _, _ => .bad causeIllegal 0x06#8 a
  | fuel + 1, a, n, b, e, ws =>
    if 3 ≤ n then .bad causeIllegal 0x06#8 a
    else
      match c.fetchWord a with
      | .nowhere => .bad causeProtection 0#8 c.issue.pc
      | .corrupt => .bad causeUncorrectable 0#8 (u64 (3 * 2 ^ 62) ||| a)
      | .word w =>
        match c.fetchSecond a w with
        | .nowhere => .bad causeProtection 0#8 c.issue.pc
        | .corrupt => .bad causeUncorrectable 0#8 (u64 (3 * 2 ^ 62) ||| (a + 4#64))
        | .word _ =>
          let b := if branchClass w then b + 1 else b
          let e := if lengthOf w = 2 then e + 1 else e
          if 1 < b ∨ 2 < e then .bad causeIllegal 0x06#8 a
          else if fieldB w 25 then .ok (ws ++ [w])
          else c.scan fuel (a + BitVec.ofNat 64 (4 * lengthOf w)) (n + 1) b e (ws ++ [w])

/-- A delay slot breaks a rule of R29. -/
def Issue.slotBad (s : Issue) (ws : List Nat) : Bool :=
  decide (s.slots ≠ 0) && (ws.any (slotForbids s.breg) || (s.link && !(ws.length == 1 && ws.all fun w => lengthOf w == 1)))

/-- A packet with an instruction for which the whole packet waits is not to issue in this cycle (R247, R253, R254, R258, R270).
(Log entry 68: DEDUCED.) -/
def Ctx.packetStalls (c : Ctx) (v : Env) (ws : List Nat) : Bool :=
  ws.any fun w =>
    match decodeWords w 0 with
    | .ok (.admode _ _) => !c.trap.tctx && (c.vectorBusy || c.revBusy)
    | .ok (.tapemk _ _) | .ok (.tapecut _ _) => c.tapeBusy
    | .ok (.mld _ _ _) => c.motifBusy
    | .ok (.ncommit _) => !c.trap.tctx && (!c.jobsRetired || !c.writesSettled v)
    | _ => false

/-- The packet at pc before its first instruction issues: its limits, its place, and what the whole packet waits for.
(Log entry 47: DEDUCED.) -/
def Ctx.checkPacket (c : Ctx) (v : Env) : Ctx :=
  match c.scan 4 c.issue.pc 0 0 0 [] with
  | .bad code sub t => c.packetTrap code sub t
  | .ok ws =>
    if c.issue.slotBad ws && c.issue.again.isNone then c.packetTrap causeIllegal 0x07#8 c.issue.branch
    else if c.issue.again.isNone && c.packetStalls v ws then c.stall
    else { c with issue := { c.issue with checked := true, packet := c.issue.pc } }

/-! Issue. -/

/-- The sequencer issues nothing more for the context: it has exited or is about to return, or its stop has begun. What stands behind an
RFT in its packet does not issue. (Log entry 106: DESIGN CHOICE.) -/
def Ctx.issueEnded (c : Ctx) : Bool :=
  c.finished || c.issue.exited || c.issue.leaving || c.trap.halted.isSome ||
    !(c.preempt.stop == .none || (c.trap.tctx && c.preempt.stop == .draining))

/-- The sequencer may issue the next instruction in this cycle: a wait keeps back the next packet, and not the rest of its own
(R25, R54). (Log entry 74: DESIGN CHOICE.) -/
def Ctx.issues (c : Ctx) : Bool :=
  !c.issue.closed && (c.issue.wait == .none || c.issue.done != 0) && !c.issueEnded && !c.raised.any (fun r => r.queue.isNone)

/-- A loop pass is to begin before the next packet (R44). -/
def Ctx.atPass (c : Ctx) : Bool := !c.trap.tctx && (match c.loop with | some l => l.pending | none => false)

/-- Issue the instruction of words w0 and w1 at pc (R135 to R139). -/
def issueWords (w0 w1 : Nat) (s : State) : Host.Outcome State Fault Refusal :=
  match decodeWords w0 w1 with
  | .ok i => exec i s
  | .error r => execUnassignedEncoding r.subcode (BitVec.ofNat 32 w0) (BitVec.ofNat 32 (if lengthOf w0 = 1 then 0 else w1)) s

/-- Issue the instruction at pc of the context c of panel p (R26). -/
def issueNext (p : Nat) (c : Ctx) (s : State) : Host.Outcome State Fault Refusal :=
  match c.fetchWord c.issue.pc with
  | .word w0 =>
    match c.fetchSecond c.issue.pc w0 with
    | .word w1 => issueWords w0 w1 { s with cur := p }
    | _ => .next (s.putCtx (c.packetTrap causeProtection 0#8 c.issue.pc))
  | _ => .next (s.putCtx (c.packetTrap causeProtection 0#8 c.issue.pc))

/-- The sequencer of panel p has done what it can in this cycle. -/
def State.doneIssue (s : State) : State := { s with agenda := s.agenda.drop 1 }

/-- One step of the sequencer of panel p; its item stays at the head of the agenda until its cycle's issue has ended. -/
def issuePanel (p : Nat) (s : State) : Host.Outcome State Fault Refusal :=
  match s.ctx? p with
  | none => .next s.doneIssue
  | some c =>
    if !c.issues then .next s.doneIssue
    else if c.atPass then .next { s with agenda := .ev (.loopPass p) :: s.agenda }
    else if c.issue.done = 0 && !c.issue.checked then
      let c1 := c.checkPacket (s.env p)
      if c1.issues then issueNext p c1 (s.putCtx c1) else .next ((s.putCtx c1).doneIssue)
    else issueNext p c s

/-! The cycle of a panel. -/

/-- The context takes no part in the cycle: it has finished, halted or stopped, or waits 16 cycles for a trap or a return (R271,
R277, R287). -/
def Ctx.idle (c : Ctx) (g : Nat) : Bool :=
  c.finished || c.trap.halted.isSome || !(c.preempt.stop == .none || c.preempt.stop == .draining) ||
    (match c.issue.wait with | .until t => decide (g < t) | _ => false)

/-- The island's supply is cut in wall cycle g (R384). -/
def Island.isCut (i : Island) (g : Nat) : Bool := i.cutUntil != 0 && decide (g ≤ i.cutUntil)

/-- The context at the start of an unheld cycle: results that came late are written, and the sequencer may issue (R40, R424). -/
def Ctx.opens (c : Ctx) (g : Nat) : Ctx :=
  let c := (c.unheld).writeDue c.trap.tctx (c.now - 1) g
  { c with issue := { c.issue with closed := false } }

/-- What a panel does in an unheld cycle, up to its end. -/
def Ctx.cycleItems (c : Ctx) (p : Nat) : List Item :=
  (if c.issue.wait == .none then [] else [.ev (.handlerFirstPacket p), .ev (.waitComplete p)]) ++
    (if c.motif.load.isSome then [.ev (.motifLoadEnd p)] else []) ++ c.starters.map (fun q => .ev (.queueEntryStart p q)) ++ [.issue p]

/-- One item of a panel's cycle. -/
def panelItem (i : Item) (s : State) : Host.Outcome State Fault Refusal :=
  match i with
  | .ev e => runEv e s
  | .issue p => issuePanel p { s with agenda := .issue p :: s.agenda }
  | _ => .next s

/-- The package after the items of its agenda, at most so many. -/
def tryItems : Nat → State → State
  | 0, s => s
  | n + 1, s =>
    match s.agenda with
    | [] => s
    | i :: is =>
      match panelItem i { s with agenda := is } with
      | .next t => tryItems n t
      | _ => s

/-- What would come of an unheld cycle of panel p: the queue heads that would hold, and whether a trap would be raised by its end
(R424). -/
def State.foresee (s : State) (c : Ctx) (p : Nat) : List (Nat × Nat) × Bool :=
  let c := c.opens s.gcyc
  match (tryItems 40 { (s.putCtx c) with agenda := c.cycleItems p }).ctx? p with
  | some d => (d.time.heldQ, !(d.endWrites s.gcyc).raised.isEmpty)
  | none => ([], false)

/-- The stop cycle of a trap found before the cycle's packet: the last unheld cycle, or this one during a hold (R152, R424).
(Log entry 15: DEDUCED.) -/
def Ctx.stopCycle (c : Ctx) (g : Nat) : Nat := if c.time.holding = 0#8 then g - 1 else g

/-- A held cycle, and the trap of a hold that has lasted too long (R39, R43). -/
def State.holdPanel (s : State) (c : Ctx) (p : Nat) (bits : BitVec 8) (heads : List (Nat × Nat)) : State :=
  let c := c.heldCycle bits heads
  let s := s.putCtx c
  if c.time.holdmax.toNat < c.time.held then { s with agenda := .ev (.holdTimeout p) :: s.agenda } else s

/-- An unheld cycle of a panel begins. -/
def State.runPanel (s : State) (c : Ctx) (p : Nat) : State :=
  let c := c.opens s.gcyc
  { (s.putCtx c) with agenda := c.cycleItems p ++ .ev (.resultWriteback p) :: s.agenda }

/-- The cycle of panel p begins: a trap of an access, a hold, or an unheld cycle. A cycle in which a hold would begin or go on and
a trap is raised is not held (R424). -/
def State.beginPanel (s : State) (p : Nat) : State :=
  match s.ctx? p with
  | none => s
  | some c =>
    let g := s.gcyc
    if c.idle g then s
    else
      match c.dueFault with
      | some r => s.putCtx ((c.seeError r g).stopFor r (c.stopCycle g))
      | none =>
        let bits := c.holdBits g ((s.island (islandOf p)).isCut g)
        if bits = 0#8 && c.starters.isEmpty then s.runPanel c p
        else
          let r := s.foresee c p
          let bits := bits ||| headBits r.1
          if bits = 0#8 || r.2 then s.runPanel c p else s.holdPanel c p bits r.1

/-! The end of a panel's cycle. -/

/-- The rings of a context with a landing under way: cell and ring. -/
def Ctx.landingRings (c : Ctx) : List (Nat × Nat) :=
  (List.range 16).flatMap fun n =>
    ((List.range 8).filter fun m => ((c.cell n).ring m).fills.any fun f => f.ord.isNone || f.written.isSome).map fun m => (n, m)

/-- What stands at the end of the cycle of panel p: landings in idle banks, and stops (R67, R287). -/
def Ctx.leaveItems (c : Ctx) (p : Nat) : List Item :=
  c.landingRings.map (fun x => .ev (.ringFill p x.1 x.2)) ++
    [.ev (.graceWindowExpiry p), .ev (.drainComplete p), .ev (.contextFinish p)]

/-- The cycle of panel p ends. -/
def State.leavePanel (s : State) (p : Nat) : State :=
  match s.ctx? p with
  | none => s
  | some c =>
    let s := s.empty p
    { s with agenda := c.leaveItems p ++ s.agenda }

/-! The wall cycle. -/

/-- The arrivals at a panel in this cycle, and the refresh that is forced (R77, R223, R226). -/
def Ctx.arrivals (c : Ctx) (s : State) : List Item :=
  let p := c.id.panel
  (if s.borderFlight.any fun x => x.2.1 == p && decide (x.1 ≤ s.gcyc) then [.ev (.borderLanding p)] else []) ++
    ((List.range 16).filter fun n => (c.cell n).send.any fun m => decide (m.arrive ≤ s.gcyc)).map (fun n => .ev (.expressArrival p n)) ++
    (if c.time.refreshUntil = 0 then [] else [.ev (.forcedRefreshEnd p)]) ++ [.ev (.forcedRefresh p)]

/-- Inputs that have come by this cycle. -/
def State.dueInputs (s : State) : List (Nat × Input) := s.inputs.filter fun x => decide (x.1 ≤ s.gcyc)

/-- A sample of the temperatures stands before what the refresh does in the cycle: its FBASE and MARGIN hold in it (R77, R79). -/
def State.sampleItems (s : State) : List Item :=
  if s.bar0.ready && decide (s.fleet.thermalAt ≤ s.gcyc) then [.ev .thermalSample] else []

/-- The next wall cycle begins. (Log entry 4: DESIGN CHOICE.) Messages that wait for one port or ring try it in the order of their senders'
panels and cells, those refused before among them. (Log entry 110: DESIGN CHOICE.) -/
def State.tick (s : State) : State :=
  let fresh (c : Ctx) : Ctx := { c with time := { c.time with taken := c.openBanks, landed := [], moved := [], ran := false } }
  let s := { s with gcyc := s.gcyc + 1, ctxs := s.ctxs.map fresh, net := s.net.filter fun x => decide (2500 * (s.gcyc + 1) < x.2) }
  { s with
    inputs := s.inputs.filter fun x => decide (s.gcyc < x.1)
    agenda := s.dueInputs.map (fun x => .input x.2) ++ s.sampleItems ++ s.ctxs.flatMap (fun c => c.arrivals s) ++
      s.ctxs.flatMap (fun c => [.begin_ c.id.panel, .leave c.id.panel]) ++ [.outside] }

/-! What acts outside the panels. -/

/-- The memory system: walks, and accesses that can be performed (R80, R387). -/
def State.memoryItems (s : State) : List Item :=
  s.ctxs.flatMap fun c =>
    (c.glob.queue.filter fun a => (a.walk == .walking || a.walk == .posting) && decide (a.ready ≤ s.gcyc)).map
        (fun a => .ev (.pageWalk c.id.panel a.id)) ++
      (c.glob.queue.filter fun a => s.accessDue c a).map fun a => .ev (.scalarDataReturn c.id.panel a.id)

/-- Writes that views apply in this cycle (R86). -/
def State.viewItems (s : State) : List Item :=
  s.writes.flatMap fun w =>
    ((List.range 5).filter fun v => !w.isIn v && decide (w.born + Config.viewDelay (8 * w.id + v) ≤ s.gcyc)).map
      fun v => .ev (.writeAppliedToView w.id v)

/-- The events of a column job (R229 to R238). -/
def Job.items (j : Job) (g sh : Nat) : List Item :=
  let p := j.home sh
  if j.fault.isSome then [.ev (.columnJobFault p j.id)]
  else if g < j.ready || j.asksPage then []
  else
    match j.phase with
    | .waiting | .card | .matched => [.ev (.columnJobStart p j.id)]
    | .running => [.ev (.columnChunk p j.id)]
    | .draining | .action => [.ev (.columnJobRetire p j.id)]

/-- The column jobs of the eight sheets. -/
def State.jobItems (s : State) : List Item :=
  (List.range 8).flatMap fun sh => (s.sheet sh).jobs.flatMap fun j => j.items s.gcyc sh

/-- The refresh sweep takes the bank cycles that are left (R76). -/
def State.sweepItems (s : State) : List Item := s.ctxs.map fun c => .ev (.refreshSweep c.id.panel)

/-- The readers that are awake (R360). -/
def State.readerItems (s : State) : List Item :=
  ((List.range 64).filter fun q => (s.queue q).reader != .asleep).map fun q => .ev (.queueHeaderRead q)

/-- The event with which a packet goes on (R365 to R368, R376). -/
def Packet.item (p : Packet) : List Item :=
  let q := p.queue
  let k := p.count.toNat
  if p.arrival.isSome then (if p.posted then [] else [.ev (.matcherEligible p.id)])
  else
    match p.kind with
    | 1 => [.ev (.launchPacket q k)]
    | 2 => [.ev (.loadPacket q k)]
    | 3 => [.ev (.unloadPacket q k)]
    | 4 => [.ev (.barrierPacket q k)]
    | 5 => [.ev (.copyPacket q k)]
    | 6 => [.ev (.signalPacket q k)]
    | 7 => if p.phase == .accepted then [.ev (.waitvalPacket q k)] else [.ev (.waitvalPoll q k), .ev (.waitvalTimeout q k)]
    | _ => []

/-- The packets that have been accepted: those outside the matcher by ascending queue and in the order of acceptance, and then its
entries that are not posted, in arrival order (R376, R377). -/
def State.packetItems (s : State) : List Item :=
  let live := s.packets.filter fun p => p.result.isNone
  let inside := (live.filter fun p => p.arrival.isSome).mergeSort fun x y => decide (x.arrival.getD 0 ≤ y.arrival.getD 0)
  ((List.range 64).flatMap fun q => live.filter fun p => p.arrival.isNone && p.queue == q).flatMap Packet.item ++
    inside.flatMap Packet.item

/-- Notices that are answered or overdue (R396), the span table, and links that stay down (R372, R374). -/
def State.serviceItems (s : State) : List Item :=
  (s.fleet.notices.filter fun n => n.posted && s.stewardRead (noticeAddr n.number + 24) 8 != 0).map (fun n => .ev (.noticeReply n.number)) ++
    (s.fleet.notices.filter fun n => n.posted && !n.expired && decide (n.deadline ≤ s.gcyc)).map (fun n => .ev (.faultlimExpiry n.number)) ++
    (if s.bar0.applying then [.ev .spanTableApplied] else []) ++
    ((List.range 18).filter fun k => match (vget {} s.links k).downSince with
      | some g => decide (g + tenthSecond ≤ s.gcyc)
      | none => false).map fun k => .ev (.spanLinkDown k)

/-- Slots whose tasks load, or are saved (R289, R379, R380). -/
def State.slotItems (s : State) : List Item :=
  (List.range 64).flatMap fun k =>
    let b := s.slot k
    if b.state = slotLoading then [.ev (.bindComplete k)] else if b.state = slotSaving then [.ev (.gangSave k)] else []

/-- Controls that the steward polls every 2 µs, and the mailbox (R395, R417, R421). -/
def State.pollItems (s : State) : List Item :=
  if s.gcyc < s.fleet.pollAt then []
  else
    [.ev .captureControlPoll, .ev .tlbInvalidation] ++
      match s.mailOp with
      | some 1 => [.ev .attest]
      | some 2 => [.ev .stage]
      | some 3 => [.ev .identity]
      | some 4 => [.ev .clearalt]
      | some _ => [.ev .mailboxBadop]
      | none => []

/-- The steward's other work: screens, operator requests, power, temperature and cut slices (R384, R414, R416). -/
def State.stewardItems (s : State) : List Item :=
  ((List.range 256).filter fun p => (s.survey p).toScreen || (s.survey p).state == 2).map (fun p => .ev (.panelScreen p)) ++
    (if s.requestSeq != s.fleet.operatorSeq || s.fleet.operatorWaits.any (fun x => s.unbound x.1) then [.ev .operatorRequest] else []) ++
    ((List.range 64).filter fun k => (s.island k).cutUntil != 0).map (fun k => .ev (.supplyCutEnd k)) ++
    (if s.fleet.powerAt ≤ s.gcyc then [.ev .powerCheck] else [])

/-- An invalidation that waits for accesses goes on in every cycle (R395). -/
def State.invalItems (s : State) : List Item := if s.fleet.inval.isSome then [.ev .tlbInvalidation] else []

/-- What acts outside the panels in this cycle. The steward and dispatch act once boot has finished (R356, R423). -/
def State.outsideItems (s : State) : List Item :=
  s.memoryItems ++ s.viewItems ++ s.jobItems ++ s.sweepItems ++
    (if s.bar0.ready then
      s.serviceItems ++ s.readerItems ++ s.packetItems ++ s.slotItems ++ s.invalItems ++ s.pollItems ++ s.stewardItems
    else if s.boot.running then [.ev .bootWatchdog] else [])

/-- Completion records that can be written (R369). -/
def State.writeRecords (s : State) : State := (s.packets.filter fun p => p.result.isSome).foldl State.completePacket s

/-- What the steward does in a cycle beside the events: errors, completions, gangs, images, links, and its policy (R52, R368, R381,
R412). A package that has halted binds no task (R416). -/
def State.stewardTurn (s : State) : State :=
  let s := (List.range 64).foldl State.watchSlot s.judgeEvents
  let s := (((List.range 64).foldl State.closeTask s.writeRecords).sweepImages).closeLinks
  let s := if s.fleet.thermalAt = s.gcyc + 10 * microsecond then s.updatePage else s
  let s := if s.fleet.pollAt ≤ s.gcyc then { s with fleet := { s.fleet with pollAt := s.gcyc + 2 * microsecond } } else s
  if s.bar0.halt then s else s.policyStep

/-- The turn of all that acts outside the panels. (Log entry 49: DEDUCED.) -/
def State.outsideTurn (s : State) : State :=
  let items := s.outsideItems
  let s := if s.bar0.ready then s.stewardTurn else s
  { s with agenda := s.agenda ++ items }

/-! Inputs. -/

/-- Data that becomes corrupt (R281). -/
def State.spoil (s : State) (i : Input) : State :=
  match i with
  | .corruptLine p n off =>
    s.mapCtx p fun _ c => c.setCell n { (c.cell n) with badLines := lineOf off :: (c.cell n).badLines }
  | .corruptSlot p n slot => s.mapCtx p fun _ c => c.setCell n { (c.cell n) with badSlots := slot :: (c.cell n).badSlots }
  | .corruptScratch p off => s.mapCtx p fun _ c => { c with badScratch := off / 8 :: c.badScratch }
  | .corruptTrapMem p off => s.mapCtx p fun _ c => { c with badTrapMem := off / 8 :: c.badTrapMem }
  | .corruptGlobal a => { s with badHbm := a / 64 :: s.badHbm }
  | .residue p q cell unit => s.mapCtx p fun _ c => { c with eng := { c.eng with residue := c.eng.residue ++ [(q, cell, unit)] } }
  | _ => s

/-- An input of the outside world. (Log entry 43: DESIGN CHOICE.) -/
def State.input (i : Input) (s : State) : Host.Outcome State Fault Refusal :=
  match i with
  | .event e => runEv e s
  | .regRead off size => .next (s.emit (.regData off (s.regRead off size)))
  | .hostStore a xs => .next (s.hostWrite true a xs)
  | .error e => .next (s.noteError e)
  | .refusal k => .next (s.refusal k)
  | .transit link m here => .next (s.transit link m here)
  | .bar2Size n => .next (if 28 ≤ n ∧ n ≤ 39 then { s with bar0 := { s.bar0 with bar2Log := n } } else s)
  | .stepEnd ok code detail => .next (s.endStep ok code detail)
  | i => .next (s.spoil i)

/-! Placing a program. -/

/-- A context bound alone, as a task of one panel, that is about to issue the packet at a base: what a bind leaves (R289), in
the middle of its first cycle. -/
def loneCtx (panel : Nat) (words : List U32) : Ctx :=
  { id := { panel := panel, taskShape := 0#64 }, code := { base := 0x4000000000#64, words := words }
    issue := { pc := 0x4000000000#64, closed := false } }

/-- The package with a context of panel 0 whose TEXT begins with the words of an instruction, and whose sequencer is about to issue
it: as a bind would leave it. -/
def State.withText (s : State) (words : List U32) : State :=
  { s with ctxs := loneCtx 0 words :: s.ctxs.filter (fun c => c.id.panel != 0), agenda := .issue 0 :: .ev (.resultWriteback 0) :: s.agenda }

end Sys2Proof.Machine
end

