-- ==== Sys2Proof/Machine/Step.lean ====
section
/-!
DEFINITION. One step of the package: the next item of its agenda, or the beginning of the next wall cycle.
-/

namespace Sys2Proof.Machine

/-- One step (R5, R14): the head of the agenda acts; with an empty agenda the next wall cycle begins. -/
def step (s : State) : Host.Outcome State Fault Refusal :=
  match s.agenda with
  | [] => .next s.tick
  | .issue p :: _ => issuePanel p s
  | .ev e :: rest => runEv e { s with agenda := rest }
  | .begin_ p :: rest => .next (State.beginPanel { s with agenda := rest } p)
  | .leave p :: rest => .next (State.leavePanel { s with agenda := rest } p)
  | .input i :: rest => State.input i { s with agenda := rest }
  | .outside :: rest => .next (State.outsideTurn { s with agenda := rest })

/-- The state with an instruction where the next step fetches: a context is bound to panel 0 whose TEXT begins with the words of the
instruction, and its sequencer is the next to act. (Log entry 6: DEDUCED.) -/
def State.withFetchWord (s : State) (nbits w : Nat) : State :=
  let v := w % 2 ^ nbits
  s.withText [BitVec.ofNat 32 v, BitVec.ofNat 32 (v / 2 ^ 32), 0x02000000#32, 0x02000000#32, 0x02000000#32]

end Sys2Proof.Machine
end

