-- ==== Sys2Proof/WellFormed.lean ====
section
/-!
DEFINITION. Which terms are instructions a program may hold: the forms of R135, as opposed to the steps of the package,
that pass the checks that look at the instruction alone (R137 to R139, R28).
-/

namespace Sys2Proof

/-- An instruction of R135: it has an encoding. -/
def Instr.isForm (i : Instr) : Bool := !(encode i).isEmpty

/-- The E bit of a form (R128). -/
def Instr.e (i : Instr) : Bool := match encode i with | w0 :: _ => fieldB w0 25 | [] => true

/-- BR and BRL must end their packet (R28). -/
def Instr.branchEnds (i : Instr) : Bool :=
  match i with
  | .br e _ _ _ => e
  | .brl e _ _ _ => e
  | _ => true

/-- A form whose fields hold values that the form's own checks accept. -/
def Instr.wellFormed (i : Instr) : Bool := i.isForm && i.staticFault.isNone && i.branchEnds

end Sys2Proof
end

