-- ==== Sys2Proof/Certificates/Slice0/Obligations.lean ====
section
/-!
DEFINITION. The statements for the provers, with the words they are stated in: what each form computes, written from the
rules of the spec and not from the meanings.
-/

namespace Sys2Proof.Claims

open Sys2Proof.Machine

/-! What the statements speak of. -/

/-- c is the context of the panel whose instruction executes. -/
def Runs (s : State) (c : Ctx) : Prop := s.ctx? s.cur = some c

/-- An instruction may read these values: none is owed by an access that is late (R40, R424), and with DEBUGCTL.PEND none is
pending (R283). -/
def Reads (c : Ctx) (rs : List Ref) : Prop := c.late rs = false ∧ c.early rs = none

/-- The landing record of one more result, or none, has room (R273). -/
def Room (c : Ctx) (d : Reg) : Prop := d = 0#5 ∨ c.inFlight < 48

/-- The context with a result for sd of a latency, captured now; a result for s0 is discarded (R18, R26). -/
def lands (c : Ctx) (d : Reg) (x : U64) (lat : Nat) : Ctx :=
  if d = 0#5 then c
  else { c with landings := c.landings ++ [⟨c.ord, .seq, c.now + lat - 1, c.trap.tctx, .s d x, .zero⟩] }

/-- One as 64 bits, or zero. -/
def flag64 (p : Prop) [Decidable p] : U64 := if p then 1#64 else 0#64

/-- The low half of a scalar, sign-extended. -/
def half (x : BitVec 32) : U64 := x.signExtend 64

/-- The low half of a scalar. -/
def lowHalf (x : U64) : BitVec 32 := x.setWidth 32

/-! Decoding. -/

/-- The decoder's answer for the words of an encoding. -/
def decodesTo (ws : List Nat) (i : Instr) : Prop :=
  match ws with
  | [w0] => ∀ x, decodeWords w0 x = .ok i
  | [w0, w1] => decodeWords w0 w1 = .ok i
  | _ => False

/-- The code fields of R135 that do not use every value: major, lowest bit and width of the field, number of forms. -/
def codeFields : List (Nat × Nat × Nat × Nat) :=
  [(0x00, 0, 10, 28), (0x05, 0, 3, 5), (0x06, 6, 4, 10), (0x08, 0, 10, 12), (0x09, 0, 3, 5), (0x0B, 0, 3, 4), (0x0C, 0, 3, 7),
   (0x0D, 0, 3, 5), (0x0E, 0, 3, 3), (0x0F, 0, 3, 2), (0x10, 0, 10, 9), (0x11, 0, 3, 2), (0x12, 0, 3, 4), (0x13, 0, 3, 3),
   (0x30, 4, 6, 13), (0x31, 4, 6, 10), (0x32, 4, 6, 5), (0x33, 4, 6, 12), (0x34, 4, 6, 6), (0x35, 4, 6, 8), (0x37, 4, 6, 5),
   (0x38, 4, 6, 9), (0x3A, 22, 3, 5), (0x3B, 22, 3, 6), (0x3C, 22, 3, 6)]

/-- The words at pc; a word of an instruction of one word has no second. -/
def Words (c : Ctx) (w0 w1 : Nat) : Prop :=
  c.fetchWord c.issue.pc = .word w0 ∧ (lengthOf w0 = 2 → c.fetchWord (c.issue.pc + 4#64) = .word w1) ∧ (lengthOf w0 = 1 → w1 = 0)

/-- The sequencer of panel p is the next to act, and issues the instruction at the pc of the context c1 in the package u: it may
issue, and stands at no loop pass. Before the first instruction of a packet its packet's limits are checked (R24, R139), and
leave the context c1. -/
def Issuing (s : State) (p : Nat) (u : State) (c1 : Ctx) : Prop :=
  ∃ (rest : List Item) (c : Ctx), s.agenda = .issue p :: rest ∧ s.ctx? p = some c ∧ c.issues = true ∧ c.atPass = false ∧
    if c.issue.done = 0 ∧ c.issue.checked = false then
      c1 = c.checkPacket (s.env p) ∧ c1.issues = true ∧ u = { s.putCtx c1 with cur := p }
    else c1 = c ∧ u = { s with cur := p }

/-- The majors of R135 that have no form. -/
def reservedMajor (m : Nat) : Prop := 0x14 ≤ m ∧ m < 0x30 ∨ 0x3D ≤ m

end Sys2Proof.Claims

open Sys2Proof Sys2Proof.Machine Sys2Proof.Claims

/-! Encoding (R128 to R138). -/

/-- R128 to R133, R135, R137: every well-formed instruction decodes from its own words, every operand at every value its
field allows. -/
def Obligations.EncodedInstructionDecodesBack : Prop :=
  ∀ i : Instr, i.wellFormed = true → decodesTo (encode i) i

/-- R128, R137: words that decode are exactly the encoding of what they decode to, so that no two encodings share a
meaning and no bit of a word is ignored. -/
def Obligations.DecodedWordsEncodeBack : Prop :=
  ∀ (w0 w1 : Nat) (i : Instr), w0 < 2 ^ 32 → w1 < 2 ^ 32 → decodeWords w0 w1 = .ok i →
    encode i = if lengthOf w0 = 1 then [w0] else [w0, w1]

/-- R134: the words of the spec's assembled example decode to the instructions it lists: TSTART || VLD v1, [s9+0] :2;
ADDI s8, s8, 1 || ADD s10, s8, s0; VFMUL.F32 v2, v1, v3 :7; PTGT b1, 7 words back; BR b1, c2; ADD s0, s0, s0. -/
def Obligations.DecoderReadsSpecExample : Prop :=
  decodeWords 0x24000002 0 = .ok (.tstart false) ∧
  decodeWords 0xDA148000 0x00020000 = .ok (.vld ⟨true, 2#16, 0#5, false, 0#5⟩ 1#5 9#5 0#12) ∧
  decodeWords 0x04840008 0 = .ok (.addi false 8#5 8#5 1#12) ∧
  decodeWords 0x02A40000 0 = .ok (.add true 10#5 8#5 0#5) ∧
  decodeWords 0xC6208C28 0x00070007 = .ok (.vfmul ⟨true, 7#16, 0#5, false, 0#5⟩ 2#5 1#5 3#5 8#4 7#3) ∧
  decodeWords 0x1E3FFFF9 0 = .ok (.ptgt true 1#2 0x1FFFF9#21) ∧
  decodeWords 0x1F2A0000 0 = .ok (.br true 1#2 2#3 true) ∧
  decodeWords 0x02000000 0 = .ok (.add true 0#5 0#5 0#5)

/-- R135, R138: a reserved major is no instruction, and a value of a major's code field that names no form is none either: with
the number of forms of every major whose field has room for more. The subcodes of ILLEGAL are 0x01, 0x02, and 0x03 for a
reserved field. A step that would issue words that are no instruction runs their row with the subcode, and it raises ILLEGAL, precise
at them, with the subcode and the words in TVAL, and with no other effect. -/
def Obligations.UnassignedEncodingsAreRefused : Prop :=
  (∀ w0 w1, reservedMajor (majorOf w0) → decodeWords w0 w1 = .error .reservedMajor) ∧
  (∀ r ∈ codeFields, ∀ w0 w1, majorOf w0 = r.1 → r.2.2.2 ≤ w0 / 2 ^ r.2.1 % 2 ^ r.2.2.1 →
    decodeWords w0 w1 = .error .unassignedFunction) ∧
  DecodeError.reservedMajor.subcode = 0x01#8 ∧ DecodeError.unassignedFunction.subcode = 0x02#8 ∧
  DecodeError.reservedField.subcode = 0x03#8 ∧
  (∀ (s u : State) (p : Nat) (c : Ctx) (w0 w1 : Nat) (err : DecodeError), Issuing s p u c → Words c w0 w1 →
    decodeWords w0 w1 = .error err →
    step s = exec (.unassignedEncoding err.subcode (BitVec.ofNat 32 w0) (BitVec.ofNat 32 w1)) u ∧ Runs u c) ∧
  (∀ (s : State) (c : Ctx) (sub : BitVec 8) (w0 w1 : BitVec 32), Runs s c →
    ∃ t c', exec (.unassignedEncoding sub w0 w1) s = .next t ∧ Runs t c' ∧
      c'.raised = c.raised ++ [⟨0x01#8, sub, BitVec.ofNat 64 (w0.toNat + 2 ^ 32 * w1.toNat), none, c.issue.trapPc, false, none, false⟩] ∧
      c'.issue.closed = true ∧ c'.issue.pc = c.issue.pc ∧ c'.landings = c.landings ∧
      c'.eng = c.eng ∧ c'.norm = c.norm ∧ c'.cells = c.cells ∧ t.hbm = s.hbm)

/-! Fetch and the step (R26, R128, R146). -/

namespace Sys2Proof.Claims

/-- The words at pc are those of i. -/
def Holds (c : Ctx) (i : Instr) : Prop := ∃ w0 w1, Words c w0 w1 ∧ decodeWords w0 w1 = .ok i

/-- An event of the agenda, and the row of the opcode table whose meaning it has. -/
def names (e : Ev) (i : Instr) : Prop :=
  match e with
  | .queueEntryStart p q => i = .queueEntryStart p q
  | .resultWriteback p => i = .resultWriteback p
  | .holdTimeout p => i = .holdTimeout p
  | .scalarDataReturn p k => i = .scalarDataReturn p k
  | .loopPass p => i = .loopPass p
  | .waitComplete p => i = .waitComplete p
  | .ringFill p cell ring => i = .ringFill p cell ring
  | .expressArrival p cell => i = .expressArrival p cell
  | .borderLanding p => i = .borderLanding p
  | .columnJobStart p k => i = .columnJobStart p k
  | .columnChunk p k => i = .columnChunk p k
  | .columnJobRetire p k => i = .columnJobRetire p k
  | .columnJobFault p k => i = .columnJobFault p k
  | .refreshSweep p => i = .refreshSweep p
  | .forcedRefresh p => i = .forcedRefresh p
  | .forcedRefreshEnd p => i = .forcedRefreshEnd p
  | .handlerFirstPacket p => i = .handlerFirstPacket p
  | .graceWindowExpiry p => i = .graceWindowExpiry p
  | .drainComplete p => i = .drainComplete p
  | .gangSave slot => i = .gangSave slot
  | .contextFinish p => i = .contextFinish p
  | .motifLoadEnd p => i = .motifLoadEnd p
  | .hostRegisterWrite off size v => i = .hostRegisterWrite off size v
  | .kick q v => i = .kick q v
  | .deviceEnable => i = .deviceEnable
  | .deviceDisable => i = .deviceDisable
  | .packageReset => i = .packageReset
  | .queueEnable q v => i = .queueEnable q v
  | .queueDisable q v => i = .queueDisable q v
  | .qstatClear q v => i = .qstatClear q v
  | .spancfgApply v => i = .spancfgApply v
  | .spanTableApplied => i = .spanTableApplied
  | .queueHeaderRead q => i = .queueHeaderRead q
  | .launchPacket q k => i = .launchPacket q k
  | .loadPacket q k => i = .loadPacket q k
  | .unloadPacket q k => i = .unloadPacket q k
  | .barrierPacket q k => i = .barrierPacket q k
  | .copyPacket q k => i = .copyPacket q k
  | .signalPacket q k => i = .signalPacket q k
  | .waitvalPacket q k => i = .waitvalPacket q k
  | .waitvalPoll q k => i = .waitvalPoll q k
  | .waitvalTimeout q k => i = .waitvalTimeout q k
  | .bar2Read off n => i = .bar2Read off n
  | .bar2Write off data => i = .bar2Write off data
  | .bar2Atomic off width op x y => i = .bar2Atomic off width op x y
  | .spanFlitReceive link crcOk => i = .spanFlitReceive link crcOk
  | .remoteFincArrival grant f inc => i = .remoteFincArrival grant f inc
  | .spanWriteArrival addr data => i = .spanWriteArrival addr data
  | .spanLinkDown link => i = .spanLinkDown link
  | .matcherEligible k => i = .matcherEligible k
  | .dispatchStart slot => i = .dispatchStart slot
  | .dispatchRestore slot => i = .dispatchRestore slot
  | .dispatchPreempt slot => i = .dispatchPreempt slot
  | .dispatchForce slot => i = .dispatchForce slot
  | .dispatchAbort slot => i = .dispatchAbort slot
  | .bindComplete slot => i = .bindComplete slot
  | .powerCheck => i = .powerCheck
  | .supplyCutEnd island => i = .supplyCutEnd island
  | .pageWalk p k => i = .pageWalk p k
  | .noticeReply k => i = .noticeReply k
  | .faultlimExpiry k => i = .faultlimExpiry k
  | .tlbInvalidation => i = .tlbInvalidation
  | .thermalSample => i = .thermalSample
  | .operatorRequest => i = .operatorRequest
  | .panelScreen p => i = .panelScreen p
  | .captureControlPoll => i = .captureControlPoll
  | .attest => i = .attest
  | .stage => i = .stage
  | .identity => i = .identity
  | .clearalt => i = .clearalt
  | .boot => i = .boot
  | .bootWatchdog => i = .bootWatchdog
  | .writeAppliedToView w view => i = .writeAppliedToView w view
  | .spanLinkTrained link => i = .spanLinkTrained link
  | .spanLinkLost link => i = .spanLinkLost link
  | .mailboxBadop => i = .mailboxBadop
  | .doorbellInvalidOp slot => i = .doorbellInvalidOp slot

end Sys2Proof.Claims

/-- A step runs the decoded instruction: when the sequencer of panel p is next to act and issues, and the words at its pc are those of
i, the step is exec of i for that panel. -/
def Obligations.StepRunsDecodedInstruction : Prop :=
  ∀ (s u : State) (p : Nat) (c : Ctx) (i : Instr), Issuing s p u c → Holds c i → step s = exec i u ∧ Runs u c

/-- A step runs an event: when an event stands at the head of the agenda, the step is exec of the row of the opcode table with
its name, once the event is taken off. R38: with nothing left to do in a wall cycle GCYC counts, and the next one begins. What the next one
begins with, the turns of the bound panels among it, is the model's choice (log entry 4: DESIGN CHOICE). -/
def Obligations.StepRunsEventsAndCycles : Prop :=
  (∀ (s : State) (e : Ev) (rest : List Item) (i : Instr), s.agenda = .ev e :: rest → names e i →
    step s = exec i { s with agenda := rest }) ∧
  (∀ s : State, s.agenda = [] → ∃ t, step s = .next t ∧ t.gcyc = s.gcyc + 1 ∧ t.hbm = s.hbm ∧ t.hostMem = s.hostMem ∧
    t.ctxs.map (fun c => c.id.panel) = s.ctxs.map (fun c => c.id.panel) ∧
    ∀ c ∈ s.ctxs, Item.begin_ c.id.panel ∈ t.agenda ∧ Item.leave c.id.panel ∈ t.agenda)

/-- R128, R146: an instruction placed where the next step fetches is fetched and run by it, as the first after reset: exec of it
for a context of panel 0 in which nothing has happened yet. How a program comes to stand there is log entry 6 (DEDUCED). -/
def Obligations.FirstStepRunsPlacedInstruction : Prop :=
  ∀ (w0 w1 : Nat) (i : Instr), w0 < 2 ^ 32 → w1 < 2 ^ 32 → (lengthOf w0 = 1 → w1 = 0) → decodeWords w0 w1 = .ok i →
    ∃ u c, step (State.reset.withFetchWord (32 * lengthOf w0) (w0 + 2 ^ 32 * w1)) = exec i u ∧ Runs u c ∧
      c.issue.pc = 0x4000000000#64 ∧ c.norm = {} ∧ c.landings = [] ∧ c.cells = Vector.replicate 16 {} ∧ u.hbm = State.reset.hbm

/-! Integer arithmetic of the sequencer (R147 to R150). -/

namespace Sys2Proof.Claims

/-- R147: the result of a form of major 0x00, with its E bit, destination and sources. -/
def arithmetic (c : Ctx) : Instr → Option (Bool × Reg × List Ref × U64)
  | .add e d a b => some (e, d, [.s a, .s b], c.rs a + c.rs b)
  | .sub e d a b => some (e, d, [.s a, .s b], c.rs a - c.rs b)
  | .and e d a b => some (e, d, [.s a, .s b], c.rs a &&& c.rs b)
  | .or e d a b => some (e, d, [.s a, .s b], c.rs a ||| c.rs b)
  | .xor e d a b => some (e, d, [.s a, .s b], c.rs a ^^^ c.rs b)
  | .andn e d a b => some (e, d, [.s a, .s b], c.rs a &&& ~~~(c.rs b))
  | .sll e d a b => some (e, d, [.s a, .s b], BitVec.ofNat 64 ((c.rs a).toNat * 2 ^ ((c.rs b).toNat % 64)))
  | .srl e d a b => some (e, d, [.s a, .s b], BitVec.ofNat 64 ((c.rs a).toNat / 2 ^ ((c.rs b).toNat % 64)))
  | .sra e d a b => some (e, d, [.s a, .s b], BitVec.ofInt 64 ((c.rs a).toInt / (2 ^ ((c.rs b).toNat % 64) : Nat)))
  | .ror e d a b => some (e, d, [.s a, .s b],
      (c.rs a >>> ((c.rs b).toNat % 64)) ||| (c.rs a <<< (64 - (c.rs b).toNat % 64)))
  | .slt e d a b => some (e, d, [.s a, .s b], flag64 ((c.rs a).toInt < (c.rs b).toInt))
  | .sltu e d a b => some (e, d, [.s a, .s b], flag64 ((c.rs a).toNat < (c.rs b).toNat))
  | .min e d a b => some (e, d, [.s a, .s b], if (c.rs a).toInt ≤ (c.rs b).toInt then c.rs a else c.rs b)
  | .max e d a b => some (e, d, [.s a, .s b], if (c.rs a).toInt ≤ (c.rs b).toInt then c.rs b else c.rs a)
  | .minu e d a b => some (e, d, [.s a, .s b], if (c.rs a).toNat ≤ (c.rs b).toNat then c.rs a else c.rs b)
  | .maxu e d a b => some (e, d, [.s a, .s b], if (c.rs a).toNat ≤ (c.rs b).toNat then c.rs b else c.rs a)
  | .addw e d a b => some (e, d, [.s a, .s b], half (lowHalf (c.rs a) + lowHalf (c.rs b)))
  | .subw e d a b => some (e, d, [.s a, .s b], half (lowHalf (c.rs a) - lowHalf (c.rs b)))
  | .sllw e d a b => some (e, d, [.s a, .s b],
      half (BitVec.ofNat 32 ((c.rs a).toNat % 2 ^ 32 * 2 ^ ((c.rs b).toNat % 32))))
  | .srlw e d a b => some (e, d, [.s a, .s b],
      half (BitVec.ofNat 32 ((c.rs a).toNat % 2 ^ 32 / 2 ^ ((c.rs b).toNat % 32))))
  | .sraw e d a b => some (e, d, [.s a, .s b],
      BitVec.ofInt 64 ((lowHalf (c.rs a)).toInt / (2 ^ ((c.rs b).toNat % 32) : Nat)))
  | .clz e d a => some (e, d, [.s a], (c.rs a).clz)
  | .ctz e d a => some (e, d, [.s a], (c.rs a).ctz)
  | .popc e d a => some (e, d, [.s a], (c.rs a).cpop)
  | .sextb e d a => some (e, d, [.s a], ((c.rs a).setWidth 8).signExtend 64)
  | .sexth e d a => some (e, d, [.s a], ((c.rs a).setWidth 16).signExtend 64)
  | .sextw e d a => some (e, d, [.s a], half (lowHalf (c.rs a)))
  | .zextw e d a => some (e, d, [.s a], (lowHalf (c.rs a)).setWidth 64)
  | _ => none

/-- R148, R149: the result of a form with an immediate. -/
def immediate (c : Ctx) : Instr → Option (Bool × Reg × List Ref × U64)
  | .addi e d a i => some (e, d, [.s a], c.rs a + i.signExtend 64)
  | .andi e d a i => some (e, d, [.s a], c.rs a &&& i.signExtend 64)
  | .ori e d a i => some (e, d, [.s a], c.rs a ||| i.signExtend 64)
  | .xori e d a i => some (e, d, [.s a], c.rs a ^^^ i.signExtend 64)
  | .slli e d a i => some (e, d, [.s a], BitVec.ofNat 64 ((c.rs a).toNat * 2 ^ i.toNat))
  | .srli e d a i => some (e, d, [.s a], BitVec.ofNat 64 ((c.rs a).toNat / 2 ^ i.toNat))
  | .srai e d a i => some (e, d, [.s a], BitVec.ofInt 64 ((c.rs a).toInt / (2 ^ i.toNat : Nat)))
  | .slti e d a i => some (e, d, [.s a], flag64 ((c.rs a).toInt < i.toInt))
  | .lih e d i => some (e, d, [], (BitVec.ofNat 32 (i.toNat * 4096)).signExtend 64)
  | .lipc e d i => some (e, d, [], c.issue.pc + (BitVec.ofNat 32 (i.toNat * 4096)).signExtend 64)
  | _ => none

/-- R150: the result of a form of major 0x10, with its latency. -/
def product (c : Ctx) : Instr → Option (Bool × Reg × List Ref × Nat × U64)
  | .mul e d a b => some (e, d, [.s a, .s b], 3, BitVec.ofNat 64 ((c.rs a).toNat * (c.rs b).toNat))
  | .mulh e d a b => some (e, d, [.s a, .s b], 3, BitVec.ofInt 64 ((c.rs a).toInt * (c.rs b).toInt / (2 ^ 64 : Nat)))
  | .mulhu e d a b => some (e, d, [.s a, .s b], 3, BitVec.ofNat 64 ((c.rs a).toNat * (c.rs b).toNat / 2 ^ 64))
  | .div e d a b => some (e, d, [.s a, .s b], 24,
      if c.rs b = 0#64 then BitVec.ofInt 64 (-1) else BitVec.ofInt 64 ((c.rs a).toInt.tdiv (c.rs b).toInt))
  | .divu e d a b => some (e, d, [.s a, .s b], 24,
      if c.rs b = 0#64 then BitVec.ofInt 64 (-1) else BitVec.ofNat 64 ((c.rs a).toNat / (c.rs b).toNat))
  | .rem e d a b => some (e, d, [.s a, .s b], 24,
      if c.rs b = 0#64 then c.rs a else BitVec.ofInt 64 ((c.rs a).toInt.tmod (c.rs b).toInt))
  | .remu e d a b => some (e, d, [.s a, .s b], 24,
      if c.rs b = 0#64 then c.rs a else BitVec.ofNat 64 ((c.rs a).toNat % (c.rs b).toNat))
  | .mulw e d a b => some (e, d, [.s a, .s b], 3, half (BitVec.ofNat 32 ((lowHalf (c.rs a)).toNat * (lowHalf (c.rs b)).toNat)))
  | .divw e d a b => some (e, d, [.s a, .s b], 24,
      if lowHalf (c.rs b) = 0#32 then BitVec.ofInt 64 (-1)
      else half (BitVec.ofInt 32 ((lowHalf (c.rs a)).toInt.tdiv (lowHalf (c.rs b)).toInt)))
  | _ => none

end Sys2Proof.Claims

/-- R147: a form of major 0x00 completes, and its result is due for sd at the end of its own cycle, latency 1; with s0 as its
destination nothing is written. An unassigned code and a nonzero b of a form with one source are no instruction. -/
def Obligations.ArithmeticWritesItsResult : Prop :=
  (∀ (s : State) (c : Ctx) (i : Instr) (e : Bool) (d : Reg) (rs : List Ref) (x : U64),
    Runs s c → arithmetic c i = some (e, d, rs, x) → Reads c rs → Room c d →
    exec i s = .next (s.putCtx ((lands c d x 1).advance e 1))) ∧
  (∀ w, majorOf w = 0x00 → 28 ≤ w % 1024 → decodeWords w 0 = .error .unassignedFunction) ∧
  (∀ w, majorOf w = 0x00 → 21 ≤ w % 1024 → w % 1024 ≤ 27 → w / 1024 % 32 ≠ 0 → decodeWords w 0 = .error .reservedField)

/-- R148, R149: a form with an immediate completes with its result due for sd, latency 1; a shift count of more than six bits is
no instruction. -/
def Obligations.ImmediateFormsWriteTheirResults : Prop :=
  (∀ (s : State) (c : Ctx) (i : Instr) (e : Bool) (d : Reg) (rs : List Ref) (x : U64),
    Runs s c → immediate c i = some (e, d, rs, x) → Reads c rs → Room c d →
    exec i s = .next (s.putCtx ((lands c d x 1).advance e 1))) ∧
  (∀ w, majorOf w = 0x01 → 4 ≤ w % 8 → w % 8 ≤ 6 → w / 512 % 64 ≠ 0 → decodeWords w 0 = .error .reservedField)

/-- R150: products and quotients, with their latencies and the values for a divisor of zero; the most negative number divided by
-1 gives itself and remainder 0. -/
def Obligations.ProductsAndQuotients : Prop :=
  (∀ (s : State) (c : Ctx) (i : Instr) (e : Bool) (d : Reg) (rs : List Ref) (lat : Nat) (x : U64),
    Runs s c → product c i = some (e, d, rs, lat, x) → Reads c rs → Room c d →
    exec i s = .next (s.putCtx ((lands c d x lat).advance e 1))) ∧
  (∀ w, majorOf w = 0x10 → 9 ≤ w % 1024 → decodeWords w 0 = .error .unassignedFunction) ∧
  fnDiv (BitVec.intMin 64) (BitVec.ofInt 64 (-1)) = BitVec.intMin 64 ∧ fnRem (BitVec.intMin 64) (BitVec.ofInt 64 (-1)) = 0#64

/-! Results (R18, R26). -/

/-- R18, R26: the end of a cycle writes what falls due. After an instruction of latency 1 whose destination is no s0, when
nothing else of the panel is due or under way, RESULT_WRITEBACK leaves its result in sd and every other scalar, every branch
target and condition, every cell, scratch and trap memory as they were, and the next cycle of panel time has come; and of two results
due for one register the later in program order is kept. -/
def Obligations.WritebackWritesOneRegister : Prop :=
  (∀ (s : State) (c : Ctx) (p : Nat) (d : Reg) (x : U64),
    s.ctx? p = some c → c.landings = [⟨c.ord, .seq, c.time.ptime, false, .s d x, .zero⟩] → d ≠ 0#5 → c.trap.tctx = false →
    c.towerOps = [] → c.windows = [] → c.flights = [] → c.raised = [] → c.issue.leaving = false → c.glob.queue = [] →
    ∃ t c', exec (.resultWriteback p) s = .next t ∧ t.ctx? p = some c' ∧ c'.rs d = x ∧ (∀ r, r ≠ d → c'.rs r = c.rs r) ∧
      c'.norm.b = c.norm.b ∧ c'.norm.c = c.norm.c ∧ c'.trapBank = c.trapBank ∧ c'.cells = c.cells ∧ c'.scratch = c.scratch ∧
      c'.trapMem = c.trapMem ∧ c'.landings = [] ∧ c'.time.ptime = c.time.ptime + 1 ∧ t.hbm = s.hbm ∧ t.hostMem = s.hostMem) ∧
  (∀ (c : Ctx) (g t : Nat) (r : Reg) (x y : U64) (l m : Landing),
    r ≠ 0#5 → c.landings = [l, m] → l.trap = false → m.trap = false → l.write = .s r x → m.write = .s r y → l.due ≤ t → m.due ≤ t →
    vget 0#64 (c.writeDue false t g).norm.s r.toNat = (if l.ord ≤ m.ord then y else x))

/-- R18: the fixed registers: s0 reads 0, c0 reads 1 and p0 reads all ones in every state, and a write to them changes no
register. -/
def Obligations.FixedRegistersDiscardWrites : Prop :=
  (∀ c : Ctx, c.rs 0#5 = 0#64 ∧ c.rc 0#3 = true) ∧ (∀ x : Cell, x.rp 0#5 = BitVec.allOnes 64) ∧
  (∀ (b : Bank) (x : U64) (v : Bool), b.putS 0#5 x = b ∧ b.putC 0#3 v = b) ∧ (∀ (x : Cell) (y : U64), x.putP 0#5 y = x) ∧
  (∀ (b : Bank) (x : U64) (r q : Reg), r ≠ 0#5 → vget 0#64 (b.putS r x).s q.toNat = if q = r then x else vget 0#64 b.s q.toNat)

/-! The place of the next instruction (R24, R28). -/

namespace Sys2Proof.Claims

/-- What an instruction that writes no memory and starts nothing leaves alone: registers of both contexts of execution, the
results under way, system registers, cells, scratch, trap memory, queues, accesses, clocks and trap registers. -/
def Same (c d : Ctx) : Prop :=
  d.id = c.id ∧ d.code = c.code ∧ d.norm = c.norm ∧ d.trapBank = c.trapBank ∧ d.time = c.time ∧ d.trap = c.trap ∧ d.sys = c.sys ∧
    d.adj = c.adj ∧ d.motif = c.motif ∧ d.spec = c.spec ∧ d.fmt = c.fmt ∧ d.latch = c.latch ∧ d.eng = c.eng ∧
    d.landings = c.landings ∧ d.towerOps = c.towerOps ∧ d.windows = c.windows ∧ d.flights = c.flights ∧ d.glob = c.glob ∧
    d.outbox = c.outbox ∧ d.borders = c.borders ∧ d.cells = c.cells ∧ d.scratch = c.scratch ∧ d.trapMem = c.trapMem ∧
    d.badScratch = c.badScratch ∧ d.badTrapMem = c.badTrapMem ∧ d.jobs = c.jobs ∧ d.revJobs = c.revJobs ∧
    d.trapJobs = c.trapJobs ∧ d.committed = c.committed ∧
    d.finished = c.finished

/-- The outcome in which a context has been replaced. -/
def goesTo (s : State) (c : Ctx) : Host.Outcome State Fault Refusal := .next (s.putCtx c)

/-- The context with a sequencer trap raised at the present instruction, which takes no effect. -/
def trapped (c : Ctx) (code sub : BitVec 8) (t : U64) : Ctx :=
  { c with raised := c.raised ++ [⟨code, sub, t, none, c.issue.trapPc, false, none, false⟩],
           issue := { c.issue with closed := true } }

/-- The context with its sequencer stalled: the instruction has not issued, and nothing more issues in the cycle. -/
def stalled (c : Ctx) : Ctx := { c with issue := { c.issue with closed := true } }

/-- The context in a wait from the present instruction on, whose place stays with it (R54, R286). -/
def awaiting (c : Ctx) (w : Wait) : Ctx :=
  { c with issue := { c.issue with waitPc := c.issue.pc, waitSlots := c.issue.slots, waitTaken := c.issue.taken, wait := w } }

end Sys2Proof.Claims

/-- R24, R26, R28, R30: the end of an instruction is the frame of every sequencer instruction: it moves the sequencer on by the
instruction's words and leaves every register, every result under way, the cells, the memories, the queues and the clocks as
they were. Within a packet nothing else happens; at the end of a packet outside a loop nothing more issues in the cycle. The two packets
after a branch are its delay slots: the first leaves one slot, and the end of the second goes to the target when the branch transfers,
and on to the packet that follows when it does not. -/
def Obligations.InstructionEndMovesOnlyThePlace : Prop :=
  (∀ (c : Ctx) (e : Bool) (n : Nat),
    Same c (c.advance e n) ∧ (c.advance e n).ord = c.ord + 1 ∧
    (e = false → c.issue.again = none → c.advance e n = { c with
      ord := c.ord + 1, issue := { c.issue with pc := c.issue.pc + BitVec.ofNat 64 (4 * n), done := c.issue.done + 1 } }) ∧
    (e = true → c.loop = none → c.issue.again = none → c.issue.slots = 0 → c.issue.yields = false →
      (c.advance e n).issue.pc = c.issue.pc + BitVec.ofNat 64 (4 * n) ∧ (c.advance e n).issue.closed = true ∧
      (c.advance e n).issue.done = 0 ∧ (c.advance e n).issue.slots = 0 ∧ (c.advance e n).raised = c.raised)) ∧
  (∀ (c : Ctx) (n : Nat), c.loop = none → c.issue.again = none → c.issue.yields = false →
    (c.issue.slots = 2 →
      let d := c.advance true n
      d.issue.slots = 1 ∧ d.issue.taken = c.issue.taken ∧ d.issue.target = c.issue.target ∧
        d.issue.pc = c.issue.pc + BitVec.ofNat 64 (4 * n)) ∧
    (c.issue.slots = 1 →
      let d := c.advance true n
      d.issue.slots = 0 ∧ d.issue.taken = false ∧
        d.issue.pc = if c.issue.taken then c.issue.target else c.issue.pc + BitVec.ofNat 64 (4 * n)))

/-! Loads, stores and atomics (R57, R58, R151 to R155). -/

namespace Sys2Proof.Claims

/-- A load of R153: E bit, destination, base, address, width in bytes, and whether the value is sign-extended. -/
def load (c : Ctx) : Instr → Option (Bool × Reg × Reg × U64 × Nat × Bool)
  | .ldb e d a i => some (e, d, a, c.rs a + i.signExtend 64, 1, true)
  | .ldh e d a i => some (e, d, a, c.rs a + i.signExtend 64, 2, true)
  | .ldw e d a i => some (e, d, a, c.rs a + i.signExtend 64, 4, true)
  | .ldd e d a i => some (e, d, a, c.rs a + i.signExtend 64, 8, true)
  | .ldbu e d a i => some (e, d, a, c.rs a + i.signExtend 64, 1, false)
  | .ldhu e d a i => some (e, d, a, c.rs a + i.signExtend 64, 2, false)
  | .ldwu e d a i => some (e, d, a, c.rs a + i.signExtend 64, 4, false)
  | .ldacq e d a sc o => if sc.toNat ≤ 4 then some (e, d, a, c.rs a + BitVec.ofNat 64 (8 * o.toNat), 8, true) else none
  | _ => none

/-- A store of R154: E bit, data, base, address and width in bytes. -/
def store (c : Ctx) : Instr → Option (Bool × Reg × Reg × U64 × Nat)
  | .stb e b a i => some (e, b, a, c.rs a + i.signExtend 64, 1)
  | .sth e b a i => some (e, b, a, c.rs a + i.signExtend 64, 2)
  | .stw e b a i => some (e, b, a, c.rs a + i.signExtend 64, 4)
  | .std e b a i => some (e, b, a, c.rs a + i.signExtend 64, 8)
  | .strel e b a sc o => if sc.toNat ≤ 4 then some (e, b, a, c.rs a + BitVec.ofNat 64 (8 * o.toNat), 8) else none
  | _ => none

/-- A number of w bits read as signed. -/
def signedOf (w x : Nat) : Int := if 2 * (x % 2 ^ w) < 2 ^ w then (x % 2 ^ w : Nat) else (x % 2 ^ w : Nat) - 2 ^ w

/-- Bytes of an atomic's width. -/
def widthOf (w : Bool) : Nat := if w then 8 else 4

/-- An atomic of R155: E bit, op, destination, address register, data register, whether it is 64 bits wide, and what it writes
over an old value. -/
def atomic (c : Ctx) (i : Instr) : Option (Bool × Nat × Reg × Reg × Reg × Bool × (Nat → Option Nat)) :=
  let ok (sc : BitVec 3) (r : Bool × Nat × Reg × Reg × Reg × Bool × (Nat → Nat → Option Nat)) :=
    let m : Nat := 2 ^ (8 * widthOf r.2.2.2.2.2.1)
    if sc.toNat ≤ 4 then
      some (r.1, r.2.1, r.2.2.1, r.2.2.2.1, r.2.2.2.2.1, r.2.2.2.2.2.1, fun old => r.2.2.2.2.2.2 old ((c.rs r.2.2.2.2.1).toNat % m))
    else none
  match i with
  | .aadd e d a b sc _ w => ok sc (e, 0, d, a, b, w, fun old x => some ((old + x) % 2 ^ (8 * widthOf w)))
  | .aand e d a b sc _ w => ok sc (e, 1, d, a, b, w, fun old x => some (old &&& x))
  | .aor e d a b sc _ w => ok sc (e, 2, d, a, b, w, fun old x => some (old ||| x))
  | .axor e d a b sc _ w => ok sc (e, 3, d, a, b, w, fun old x => some (old ^^^ x))
  | .amin e d a b sc _ w => ok sc (e, 4, d, a, b, w, fun old x =>
      some (if signedOf (8 * widthOf w) old ≤ signedOf (8 * widthOf w) x then old else x))
  | .amax e d a b sc _ w => ok sc (e, 5, d, a, b, w, fun old x =>
      some (if signedOf (8 * widthOf w) old ≤ signedOf (8 * widthOf w) x then x else old))
  | .aminu e d a b sc _ w => ok sc (e, 6, d, a, b, w, fun old x => some (if old ≤ x then old else x))
  | .amaxu e d a b sc _ w => ok sc (e, 7, d, a, b, w, fun old x => some (if old ≤ x then x else old))
  | .aswap e d a b sc _ w => ok sc (e, 8, d, a, b, w, fun _ x => some x)
  | .acas e d a b sc _ w => ok sc (e, 9, d, a, b, w, fun old x =>
      if old = (c.rs d).toNat % 2 ^ (8 * widthOf w) then some x else none)
  | _ => none

/-- The scalars that an atomic reads at issue. -/
def atomicReads (op : Nat) (d a b : Reg) : List Ref := if op = 9 then [.s d, .s a, .s b] else [.s a, .s b]

/-- The places of the local window (R57): scratch, or with tm trap memory, at an offset. -/
def At (x : U64) (tm : Bool) (off : Nat) : Prop :=
  (tm = false ∧ off < 0x20000 ∧ x.toNat = 0x00FF000000000000 + off) ∨
    (tm = true ∧ off < 0x2000 ∧ x.toNat = 0x00FF000000100000 + off)

/-- The k bytes from address a, least significant first. -/
def bytesAt (m : Bytes) (a : Nat) : Nat → Nat
  | 0 => 0
  | k + 1 => (Store.get m a).toNat + 256 * bytesAt m (a + 1) k

/-- A loaded value of w bytes in a scalar. -/
def extended (signed : Bool) (w x : Nat) : U64 := if signed then BitVec.ofInt 64 (signedOf (8 * w) x) else BitVec.ofNat 64 x

/-- The unit at off of scratch or trap memory holds no uncorrectable error (R281). -/
def Sound (c : Ctx) (tm : Bool) (off : Nat) : Prop := (c.localBad tm).contains (off / 8) = false

/-- DEBUGCTL watches no access of the sequencer in a direction (R282). -/
def Unwatched (c : Ctx) (reads writes : Bool) : Prop :=
  bit c.sys.debugCtl 5 = true ∨ (reads = true → bit c.sys.debugCtl 3 = false) ∧ (writes = true → bit c.sys.debugCtl 4 = false)

end Sys2Proof.Claims

/-- R57, R58, R153: a load from scratch or from trap memory completes: it takes the bytes as they are at its issue, least
significant first, extended as its form says, due with latency 4. -/
def Obligations.LocalLoadReadsBytes : Prop :=
  ∀ (s : State) (c : Ctx) (i : Instr) (e : Bool) (d a : Reg) (x : U64) (w : Nat) (sg tm : Bool) (off : Nat),
    Runs s c → load c i = some (e, d, a, x, w, sg) → Reads c [.s a] → Room c d → At x tm off → x.toNat % w = 0 →
    Unwatched c true false → Sound c tm off →
    exec i s = goesTo s ((lands c d (extended sg w (bytesAt (c.localMem tm) off w)) 4).advance e 1)

/-- R57, R58, R154: a store to scratch completes, and in trap context one to trap memory: its bytes stand there, least significant
first, at the address computed, every other byte there and all of the other memory is as before, and nothing else changes but
the place of the next instruction. -/
def Obligations.LocalStoreWritesItsBytes : Prop :=
  ∀ (s : State) (c : Ctx) (i : Instr) (e : Bool) (b a : Reg) (x : U64) (w : Nat) (tm : Bool) (off : Nat),
    Runs s c → store c i = some (e, b, a, x, w) → Reads c [.s a, .s b] → At x tm off → x.toNat % w = 0 →
    (tm = true → c.trap.tctx = true) → Unwatched c false true → Store.wf (c.localMem tm) = true →
    exec i s = goesTo s ((c.localStore tm off w (c.rs b).toNat).advance e 1) ∧
    (let d := c.localStore tm off w (c.rs b).toNat
     (∀ k, k < w → (Store.get (d.localMem tm) (off + k)).toNat = (c.rs b).toNat / 256 ^ k % 256) ∧
     (∀ k, k < off ∨ off + w ≤ k → Store.get (d.localMem tm) k = Store.get (c.localMem tm) k) ∧
     d.localMem (!tm) = c.localMem (!tm) ∧
     Same c { d with scratch := c.scratch, trapMem := c.trapMem, badScratch := c.badScratch, badTrapMem := c.badTrapMem } ∧
     d.issue = c.issue ∧ d.raised = c.raised ∧ d.loop = c.loop ∧ d.preempt = c.preempt)

/-- R57, R58, R155: an atomic in scratch, and in trap context one in trap memory, completes: the old value, zero-extended, is due
for sd with latency 4, and the new one stands in memory; an ACAS that fails writes nothing. -/
def Obligations.LocalAtomicReadsAndWrites : Prop :=
  ∀ (s : State) (c : Ctx) (i : Instr) (e : Bool) (op : Nat) (d a b : Reg) (w : Bool) (new : Nat → Option Nat) (tm : Bool)
    (off : Nat),
    Runs s c → atomic c i = some (e, op, d, a, b, w, new) → Reads c (atomicReads op d a b) → Room c d →
    At (c.rs a) tm off → off % widthOf w = 0 → (tm = true → c.trap.tctx = true) → Unwatched c true true → Sound c tm off →
    let old := bytesAt (c.localMem tm) off (widthOf w)
    let r := lands c d (BitVec.ofNat 64 old) 4
    exec i s = goesTo s ((match new old with | some y => r.localStore tm off (widthOf w) y | none => r).advance e 1)

namespace Sys2Proof.Claims

/-- An access of R153 to R155: the scalars it reads at issue, its destination if it has one, its address and width, and whether it
reads and writes. -/
def accessOf (c : Ctx) (i : Instr) : Option (List Ref × Reg × U64 × Nat × Bool × Bool) :=
  match load c i, store c i, atomic c i with
  | some (_, d, a, x, w, _), _, _ => some ([.s a], d, x, w, true, false)
  | _, some (_, b, a, x, w), _ => some ([.s a, .s b], 0#5, x, w, false, true)
  | _, _, some (_, op, d, a, b, w, _) => some (atomicReads op d a b, d, c.rs a, widthOf w, true, true)
  | _, _, _ => none

/-- DEBUGCTL watches the line of an address in a direction of the access (R282). -/
def Watched (c : Ctx) (x : U64) (reads writes : Bool) : Prop :=
  bit c.sys.debugCtl 5 = false ∧ x.toNat / 64 = c.sys.debugCtl.toNat / 64 % 2 ^ 50 ∧
    (reads = true ∧ bit c.sys.debugCtl 3 = true ∨ writes = true ∧ bit c.sys.debugCtl 4 = true)

end Sys2Proof.Claims

/-- R57, R151, R282: the checks of an access in their order, each trap precise at the access with its address in TVAL and no other
effect: PROTECTION for bits 63 to 56, MISALIGNED, PROTECTION for what the local window does not allow, and WATCH for a
watched line. -/
def Obligations.AccessChecksTrapInOrder : Prop :=
  ∀ (s : State) (c : Ctx) (i : Instr) (rs : List Ref) (d : Reg) (x : U64) (w : Nat) (r wr : Bool),
    Runs s c → accessOf c i = some (rs, d, x, w, r, wr) → Reads c rs → Room c d →
    (2 ^ 56 ≤ x.toNat → exec i s = goesTo s (trapped c 0x05#8 0#8 x)) ∧
    (x.toNat < 2 ^ 56 → x.toNat % w ≠ 0 → exec i s = goesTo s (trapped c 0x03#8 0#8 x)) ∧
    (x.toNat < 2 ^ 56 → x.toNat % w = 0 → x.toNat / 2 ^ 48 = 0xFF → (∀ tm off, ¬ At x tm off) →
      exec i s = goesTo s (trapped c 0x05#8 0#8 x)) ∧
    (∀ off, x.toNat % w = 0 → At x true off → wr = true → c.trap.tctx = false → exec i s = goesTo s (trapped c 0x05#8 0#8 x)) ∧
    (∀ tm off, x.toNat % w = 0 → At x tm off → (tm = true → wr = true → c.trap.tctx = true) → Watched c x r wr →
      exec i s = goesTo s (trapped c 0x13#8 0#8 x)) ∧
    (x.toNat < 2 ^ 56 → x.toNat % w = 0 → x.toNat / 2 ^ 48 ≠ 0xFF → Watched c x r wr →
      exec i s = goesTo s (trapped c 0x13#8 0#8 x))

namespace Sys2Proof.Claims

/-- What a form asks of the memory system: its E bit, kind, data, comparand, acquire, release and scope (R84, R136, R153 to
R155). -/
def asked (c : Ctx) : Instr → Option (Bool × GKind × U64 × U64 × Bool × Bool × BitVec 3)
  | .ldb e _ _ _ | .ldh e _ _ _ | .ldw e _ _ _ | .ldd e _ _ _ => some (e, .load true, 0#64, 0#64, false, false, 0#3)
  | .ldbu e _ _ _ | .ldhu e _ _ _ | .ldwu e _ _ _ => some (e, .load false, 0#64, 0#64, false, false, 0#3)
  | .ldacq e _ _ sc _ => some (e, .load true, 0#64, 0#64, true, false, sc)
  | .stb e b _ _ | .sth e b _ _ | .stw e b _ _ | .std e b _ _ => some (e, .store, c.rs b, 0#64, false, false, 0#3)
  | .strel e b _ sc _ => some (e, .store, c.rs b, 0#64, false, true, sc)
  | .aadd e d _ b sc o _ => some (e, .atomic 0, c.rs b, c.rs d, bit o 0, bit o 1, sc)
  | .aand e d _ b sc o _ => some (e, .atomic 1, c.rs b, c.rs d, bit o 0, bit o 1, sc)
  | .aor e d _ b sc o _ => some (e, .atomic 2, c.rs b, c.rs d, bit o 0, bit o 1, sc)
  | .axor e d _ b sc o _ => some (e, .atomic 3, c.rs b, c.rs d, bit o 0, bit o 1, sc)
  | .amin e d _ b sc o _ => some (e, .atomic 4, c.rs b, c.rs d, bit o 0, bit o 1, sc)
  | .amax e d _ b sc o _ => some (e, .atomic 5, c.rs b, c.rs d, bit o 0, bit o 1, sc)
  | .aminu e d _ b sc o _ => some (e, .atomic 6, c.rs b, c.rs d, bit o 0, bit o 1, sc)
  | .amaxu e d _ b sc o _ => some (e, .atomic 7, c.rs b, c.rs d, bit o 0, bit o 1, sc)
  | .aswap e d _ b sc o _ => some (e, .atomic 8, c.rs b, c.rs d, bit o 0, bit o 1, sc)
  | .acas e d _ b sc o _ => some (e, .atomic 9, c.rs b, c.rs d, bit o 0, bit o 1, sc)
  | _ => none

/-- A leaf refuses an access (R92, R392): it writes a page without the permission, or is an atomic in host memory other than an AADD,
ASWAP or ACAS of a page that takes system atomics. -/
def PageRefuses (leaf : U64) (k : GKind) : Prop :=
  ((k = .store ∨ ∃ op, k = .atomic op) ∧ leaf.getLsbD 2 = false) ∨
    (∃ op, k = .atomic op ∧ leaf.getLsbD 4 = true ∧ ¬ (leaf.getLsbD 6 = true ∧ (op = 0 ∨ op = 8 ∨ op = 9)))

end Sys2Proof.Claims

/-- R80, R92, R151 to R155, R392: an access outside the local window. With its translation at hand, and the page allowing it, it is
handed to the memory system with its physical address, its result due 12 cycles on; a page that does not allow it raises
PROTECTION; without a translation it goes with a walk. Nothing else changes but the place of the next instruction. -/
def Obligations.GlobalAccessIsHandedOver : Prop :=
  ∀ (s : State) (c : Ctx) (i : Instr) (rs : List Ref) (d : Reg) (x : U64) (w : Nat) (r wr e : Bool) (k : GKind) (y z : U64)
    (acq rel : Bool) (sc : BitVec 3),
    Runs s c → accessOf c i = some (rs, d, x, w, r, wr) → asked c i = some (e, k, y, z, acq, rel, sc) → Reads c rs →
    Room c d → x.toNat < 2 ^ 56 → x.toNat / 2 ^ 48 ≠ 0xFF → x.toNat % w = 0 → Unwatched c r wr → c.committed = false →
    let tlb := (s.sheet (sheetOf s.cur)).tlb
    let goes (wk : Walk) : Prop := ∃ a : GAccess,
      exec i s = goesTo s (({ c with glob := { c.glob with queue := c.glob.queue ++ [a] }, fresh := c.fresh + 1 }).advance e 1) ∧
      a.ord = c.ord ∧ a.trap = c.trap.tctx ∧ a.kind = k ∧ a.va = x ∧ a.width = w ∧ a.data = y ∧ (k = .atomic 9 → a.expect = z) ∧
      a.dest = (if d = 0#5 then none else some d) ∧ a.acquire = acq ∧ a.release = rel ∧ a.scope = sc ∧ a.walk = wk ∧
      a.due = c.now + 11 ∧ a.pc = c.issue.pc ∧ a.performed = false ∧ a.returned = false
    (∀ t, tlbFind tlb false x.toNat = some t → ¬ PageRefuses t.leaf k →
      goes (.done (t.pa + (x.toNat - t.va)) (bit t.leaf 4) (bit t.leaf 6))) ∧
    (∀ t, tlbFind tlb false x.toNat = some t → PageRefuses t.leaf k → exec i s = goesTo s (trapped c 0x05#8 0#8 x)) ∧
    (tlbFind tlb false x.toNat = none → goes .walking)

/-! Branches, conditions, loops and time (R28, R44 to R49, R156 to R161). -/

namespace Sys2Proof.Claims

/-- The words of an instruction as ILLEGAL reports them (R138). -/
def wordsOf (i : Instr) : U64 :=
  match encode i with
  | [w0] => BitVec.ofNat 64 w0
  | [w0, w1] => BitVec.ofNat 64 (w0 + 2 ^ 32 * w1)
  | _ => 0#64

/-- The context with one write due at the end of the present cycle, latency 1; c0 discards it (R18, R26). -/
def due1 (c : Ctx) (w : Write) : Ctx :=
  match w with
  | .c 0#3 _ => c
  | w => { c with landings := c.landings ++ [⟨c.ord, .seq, c.now, c.trap.tctx, w, .zero⟩] }

/-- R156, R158: what a form writes into a branch target or a condition: its E bit, the values it reads, and the write; the fields
that name conditions hold 0 to 7. -/
def target (c : Ctx) : Instr → Option (Bool × List Ref × Write)
  | .ptgt e n o => some (e, [], .b n (c.issue.pc + BitVec.ofInt 64 (4 * o.toInt)))
  | .ptgtr e n a => some (e, [.s a], .b n (c.rs a))
  | .cmpeq e d a b => if d.toNat < 8 then some (e, [.s a, .s b], .c (d.setWidth 3) (decide (c.rs a = c.rs b))) else none
  | .cmpne e d a b => if d.toNat < 8 then some (e, [.s a, .s b], .c (d.setWidth 3) (decide (c.rs a ≠ c.rs b))) else none
  | .cmplt e d a b =>
    if d.toNat < 8 then some (e, [.s a, .s b], .c (d.setWidth 3) (decide ((c.rs a).toInt < (c.rs b).toInt))) else none
  | .cmpge e d a b =>
    if d.toNat < 8 then some (e, [.s a, .s b], .c (d.setWidth 3) (decide ((c.rs b).toInt ≤ (c.rs a).toInt))) else none
  | .cmpltu e d a b =>
    if d.toNat < 8 then some (e, [.s a, .s b], .c (d.setWidth 3) (decide ((c.rs a).toNat < (c.rs b).toNat))) else none
  | .cmpgeu e d a b =>
    if d.toNat < 8 then some (e, [.s a, .s b], .c (d.setWidth 3) (decide ((c.rs b).toNat ≤ (c.rs a).toNat))) else none
  | .cand e d a b =>
    if d.toNat < 8 ∧ a.toNat < 8 ∧ b.toNat < 8 then
      some (e, [.c (a.setWidth 3), .c (b.setWidth 3)], .c (d.setWidth 3) (c.rc (a.setWidth 3) && c.rc (b.setWidth 3))) else none
  | .cor e d a b =>
    if d.toNat < 8 ∧ a.toNat < 8 ∧ b.toNat < 8 then
      some (e, [.c (a.setWidth 3), .c (b.setWidth 3)], .c (d.setWidth 3) (c.rc (a.setWidth 3) || c.rc (b.setWidth 3))) else none
  | .cxor e d a b =>
    if d.toNat < 8 ∧ a.toNat < 8 ∧ b.toNat < 8 then
      some (e, [.c (a.setWidth 3), .c (b.setWidth 3)], .c (d.setWidth 3) (Bool.xor (c.rc (a.setWidth 3)) (c.rc (b.setWidth 3)))) else none
  | .cnot e d a =>
    if d.toNat < 8 ∧ a.toNat < 8 then some (e, [.c (a.setWidth 3)], .c (d.setWidth 3) (!c.rc (a.setWidth 3))) else none
  | _ => none

/-- The forms of R158 that a field above 7 makes ILLEGAL, with their condition fields. -/
def condFields : Instr → List Reg
  | .cmpeq _ d _ _ | .cmpne _ d _ _ | .cmplt _ d _ _ | .cmpge _ d _ _ | .cmpltu _ d _ _ | .cmpgeu _ d _ _ => [d]
  | .cand _ d a b | .cor _ d a b | .cxor _ d a b => [d, a, b]
  | .cnot _ d a => [d, a]
  | .ctos _ _ a => [a]
  | _ => []

/-- A BR, or with link a BRL: its E bit, branch target, condition and sense. -/
def branch : Instr → Option (Bool × BitVec 2 × BitVec 3 × Bool × Bool)
  | .br e n k v => some (e, n, k, v, false)
  | .brl e n k v => some (e, n, k, v, true)
  | _ => none

end Sys2Proof.Claims

/-- R156, R158: PTGT and PTGTR write a branch target, the compares and the operations on conditions a condition, with latency 1,
and a field above 7 where a condition is named raises ILLEGAL with subcode 0x08. -/
def Obligations.TargetsAndConditions : Prop :=
  ∀ (s : State) (c : Ctx) (i : Instr), Runs s c →
    (∀ e rs w, target c i = some (e, rs, w) → Reads c rs → c.inFlight < 48 →
      exec i s = goesTo s ((due1 c w).advance e 1)) ∧
    (∀ r ∈ condFields i, 8 ≤ r.toNat → exec i s = goesTo s (trapped c 0x01#8 0x08#8 (wordsOf i)))

/-- R28, R46, R157: a branch reads its target and condition at issue. With E = 0 it is ILLEGAL, and so it is in a loop body; one
that transfers to an address that is no multiple of 4 raises MISALIGNED; otherwise two delay slots follow, with the decision and the
target kept, and a BRL that transfers writes s31 := pc + 12, latency 1. -/
def Obligations.BranchesDecideAtIssue : Prop :=
  ∀ (s : State) (c : Ctx) (i : Instr) (e : Bool) (n : BitVec 2) (k : BitVec 3) (v link : Bool),
    Runs s c → branch i = some (e, n, k, v, link) → Reads c [.b n, .c k] → (link = true → c.rc k = v → c.inFlight < 48) →
    let inBody := c.loop ≠ none ∧ c.trap.tctx = false
    (e = false → exec i s = goesTo s (trapped c 0x01#8 0x06#8 c.issue.pc)) ∧
    (e = true → inBody → exec i s = goesTo s (trapped c 0x01#8 0x09#8 (wordsOf i))) ∧
    (e = true → ¬ inBody → c.rc k = v → (c.rb n).toNat % 4 ≠ 0 → exec i s = goesTo s (trapped c 0x03#8 0#8 (c.rb n))) ∧
    (e = true → ¬ inBody → (c.rc k = v → (c.rb n).toNat % 4 = 0) →
      let d := (if link = true ∧ c.rc k = v then lands c 31#5 (c.issue.pc + 12#64) 1 else c).advance true 1
      exec i s = goesTo s { d with issue := { d.issue with
        slots := 2, taken := decide (c.rc k = v), target := c.rb n, branch := c.issue.pc, link := link, breg := n } })

/-- R44, R47, R159, R160: LOOP starts the hardware loop, with N + S - 1 passes to run, and with N = 0 goes on after the body; LBREAK
makes the iteration of its stage the last: queued commands of later ones go, those of the pass that would come are cut at the
earliest such iteration, and the loop runs until it has passed every stage; with its condition 0 it only lets issue go on. Both are ILLEGAL in the places that forbid them. -/
def Obligations.LoopsStartAndBreak : Prop :=
  (∀ (s : State) (c : Ctx) (a : Reg) (st : BitVec 3) (l : BitVec 6), Runs s c → st ≠ 0#3 → Reads c [.s a] →
    let n := (c.rs a).toNat % 2 ^ 32
    let body := c.issue.pc + 4#64
    let len := l.toNat + 1
    let d := c.advance true 1
    (c.trap.tctx = true ∨ c.loop ≠ none ∨ c.code.endsPacket 65 body len = false →
      exec (.loop true a st l) s = goesTo s (trapped c 0x01#8 0x09#8 (wordsOf (.loop true a st l)))) ∧
    (c.trap.tctx = false → c.loop = none → c.code.endsPacket 65 body len = true → n = 0 →
      exec (.loop true a st l) s = goesTo s { d with issue := { d.issue with pc := body + BitVec.ofNat 64 (4 * len) } }) ∧
    (c.trap.tctx = false → c.loop = none → c.code.endsPacket 65 body len = true → n ≠ 0 →
      exec (.loop true a st l) s = goesTo s { d with loop := some {
        body := body, len := len, stages := st.toNat, first := 0, total := n, passes := n + st.toNat - 1, pass := 0,
        pending := true, whole := n, leftAt := 0, draining := false, cut := none } })) ∧
  (∀ (s : State) (c : Ctx) (e : Bool) (k : BitVec 5) (m : BitVec 3), Runs s c → k.toNat < 8 → m ≠ 0#3 →
    Reads c [.c (k.setWidth 3)] →
    (c.trap.tctx = true ∨ c.loop = none →
      exec (.lbreak e k m) s = goesTo s (trapped c 0x01#8 0x09#8 (wordsOf (.lbreak e k m)))) ∧
    (∀ l : LoopState, c.trap.tctx = false → c.loop = some l → l.stages < m.toNat →
      exec (.lbreak e k m) s = goesTo s (trapped c 0x01#8 0x08#8 (wordsOf (.lbreak e k m)))) ∧
    (∀ l : LoopState, c.trap.tctx = false → c.loop = some l → m.toNat ≤ l.stages → c.rc (k.setWidth 3) = false →
      exec (.lbreak e k m) s = goesTo s (c.advance e 1)) ∧
    (∀ l : LoopState, c.trap.tctx = false → c.loop = some l → m.toNat ≤ l.stages → c.rc (k.setWidth 3) = true →
      let i : Int := (l.pass : Int) - m.toNat + 1
      ∃ d : Ctx, exec (.lbreak e k m) s = goesTo s (d.advance e 1) ∧
        (∀ q : Nat, q < 4 → vget [] d.eng.q q = (vget [] c.eng.q q).filter (fun x => match x.iter with | some j => decide (j ≤ i) | none => true)) ∧
        (∃ l' : LoopState, d.loop = some l' ∧ (l'.total : Int) = min (l.total : Int) (max (i + 1) 0) ∧ l'.cut = some (match l.cut with | some j => min j i | none => i) ∧
          (l'.whole : Int) = min (l.whole : Int) (max (i + 1) 0) ∧ l'.pass = l.pass ∧
          l'.passes = min l.passes (l.pass + 1 + (l.stages - m.toNat)) ∧ l'.body = l.body ∧ l'.stages = l.stages) ∧
        Same c { d with eng := c.eng } ∧ d.issue = c.issue ∧ d.raised = c.raised))

/-- R34, R161: TSTART sets the anchor to the panel time of its packet, for the packet's own commands as well; it is forbidden in a loop
body and in trap context. TWAIT with its target reached lets issue go on in the next cycle, and so it does in trap context; else
the rest of its packet issues and then issue waits for TCYC to reach the target. -/
def Obligations.AnchorsAndTwait : Prop :=
  (∀ (s : State) (c : Ctx) (e : Bool), Runs s c →
    (c.trap.tctx = true ∨ c.loop ≠ none → exec (.tstart e) s = goesTo s (trapped c 0x01#8 0x09#8 (wordsOf (.tstart e)))) ∧
    (c.trap.tctx = false → c.loop = none → ∃ d : Ctx, exec (.tstart e) s = goesTo s (d.advance e 1) ∧
      d.time = { c.time with anchor := c.time.ptime } ∧ d.tcyc = 0 ∧ d.issue = c.issue ∧ d.raised = c.raised ∧
      (∀ q : Nat, q < 4 → (vget [] d.eng.q q).length = (vget [] c.eng.q q).length ∧
        ∀ x ∈ vget [] c.eng.q q, x.trap = false → c.ord - c.issue.done ≤ x.ord → x.due ≠ none →
          { x with due := some (c.time.ptime + x.instr.startField) } ∈ vget [] d.eng.q q) ∧
      Same c { d with time := c.time, eng := c.eng })) ∧
  (∀ (s : State) (c : Ctx) (e : Bool) (a : Reg) (i : BitVec 12), Runs s c → Reads c [.s a] →
    let t := (c.rs a + i.signExtend 64).toInt
    (c.trap.tctx = true ∨ t ≤ c.tcyc → exec (.twait e a i) s = goesTo s (c.advance e 1)) ∧
    (c.trap.tctx = false → (c.tcyc : Int) < t → exec (.twait e a i) s =
      goesTo s ((awaiting c (.twait t)).advance e 1)))

namespace Sys2Proof.Claims

/-- A ring's field that RSTAT selects in one cell (R241, R244). -/
def ringField (r : Ring) (sel : Nat) : Nat :=
  match sel with
  | 0 => r.head.toNat
  | 1 => r.tail.toNat
  | 2 => r.ttail.toNat
  | 3 => r.claimed.toNat
  | 4 => r.nexttag.toNat
  | 5 => r.hslot + 2 ^ 8 * r.fslot + 2 ^ 16 * r.opened + 2 ^ 25 * r.phase.toNat + 2 ^ 26 * r.spec.toNat + 2 ^ 27 * r.explicit.toNat
  | _ => r.base + 2 ^ 23 * r.explicit.toNat + 2 ^ 24 * (r.size - 1) + 2 ^ 32 * (r.count - 1)

/-- A descriptor's fields lie within their widths (R65, R241). -/
def ringFits (r : Ring) : Prop :=
  r.hslot < 256 ∧ r.fslot < 256 ∧ r.opened ≤ 256 ∧ r.base < 2 ^ 23 ∧ 1 ≤ r.size ∧ r.size ≤ 256 ∧ 1 ≤ r.count ∧ r.count ≤ 256

/-- A motif slot's status word (R259). -/
def slotWord : Slot → Nat
  | .empty => 0
  | .loading => 1
  | .failed n => 3 + 2 ^ 8 * n
  | .loaded m => 2 + 2 ^ 16 * (m.lat - 1) + 2 ^ 21 * m.nin + 2 ^ 23 * m.ein.toNat + 2 ^ 24 * m.nout

/-- A validated motif's figures lie within the fields of the status word (R259, R341). -/
def slotFits : Slot → Prop
  | .loaded m => m.lat ≤ 32 ∧ m.nin ≤ 3 ∧ m.nout ≤ 3
  | .failed n => n ≤ 2
  | _ => True

/-- The descriptor of ring m should have been read by now and has not (R40, R241). -/
def DescriptorOwed (c : Ctx) (m : Nat) : Prop :=
  ∃ a ∈ c.glob.queue, a.trap = c.trap.tctx ∧ a.due < c.now ∧ a.kind = .rcfg m ∧ a.performed = false

/-- R158, R161, R169, R244, R259: the result of the forms that read the context's own state, with their E bit, destination, what they
read at issue and latency. -/
def stateRead (s : State) (c : Ctx) : Instr → Option (Bool × Reg × List Ref × Nat × U64)
  | .sel e d a b => some (e, d, [.s d, .s a, .s b], 1, if c.rs d ≠ 0#64 then c.rs a else c.rs b)
  | .ctos e d a => if a.toNat < 8 then some (e, d, [.c (a.setWidth 3)], 1, flag64 (c.rc (a.setWidth 3) = true)) else none
  | .tread e d k => some (e, d, [], 1,
      if k = 0#2 then BitVec.ofNat 64 c.tcyc else if k = 1#2 then BitVec.ofNat 64 s.gcyc
      else if k = 2#2 then BitVec.ofNat 64 (if c.trap.tctx then c.time.ptime - 1 else c.time.ptime) else c.time.holdcnt)
  | .qmark e d q => some (e, d, [], 1, BitVec.ofNat 64 (vget 0#16 c.eng.seq q.toNat).toNat)
  | .qdepth e d q => some (e, d, [], 1, BitVec.ofNat 64 ((vget [] c.eng.q q.toNat).countP (fun x => x.trap = false)))
  | .mstat e d k => some (e, d, [], 1, BitVec.ofNat 64 (slotWord (vget .empty c.motif.slots k.toNat)))
  | .rstat e d m k n =>
    let r := (c.cell n.toNat).ring m.toNat
    if k.toNat < 9 then
      some (e, d, [], 2,
        if r.conf = false then 0#64
        else if k.toNat < 7 then BitVec.ofNat 64 (ringField r k.toNat)
        else if k.toNat = 7 then BitVec.ofNat 64 ((List.range 16).foldl (fun x j => min x ((c.cell j).ring m.toNat).filled) 256)
        else BitVec.ofNat 64 ((List.range 16).foldl (fun x j => min x ((c.cell j).ring m.toNat).free) 256))
    else none
  | _ => none

end Sys2Proof.Claims

/-- R158, R161, R169, R244, R259: SEL, CTOS, TREAD, QMARK, QDEPTH, RSTAT and MSTAT complete with the value the spec gives, due with
their latency; an unconfigured ring reads 0, and a ring whose descriptor is late stalls RSTAT (log entries 16 and 76). -/
def Obligations.StateReadsComplete : Prop :=
  (∀ (s : State) (c : Ctx) (i : Instr) (e : Bool) (d : Reg) (rs : List Ref) (lat : Nat) (x : U64),
    Runs s c → stateRead s c i = some (e, d, rs, lat, x) → Reads c rs → Room c d →
    (∀ e2 d2 m k n, i = .rstat e2 d2 m k n → ¬ DescriptorOwed c m.toNat) →
    (∀ n m, ((c.cell n).ring m).conf = true → ringFits ((c.cell n).ring m)) → (∀ n, slotFits (vget .empty c.motif.slots n)) →
    exec i s = goesTo s ((lands c d x lat).advance e 1)) ∧
  (∀ (s : State) (c : Ctx) (e : Bool) (d : Reg) (m : BitVec 3) (k n : BitVec 4), Runs s c → k.toNat < 9 → Room c d →
    DescriptorOwed c m.toNat → exec (.rstat e d m k n) s = goesTo s (stalled c))

namespace Sys2Proof.Claims

/-- The forms that read values at issue or bring a result: whether this one brings one, and what it reads. -/
def Brings (s : State) (c : Ctx) (i : Instr) (result : Prop) (rs : List Ref) : Prop :=
  (∃ e d x, (arithmetic c i = some (e, d, rs, x) ∨ immediate c i = some (e, d, rs, x)) ∧ (result ↔ d ≠ 0#5)) ∨
  (∃ e d n x, (product c i = some (e, d, rs, n, x) ∨ stateRead s c i = some (e, d, rs, n, x)) ∧ (result ↔ d ≠ 0#5)) ∨
  (∃ e w, target c i = some (e, rs, w) ∧ (result ↔ ∀ x, w ≠ .c 0#3 x)) ∨
  (∃ e n k v l, branch i = some (e, n, k, v, l) ∧ rs = [.b n, .c k] ∧ (result ↔ l = true ∧ c.rc k = v)) ∨
  (∃ e d a x w g, load c i = some (e, d, a, x, w, g) ∧ rs = [.s a] ∧ (result ↔ d ≠ 0#5)) ∨
  (∃ e op d a b w f, atomic c i = some (e, op, d, a, b, w, f) ∧ rs = atomicReads op d a b ∧ (result ↔ d ≠ 0#5)) ∨
  (∃ e a b x w, store c i = some (e, b, a, x, w) ∧ rs = [.s a, .s b] ∧ ¬ result) ∨
  (∃ e d, ((∃ r, i = .srd e d r) ∨ (∃ sc f, sc.toNat ≤ 4 ∧ i = .fread e d sc f) ∨ i = .tapemk e d) ∧ rs = [] ∧ (result ↔ d ≠ 0#5)) ∨
  (∃ e d a q, i = .launch e d a q ∧ rs = [.s a] ∧ (result ↔ d ≠ 0#5))

end Sys2Proof.Claims

/-- R26, R27, R273, R283: with 48 results in flight an instruction that would bring one more stalls: nothing of it happens, and nothing more
issues in the cycle; an instruction that reads a value which is owed by a late access stalls as well (log entry 76); with DEBUGCTL.PEND
set, a read of another value with a pending bit raises EARLY_READ precise at the instruction, and it has no other effect. So for every
form of the sequencer that brings a result, and for the stores and branches that only read. -/
def Obligations.FullRecordStallsAndEarlyReadTraps : Prop :=
  ∀ (s : State) (c : Ctx) (i : Instr) (result : Prop) (rs : List Ref), Runs s c → Brings s c i result rs →
    (Reads c rs → result → 48 ≤ c.inFlight → exec i s = goesTo s (stalled c)) ∧
    (c.late rs = true → exec i s = goesTo s (stalled c)) ∧
    (∀ t, bit c.sys.debugCtl 0 = true → c.late rs = false → rs.findSome? c.pending = some t →
      exec i s = goesTo s (trapped c 0x0C#8 0#8 t))

/-! System registers and queue control (R38, R142, R143, R162, R167, R168). -/

namespace Sys2Proof.Claims

/-- R143: the registers that exist. -/
def listed (n : Nat) : Prop :=
  n ≤ 0x004 ∨ 0x010 ≤ n ∧ n ≤ 0x013 ∨ 0x020 ≤ n ∧ n ≤ 0x027 ∨ 0x030 ≤ n ∧ n ≤ 0x032 ∨ 0x040 ≤ n ∧ n ≤ 0x042 ∨
    0x050 ≤ n ∧ n ≤ 0x064 ∨ 0x070 ≤ n ∧ n ≤ 0x074 ∨ n = 0x080 ∨ n = 0x090 ∨ n = 0x091 ∨ n = 0x0A0 ∨ n = 0x0B0 ∨ n = 0x0B1

/-- R143: those that an SWR never writes. -/
def readOnlyReg (n : Nat) : Prop :=
  n ≤ 0x004 ∨ n = 0x010 ∨ n = 0x013 ∨ n = 0x064 ∨ 0x070 ≤ n ∧ n ≤ 0x074 ∨ n = 0x080 ∨ n = 0x090 ∨ n = 0x091 ∨ n = 0x0A0

/-- R143: those that an SWR writes in trap context alone. -/
def trapOnlyReg (n : Nat) : Prop := 0x020 ≤ n ∧ n ≤ 0x027

/-- R143: the registers whose 64 bits an SWR of a value without reserved bits writes and an SRD reads back whole. -/
def plainReg (n : Nat) : Prop :=
  n = 0x011 ∨ n = 0x021 ∨ n = 0x022 ∨ n = 0x023 ∨ n = 0x024 ∨ n = 0x025 ∨ n = 0x027 ∨ n = 0x030 ∨ n = 0x031 ∨ n = 0x032 ∨ n = 0x040 ∨
    n = 0x041 ∨ n = 0x042 ∨ 0x050 ≤ n ∧ n ≤ 0x063 ∨ n = 0x0B0

/-- Some of the bits lo to hi is 1. -/
def anyBit (x : U64) (lo hi : Nat) : Prop := x.toNat / 2 ^ lo % 2 ^ (hi + 1 - lo) ≠ 0

/-- R38, R78, R100, R104, R112, R117, R245, R249, R275, R282: the values that a register refuses: reserved bits, DSLOT = 3, a vector base
outside trap memory's place for it, a rounding mode above 4, a tolerance that is negative, no number or subnormal. (Log entry 85: a
tolerance of -0 is negative.) -/
def RegRefuses (n : Nat) (x : U64) : Prop :=
  n = 0x012 ∧ anyBit x 32 63 ∨ n = 0x020 ∧ x.getLsbD 1 = true ∧ x.getLsbD 2 = true ∨ n = 0x021 ∧ (anyBit x 21 63 ∨ anyBit x 18 19) ∨
    n = 0x022 ∧ anyBit x 0 1 ∨
    n = 0x025 ∧ (x.toNat % 64 ≠ 0 ∨ x.toNat < 0x00FF000000100000 ∨ 0x00FF000000101900 < x.toNat) ∨
    n = 0x027 ∧ (anyBit x 56 63 ∨ x.getLsbD 2 = true ∨ x.getLsbD 5 = true ∧ anyBit x 23 55) ∨
    (n = 0x031 ∨ n = 0x032 ∨ n = 0x063) ∧ anyBit x 32 63 ∨ n = 0x040 ∧ (anyBit x 4 31 ∨ 5 ≤ x.toNat % 8) ∨
    n = 0x041 ∧ (anyBit x 17 63 ∨ anyBit x 3 15) ∨
    n = 0x042 ∧ (anyBit x 33 47 ∨ x.getLsbD 31 = true ∨ x.toNat / 2 ^ 23 % 256 = 255 ∨ x.toNat / 2 ^ 23 % 256 = 0 ∧ x.toNat % 2 ^ 23 ≠ 0) ∨
    0x050 ≤ n ∧ n < 0x058 ∧ (anyBit x 56 63 ∨ anyBit x 0 5) ∨ 0x058 ≤ n ∧ n < 0x060 ∧ (x.getLsbD 61 = true ∨ anyBit x 56 59) ∨
    0x060 ≤ n ∧ n ≤ 0x062 ∧ (anyBit x 23 63 ∨ anyBit x 0 3) ∨ n = 0x0B0 ∧ anyBit x 16 63

end Sys2Proof.Claims

/-- R142, R143, R162: SRD reads every listed register, in either context, with latency 2, and an unlisted number is ILLEGAL 0x08;
SWR of a read-only register is ILLEGAL 0x0A and of one for trap context PRIVILEGED in normal context, and neither changes a
register. -/
def Obligations.SystemRegisterRights : Prop :=
  ∀ (s : State) (c : Ctx) (e : Bool) (d a : Reg) (r : BitVec 12), Runs s c → Reads c [.s a] →
    (listed r.toNat → Room c d → ∃ x, c.sysRead (s.env s.cur) r.toNat = some x ∧
      exec (.srd e d r) s = goesTo s ((lands c d x 2).advance e 1)) ∧
    (¬ listed r.toNat → Room c d → exec (.srd e d r) s = goesTo s (trapped c 0x01#8 0x08#8 (wordsOf (.srd e d r)))) ∧
    (¬ listed r.toNat → exec (.swr e a r) s = goesTo s (trapped c 0x01#8 0x08#8 (wordsOf (.swr e a r)))) ∧
    (readOnlyReg r.toNat → exec (.swr e a r) s = goesTo s (trapped c 0x01#8 0x0A#8 (wordsOf (.swr e a r)))) ∧
    (trapOnlyReg r.toNat → c.trap.tctx = false →
      exec (.swr e a r) s = goesTo s (trapped c 0x02#8 0#8 (wordsOf (.swr e a r))))

/-- R38, R78, R142, R143, R162, R285: an SWR that may write takes effect at issue: of the registers that hold what is written, the next
SRD reads the value written; HOLDMAX takes at least 256; PREEMPT takes NOTIFY alone; REFSTAT takes FORCED alone; STATUS takes
PACC and DSLOT; a reserved value is ILLEGAL 0x08. No general register changes. -/
def Obligations.SwrWritesItsRegister : Prop :=
  ∀ (s : State) (c : Ctx) (e : Bool) (a : Reg) (r : BitVec 12), Runs s c → Reads c [.s a] → listed r.toNat →
    ¬ readOnlyReg r.toNat → (trapOnlyReg r.toNat → c.trap.tctx = true) →
    (RegRefuses r.toNat (c.rs a) → exec (.swr e a r) s = goesTo s (trapped c 0x01#8 0x08#8 (wordsOf (.swr e a r)))) ∧
    (¬ RegRefuses r.toNat (c.rs a) → 0x050 ≤ r.toNat → r.toNat < 0x060 → c.adj.mode ≠ .off →
      exec (.swr e a r) s = goesTo s (trapped c 0x01#8 0x09#8 (wordsOf (.swr e a r)))) ∧
    (¬ RegRefuses r.toNat (c.rs a) → (0x050 ≤ r.toNat → r.toNat < 0x060 → c.adj.mode = .off) →
      let d := c.sysWrite r.toNat (c.rs a)
      exec (.swr e a r) s = goesTo s (d.advance e 1) ∧
      d.norm = c.norm ∧ d.trapBank = c.trapBank ∧ d.landings = c.landings ∧ d.cells = c.cells ∧ d.scratch = c.scratch ∧
      d.trapMem = c.trapMem ∧ d.eng = c.eng ∧ d.issue = c.issue ∧ d.raised = c.raised ∧ d.id = c.id ∧
      (plainReg r.toNat → ∀ v, d.sysRead v r.toNat = some (c.rs a)) ∧
      (r.toNat = 0x012 → ∀ v, d.sysRead v 0x012 = some (if (c.rs a).toNat < 256 then 256#64 else c.rs a)) ∧
      (r.toNat = 0x026 → d.preempt = { c.preempt with notify := bit (c.rs a) 18 }) ∧
      (r.toNat = 0x0B1 → d = { c with sys := { c.sys with forced := (c.rs a).setWidth 32 } }) ∧
      (r.toNat = 0x020 → d = { c with trap := { c.trap with pacc := bit (c.rs a) 3, dslot := (c.rs a >>> 1).setWidth 2 } }))

namespace Sys2Proof.Claims

/-- The unit of a queue. -/
def unit (q : Nat) : EngUnit := if q = 0 then .q0 else if q = 1 then .q1 else if q = 2 then .q2 else .q3

/-- R168, R278: every command that a queue held for the running context of execution has started, finished its occupancy and written its
results, and for Q3 the column jobs have retired. -/
def QueueIdle (c : Ctx) (q : Nat) : Prop :=
  (∀ x ∈ vget [] c.eng.q q, x.trap ≠ c.trap.tctx) ∧
    (if c.trap.tctx = true then vget 0 c.eng.ownTrap q else vget 0 c.eng.free q) ≤ c.now ∧
    (∀ l ∈ c.landings, l.trap = c.trap.tctx → l.unit ≠ unit q) ∧ (∀ o ∈ c.towerOps, o.trap = c.trap.tctx → o.unit ≠ unit q) ∧
    (q = 1 → ∀ f ∈ c.flights, f.trap ≠ c.trap.tctx) ∧ (q = 3 → (if c.trap.tctx = true then c.trapJobs else c.jobs) = 0)

/-- An access that waits for the return from the handler: the trapped one (R152), one whose service a stop has abandoned (R397), or, while
a handler runs, a wait on a flag of the normal context and what stands behind it. (Log entries 58 and 74.) -/
def Stands (c : Ctx) (a : GAccess) : Prop :=
  c.trap.access = some a.ord ∧ a.trap = false ∨ a.walk = .abandoned ∨
    c.trap.tctx = true ∧ a.trap = false ∧
      ∃ w ∈ c.glob.queue, (∃ f, w.kind = .fwait f) ∧ w.trap = false ∧ w.performed = false ∧ (w.id = a.id ∨ w.ord < a.ord)

/-- R85: the stores and atomics of the sequencer are performed, but for those that wait for the return from a handler, and views hold its
writes. (Log entry 58: of both contexts of execution.) -/
def StoresSeen (s : State) (c : Ctx) (views : BitVec 5) : Prop :=
  (∀ a ∈ c.glob.queue, (a.kind = .store ∨ ∃ op, a.kind = .atomic op) → a.performed = true ∨ Stands c a) ∧
    ∀ w ∈ s.writes, w.agent = c.agent → w.views &&& views = views

/-- R85, R163: every column job that the context has issued has retired. -/
def JobsDone (c : Ctx) : Prop := c.jobs = 0 ∧ ∀ x ∈ vget [] c.eng.q 3, x.trap ≠ c.trap.tctx

/-- A write of a column job of the context (R80). -/
def ofJobs (c : Ctx) (w : GWrite) : Prop := ∃ sh, w.agent = .job sh c.id.taskId.toNat c.index

end Sys2Proof.Claims

/-- R85, R163, R167, R168: QFLUSH removes from the queues of its mask every entry of the normal context and leaves the rest; QSYNC goes on
when its queues are done and else stalls the sequencer; a FENCE with LL, LS or SS goes on at once, and one with SL or ENG stalls until
the stores are applied and the column jobs have retired; it stands between the accesses before and after it, and with ENG the writes
of the retired jobs precede the later accesses as by an acquire at its scope. Which accesses FENCE counts is log entry 58, and that these
forms stall at their instruction log entry 68. -/
def Obligations.QueueControlAndFences : Prop :=
  ∀ (s : State) (c : Ctx) (e : Bool), Runs s c →
    (∀ m : BitVec 4, m ≠ 0#4 → ∃ d : Ctx, exec (.qflush e m) s = goesTo s (d.advance e 1) ∧
      (∀ q : Nat, q < 4 → vget [] d.eng.q q =
        if m.getLsbD q then (vget [] c.eng.q q).filter (fun x => x.trap) else vget [] c.eng.q q) ∧
      d.eng.seq = c.eng.seq ∧ Same c { d with eng := c.eng } ∧ d.issue = c.issue ∧ d.raised = c.raised) ∧
    (∀ m : BitVec 4, m ≠ 0#4 → (∀ q : Nat, q < 4 → m.getLsbD q = true → QueueIdle c q) →
      exec (.qsync e m) s = goesTo s (c.advance e 1)) ∧
    (∀ (m : BitVec 4) (q : Nat), m.getLsbD q = true → q < 4 → ¬ QueueIdle c q →
      exec (.qsync e m) s = goesTo s (stalled c)) ∧
    (∀ (sc : BitVec 3) (k : BitVec 5), sc.toNat ≤ 4 → k ≠ 0#5 →
      (k.getLsbD 3 = true → StoresSeen s c (scopeViews (dieOf c.id.panel) sc)) → (k.getLsbD 4 = true → JobsDone c) →
      ∃ p : List Past, exec (.fence e sc k) s = goesTo s (({ c with glob := { c.glob with
          fences := c.glob.fences ++ [({ ord := c.ord, scope := sc, kinds := k } : FenceMark)], past := c.glob.past ++ p } }).advance e 1) ∧
        (k.getLsbD 4 = false → p = []) ∧ (∀ q ∈ p, q.ord = c.ord ∧ q.acquire = true ∧ q.scope = sc) ∧
        (k.getLsbD 4 = true → ∀ w ∈ s.writes, ofJobs c w → ∃ q ∈ p, w.id ∈ q.writes)) ∧
    (∀ (sc : BitVec 3) (k : BitVec 5), sc.toNat ≤ 4 →
      (k.getLsbD 3 = true ∧ ¬ StoresSeen s c (scopeViews (dieOf c.id.panel) sc) ∨ k.getLsbD 4 = true ∧ ¬ JobsDone c) →
      exec (.fence e sc k) s = goesTo s (stalled c))

/-! Traps, return, exit and waits (R51, R54, R164 to R166, R271 to R279). -/

/-- R51, R54, R164 to R166: TRAP raises TRAPINSN with its immediate in TVAL; RFT in normal context is PRIVILEGED, and in trap context
it issues once that context's commands are done and stalls before; EXIT ends issue and is forbidden in a loop body and in trap
context; YIELD does nothing unless a graceful request is pending outside a loop and trap context; a WAITEV with a latch of its set
clears it and wakes issue 13 cycles on, and without one it waits. -/
def Obligations.TrapReturnExitYieldAndEvents : Prop :=
  ∀ (s : State) (c : Ctx) (e : Bool), Runs s c →
    (∀ i : BitVec 12, exec (.trap e i) s = goesTo s (trapped c 0x12#8 0#8 (i.setWidth 64))) ∧
    (c.trap.tctx = false → exec (.rft e) s = goesTo s (trapped c 0x02#8 0#8 (wordsOf (.rft e)))) ∧
    (c.trap.tctx = true → c.trapIdle = true →
      exec (.rft e) s = goesTo s (({ c with issue := { c.issue with leaving := true } }).advance e 1)) ∧
    (c.trap.tctx = true → c.trapIdle = false →
      exec (.rft e) s = goesTo s (stalled c)) ∧
    exec (.exit false) s = goesTo s (trapped c 0x01#8 0x08#8 (wordsOf (.exit false))) ∧
    (c.trap.tctx = true ∨ c.loop ≠ none →
      exec (.exit true) s = goesTo s (trapped c 0x01#8 0x09#8 (wordsOf (.exit true)))) ∧
    (c.trap.tctx = false → c.loop = none → exec (.exit true) s =
      goesTo s (({ c with issue := { c.issue with exited := true, exitPc := c.issue.pc } }).advance true 1)) ∧
    (c.preempt.req = false ∨ c.trap.tctx = true ∨ c.loop ≠ none → exec (.yield e) s = goesTo s (c.advance e 1)) ∧
    (c.preempt.req = true → c.trap.tctx = false → c.loop = none →
      exec (.yield e) s = goesTo s (({ c with issue := { c.issue with yields := true } }).advance e 1)) ∧
    (∀ v : BitVec 4, v ≠ 0#4 → c.latch.bits &&& v = 0#4 → exec (.waitev e v) s =
      goesTo s ((awaiting c (.waitev v)).advance e 1)) ∧
    (∀ v : BitVec 4, c.latch.bits &&& v ≠ 0#4 → ∃ l : Latches, l.bits = c.latch.bits &&& ~~~v ∧ exec (.waitev e v) s =
      goesTo s (({ awaiting c (.wake (c.now + 13)) with latch := l }).advance e 1))

namespace Sys2Proof.Claims

/-- Nothing of the panel falls due or is under way in the cycle that ends. -/
def Idle (c : Ctx) : Prop :=
  c.landings = [] ∧ c.towerOps = [] ∧ c.windows = [] ∧ c.flights = [] ∧ c.glob.queue = [] ∧ c.eng.q = Vector.replicate 4 []

/-- The first packet that has not issued: between two passes of a hardware loop the first of the body when another pass is to come, and else
the one behind the body (R44, R49, R274). -/
def nextPacket (c : Ctx) : U64 :=
  match c.loop with
  | some l =>
    if l.pending = false then c.issue.pc
    else if l.pass < l.passes ∨ l.draining = true ∧ l.leftAt < l.whole then l.body else l.body + BitVec.ofNat 64 (4 * l.len)
  | none => c.issue.pc

/-- The sequencer stands between packets, in no wait and not at an exit. -/
def Ready (c : Ctx) : Prop := c.issue.wait = .none ∧ c.issue.exited = false ∧ c.issue.again = none ∧ c.issue.leaving = false

end Sys2Proof.Claims

/-- R271, R274 to R278: taking a trap at the end of its cycle, the stop cycle. The trap registers hold the cause with its subcode and
queue, the address, the value and the queues' cuts; DSLOT the delay slots that remain; the normal bank stands in the entry record
of trap memory and elsewhere trap memory is unchanged; the handler at TRAPBASE + 64 code has its first packet 16 wall cycles on;
the normal bank, the cells and scratch stay. In trap context the panel halts instead. An uncorrectable error in an uncommitted
re-executable node enters no handler; the cycle in which the context first raises one is kept (R370). -/
def Obligations.TrapEntrySavesAndVectors : Prop :=
  ∀ (s : State) (c : Ctx) (p : Nat) (r : Raise), s.ctx? p = some c → Idle c → Ready c → c.raised = [r] → r.access = none →
    Store.wf c.trapMem = true →
    ∃ t d, exec (.resultWriteback p) s = .next t ∧ t.ctx? p = some d ∧ d.raised = [] ∧ d.norm = c.norm ∧ d.trapBank = c.trapBank ∧
      d.cells = c.cells ∧ d.scratch = c.scratch ∧ d.sys = c.sys ∧ d.adj = c.adj ∧ t.hbm = s.hbm ∧ t.hostMem = s.hostMem ∧
    (c.trap.tctx = false → r.code ≠ 0x10#8 ∨ c.id.node = false →
      d.trap.tctx = true ∧
      d.trap.cause.toNat = (match r.queue with | some q => 2 ^ 20 + 2 ^ 16 * q | none => 0) % 2 ^ 64 + 2 ^ 8 * r.sub.toNat + r.code.toNat ∧
      d.trap.tpc = (if r.queue = none then r.pc else nextPacket c) ∧ d.trap.tval = r.tval ∧ d.trap.pacc = false ∧
      (∀ q : Nat, q < 4 → (d.trap.tcut >>> (16 * q)).setWidth 16 = vget 0#16 c.eng.seq q) ∧
      d.trap.dslot = BitVec.ofNat 2 c.issue.slots ∧ d.time.ptime = c.time.ptime + 1 ∧ d.tcyc = c.time.ptime - c.time.anchor ∧
      d.issue.pc = 0x00FF000000100000#64 + BitVec.ofNat 64 (64 * (c.trap.offset.toNat + r.code.toNat)) ∧
      d.issue.wait = .until (s.gcyc + 16) ∧
      bytesAt d.trapMem 0x1E00 8 = 0 ∧
      (∀ k, 1 ≤ k → k < 32 → bytesAt d.trapMem (0x1E00 + 8 * k) 8 = (vget 0#64 c.norm.s k).toNat) ∧
      (∀ k, k < 4 → bytesAt d.trapMem (0x1F00 + 8 * k) 8 = (vget 0#64 c.norm.b k).toNat) ∧
      Store.get d.trapMem 0x1F20 = c.norm.c ||| 1#8 ∧
      Store.get d.trapMem 0x1F21 = (if c.issue.slots ≠ 0 ∧ c.issue.taken = true then 1#8 else 0#8) ∧
      (c.issue.slots ≠ 0 → c.issue.taken = true → bytesAt d.trapMem 0x1F28 8 = c.issue.target.toNat) ∧
      (∀ a, a < 0x1E00 ∨ 0x2000 ≤ a → Store.get d.trapMem a = Store.get c.trapMem a)) ∧
    (c.trap.tctx = true → r.code ≠ 0x10#8 ∨ c.id.node = false → d.trap = { c.trap with
      halted := some r, errorAt := if r.code = 0x10#8 then c.trap.errorAt.or (some s.gcyc) else c.trap.errorAt } ∧ d.trapMem = c.trapMem) ∧
    (r.code = 0x10#8 → c.id.node = true → d.preempt.stop = .reexec ∧
      d.trap = { c.trap with errorAt := c.trap.errorAt.or (some s.gcyc) } ∧ d.trapMem = c.trapMem)

/-- R276, R279: the return of an RFT. The normal bank is reloaded from the entry record, TCTX is 0, issue resumes at TPC with the delay
slots of DSLOT and the pending target, 16 wall cycles on, and panel time goes on from the stop; a deferred fault enters its handler
instead; after UNCORRECTABLE the task is aborted. -/
def Obligations.ReturnRestoresTheRecord : Prop :=
  ∀ (s : State) (c : Ctx) (p : Nat), s.ctx? p = some c → Idle c → c.raised = [] → c.trap.tctx = true → c.issue.leaving = true →
    c.trap.pacc = false →
    ∃ t d, exec (.resultWriteback p) s = .next t ∧ t.ctx? p = some d ∧ d.cells = c.cells ∧ d.scratch = c.scratch ∧
      d.trapBank = c.trapBank ∧ d.trapMem = c.trapMem ∧ d.time.ptime = c.time.ptime ∧ t.hbm = s.hbm ∧
    (c.trap.deferred = none → c.trap.fatal = false →
      d.trap.tctx = false ∧ d.issue.pc = c.trap.tpc ∧ d.issue.wait = .until (s.gcyc + 16) ∧ d.issue.slots = c.trap.dslot.toNat ∧
      d.issue.taken = (bit (Store.get c.trapMem 0x1F21) 0 && decide (c.trap.dslot ≠ 0#2)) ∧
      d.issue.target.toNat = bytesAt c.trapMem 0x1F28 8 ∧
      (∀ k, 1 ≤ k → k < 32 → (vget 0#64 d.norm.s k).toNat = bytesAt c.trapMem (0x1E00 + 8 * k) 8) ∧
      (∀ k, k < 4 → (vget 0#64 d.norm.b k).toNat = bytesAt c.trapMem (0x1F00 + 8 * k) 8) ∧
      (∀ k : BitVec 3, k ≠ 0#3 → d.rc k = bit (Store.get c.trapMem 0x1F20) k.toNat) ∧
      d.preempt.stop = (if c.trap.preempts then .draining else c.preempt.stop)) ∧
    (∀ f, c.trap.deferred = some f →
      d.trap.tctx = true ∧ d.trap.cause = f.cause ∧ d.trap.tval = f.tval ∧ d.trap.deferred = none ∧ d.trap.tpc = c.trap.tpc ∧
      d.issue.pc = 0x00FF000000100000#64 + BitVec.ofNat 64 (64 * (c.trap.offset.toNat + f.cause.toNat % 256)) ∧
      d.issue.wait = .until (s.gcyc + 16)) ∧
    (c.trap.deferred = none → c.trap.fatal = true → d.preempt.stop = .aborted)

/-- R277: of the traps raised in one cycle, an uncorrectable error goes first, then the sequencer's, then the engine fault of the lowest
queue; and one is taken whenever any was raised. -/
def Obligations.TrapPriority : Prop :=
  ∀ (rs : List Raise),
    let place (r : Raise) : Nat := if r.code = 0x10#8 then 0 else match r.queue with | none => 1 | some q => q + 2
    (rs ≠ [] → ∃ r, pickRaise rs = some r ∧ r ∈ rs ∧ ∀ x ∈ rs, place r ≤ place x) ∧ (rs = [] → pickRaise rs = none)

/-! Rings, speculation, flags (R65 to R74, R240 to R244, R262 to R268). -/

namespace Sys2Proof.Claims

/-- Ring m is configured in the panel. -/
def Conf (c : Ctx) (m : Reg) : Prop := m.toNat < 8 ∧ ((c.cell 0).ring m.toNat).conf = true

/-- Ring m of cell k after the ring instructions that stand before the present one in its packet. -/
def ringSeen (c : Ctx) (k m : Nat) : Ring :=
  (c.landings.filterMap fun l => match l.write with
    | .ring j op => if j = m ∧ l.unit = .seq ∧ l.trap = c.trap.tctx ∧ l.due = c.now then some op else none
    | _ => none).foldl Ring.apply ((c.cell k).ring m)

/-- The context with a change of ring m in every cell, made at the end of the cycle. -/
def changesRing (c : Ctx) (m : Nat) (op : RingOp) : Ctx :=
  { c with landings := c.landings ++ [⟨c.ord, .seq, c.now, c.trap.tctx, .ring m op, .zero⟩] }

/-- A form of R242 and R243 that needs n counts of ring m in every cell: the counts in a cell, and the effect. -/
def ringForm : Instr → Option (Bool × Reg × BitVec 9 × (Ring → Nat) × RingOp)
  | .rclaim e m n => some (e, m, n, Ring.free, .claim n.toNat)
  | .rpub e m n => some (e, m, n, fun y => (y.ttail - y.tail).toNat, .pub n.toNat)
  | .rpop e m n => some (e, m, n, Ring.filled, .pop n.toNat)
  | _ => none

/-- A wait of R242: its ring, its count, what it counts in a cell, and the wait. -/
def ringWait : Instr → Option (Bool × Reg × BitVec 9 × (Ring → Nat) × Wait)
  | .waitf e m n => some (e, m, n, Ring.filled, .waitf m.toNat n.toNat)
  | .waite e m n => some (e, m, n, Ring.free, .waite m.toNat n.toNat)
  | _ => none

/-- The ring and the count that a form of R240 names. -/
def ringNames : Instr → Option (Reg × Nat)
  | .waitf _ m n | .waite _ m n | .rclaim _ m n | .rpub _ m n | .rpop _ m n => some (m, n.toNat)
  | _ => none

end Sys2Proof.Claims

/-- R69, R240 to R243: RCFG asks for its descriptor word as a load does; WAITF and WAITE go on 13 cycles after their counts are there
and wait before; RCLAIM, RPUB and RPOP change the ring in every cell at the end of the cycle, and a count that a cell falls short of
raises SCHEDULE with no effect: the lowest-numbered such cell gives the count in TVAL. A ring field above 7 or a count above 256, an
unconfigured ring, and a count above COUNT in a wait, are ILLEGAL; a ring whose descriptor is late stalls (log entries 16 and 76). -/
def Obligations.RingInstructions : Prop :=
  (∀ (s : State) (c : Ctx) (i : Instr) (m : Reg) (n : Nat), Runs s c → ringNames i = some (m, n) →
    (8 ≤ m.toNat ∨ 256 < n → exec i s = goesTo s (trapped c 0x01#8 0x08#8 (wordsOf i))) ∧
    (m.toNat < 8 → n ≤ 256 → DescriptorOwed c m.toNat → exec i s = goesTo s (stalled c)) ∧
    (m.toNat < 8 → n ≤ 256 → ¬ DescriptorOwed c m.toNat → ¬ Conf c m → exec i s = goesTo s (trapped c 0x01#8 0x08#8 (wordsOf i)))) ∧
  (∀ (s : State) (c : Ctx) (i : Instr) (e : Bool) (m : Reg) (n : BitVec 9) (f : Ring → Nat) (w : Wait), Runs s c →
    ringWait i = some (e, m, n, f, w) → Conf c m → n.toNat ≤ 256 → ¬ DescriptorOwed c m.toNat →
    let there : Prop := ∀ k, k < 16 → n.toNat ≤ f ((c.cell k).ring m.toNat)
    let count := ((c.cell 0).ring m.toNat).count
    (count < n.toNat → exec i s = goesTo s (trapped c 0x01#8 0x08#8 (wordsOf i))) ∧
    (n.toNat ≤ count → there → exec i s = goesTo s ((awaiting c (.wake (c.now + 13))).advance e 1)) ∧
    (n.toNat ≤ count → ¬ there → exec i s = goesTo s ((awaiting c w).advance e 1))) ∧
  (∀ (s : State) (c : Ctx) (i : Instr) (e : Bool) (m : Reg) (n : BitVec 9) (f : Ring → Nat) (op : RingOp), Runs s c →
    ringForm i = some (e, m, n, f, op) → Conf c m → n.toNat ≤ 256 → ¬ DescriptorOwed c m.toNat →
    let barred : Prop := i = .rpub e m n ∧ (((c.cell 0).ring m.toNat).explicit = false ∨ ((c.cell 0).ring m.toNat).spec = true)
    (barred → exec i s = goesTo s (trapped c 0x01#8 0x09#8 (wordsOf i))) ∧
    (¬ barred → (∀ k, k < 16 → n.toNat ≤ f (ringSeen c k m.toNat)) → exec i s = goesTo s ((changesRing c m.toNat op).advance e 1)) ∧
    (∀ k, ¬ barred → k < 16 → f (ringSeen c k m.toNat) < n.toNat → (∀ j, j < k → n.toNat ≤ f (ringSeen c j m.toNat)) →
      exec i s = goesTo s (trapped c 0x06#8 0#8 (BitVec.ofNat 64 (f (ringSeen c k m.toNat) % 2 ^ 32 * 2 ^ 32 + n.toNat))))) ∧
  (∀ (s : State) (c : Ctx) (e : Bool) (m a : Reg) (i : BitVec 12), Runs s c → Reads c [.s a] →
    let x := c.rs a + i.signExtend 64
    let tlb := (s.sheet (sheetOf s.cur)).tlb
    let asks (ok : GAccess → Prop) : Prop := ∃ g : GAccess,
      exec (.rcfg e m a i) s =
        goesTo s (({ c with glob := { c.glob with queue := c.glob.queue ++ [g] }, fresh := c.fresh + 1 }).advance e 1) ∧
      g.kind = .rcfg m.toNat ∧ g.va = x ∧ g.width = 8 ∧ g.ord = c.ord ∧ g.trap = c.trap.tctx ∧ g.dest = none ∧ ok g
    (8 ≤ m.toNat → exec (.rcfg e m a i) s = goesTo s (trapped c 0x01#8 0x08#8 (wordsOf (.rcfg e m a i)))) ∧
    (m.toNat < 8 → 2 ^ 56 ≤ x.toNat → exec (.rcfg e m a i) s = goesTo s (trapped c 0x05#8 0#8 x)) ∧
    (m.toNat < 8 → x.toNat < 2 ^ 56 → x.toNat % 8 ≠ 0 → exec (.rcfg e m a i) s = goesTo s (trapped c 0x03#8 0#8 x)) ∧
    (m.toNat < 8 → x.toNat < 2 ^ 56 → x.toNat % 8 = 0 → x.toNat / 2 ^ 48 = 0xFF → (∀ tm off, ¬ At x tm off) →
      exec (.rcfg e m a i) s = goesTo s (trapped c 0x05#8 0#8 x)) ∧
    (m.toNat < 8 → x.toNat < 2 ^ 56 → x.toNat % 8 = 0 → x.toNat / 2 ^ 48 ≠ 0xFF ∨ (∃ tm off, At x tm off) → Watched c x true false →
      exec (.rcfg e m a i) s = goesTo s (trapped c 0x13#8 0#8 x)) ∧
    (m.toNat < 8 → x.toNat % 8 = 0 → Unwatched c true false → ∀ tm off, At x tm off → Sound c tm off →
      asks fun g => g.performed = true ∧ g.value = some (BitVec.ofNat 64 (bytesAt (c.localMem tm) off 8))) ∧
    (m.toNat < 8 → x.toNat < 2 ^ 56 → x.toNat / 2 ^ 48 ≠ 0xFF → x.toNat % 8 = 0 → Unwatched c true false →
      (∀ t, tlbFind tlb false x.toNat = some t →
        asks fun g => g.performed = false ∧ g.due = c.now + 11 ∧ g.walk = .done (t.pa + (x.toNat - t.va)) (bit t.leaf 4) (bit t.leaf 6)) ∧
      (tlbFind tlb false x.toNat = none → asks fun g => g.performed = false ∧ g.due = c.now + 11 ∧ g.walk = .walking)))

/-- R68, R69, R243: what a claim, a publication and a pop do to a ring. A pop of n advances HEAD by n and HSLOT n times around COUNT,
PHASE flips when it wraps, and every tag stays; a pop stops at TAIL. A claim and a publication change CLAIMED and TAIL alone. -/
def Obligations.RingCountsMove : Prop :=
  ∀ (r : Ring) (n : Nat), 1 ≤ r.count → r.hslot < r.count → n ≤ r.count → n ≤ r.filled →
    r.apply (.claim n) = { r with claimed := r.claimed + BitVec.ofNat 32 n } ∧
    r.apply (.pub n) = { r with tail := r.tail + BitVec.ofNat 32 n } ∧
    r.apply (.pop n) = { r with
      head := r.head + BitVec.ofNat 32 n, hslot := (r.hslot + n) % r.count,
      phase := Bool.xor r.phase (decide (r.count ≤ r.hslot + n)) } ∧
    (r.apply (.pop n)).filled = r.filled - n ∧ (∀ s, (r.apply (.pop n)).tag s = r.tag s) ∧
    (∀ k, (r.apply (.pop (r.filled + k))).head = r.tail)

namespace Sys2Proof.Claims

/-- The cycle of the panel that ends has nothing to write but w, which the running context made (R26). -/
def OnlyWrite (c : Ctx) (ord : Nat) (w : Write) : Prop :=
  c.landings = [⟨ord, .seq, c.now, c.trap.tctx, w, .zero⟩] ∧ c.towerOps = [] ∧ c.flights = [] ∧ c.glob.queue = [] ∧ c.raised = [] ∧
    c.issue.leaving = false

/-- R265: the ring q is r after n of its tentative fills are accepted: those from K = MARK + n on are taken back, their slots pending
again, and what is under way among them writes bytes alone. -/
def Accepted (r q : Ring) (n : U32) : Prop :=
  let k := r.mark + n
  let undone := r.nexttag - k
  let place (j : Nat) : Nat := (r.mfslot + n.toNat + j) % r.count
  let held : U32 := if 0 < (r.ttail - k).toInt then k else r.ttail
  if r.spec = false then q = r
  else if 0 < undone.toInt then
    q = { r with tags := q.tags, fills := q.fills, claimed := r.claimed - undone, nexttag := k, fslot := (r.mfslot + n.toNat) % r.count,
                 ttail := held, tail := held, spec := false } ∧
      q.fills = r.fills.map (fun f => if 0 ≤ (f.tag - k).toInt then { f with discarded := true } else f) ∧
      (∀ j, j < undone.toNat → q.tag (place j) = k + BitVec.ofNat 32 j - BitVec.ofNat 32 r.count) ∧
      (∀ s, (∀ j, j < undone.toNat → s ≠ place j) → q.tag s = r.tag s)
  else q = { r with tail := r.ttail, spec := false }

end Sys2Proof.Claims

/-- R262 to R265: SPMARK marks its rings at the end of the cycle and captures RNGCTR; SPACCEPT and SPDROP end the speculation and set
RNGCTR from the capture, and SPACCEPT of more fills than a marked ring holds raises SCHEDULE, with the count of the lowest cell and ring
and its own in TVAL; each is ILLEGAL where its entry says, and a mark of no ring, of an unconfigured or of an explicit ring is; a ring
whose descriptor is late stalls it (log entries 16 and 76). At the end of the cycle a mark takes NEXTTAG and FSLOT; an accept of n, which
a drop makes with 0, publishes n tentative fills and takes the others back; under SPEC a fill that completes publishes only when it
lies before the mark. -/
def Obligations.SpeculationMarksAndEnds : Prop :=
  (∀ (s : State) (c : Ctx) (e : Bool), Runs s c →
    exec (.spmark e 0#8) s = goesTo s (trapped c 0x01#8 0x08#8 (wordsOf (.spmark e 0#8))) ∧
    (∀ m : BitVec 8, (∃ k, k < 8 ∧ m.getLsbD k = true ∧ DescriptorOwed c k) → exec (.spmark e m) s = goesTo s (stalled c)) ∧
    (∀ m : BitVec 8, (∀ k, k < 8 → m.getLsbD k = true → ¬ DescriptorOwed c k) → (∃ k, k < 8 ∧ m.getLsbD k = true ∧
        (((c.cell 0).ring k).conf = false ∨ ((c.cell 0).ring k).explicit = true)) →
      exec (.spmark e m) s = goesTo s (trapped c 0x01#8 0x08#8 (wordsOf (.spmark e m)))) ∧
    (∀ m : BitVec 8, m ≠ 0#8 → (∀ k, k < 8 → m.getLsbD k = true → ¬ DescriptorOwed c k ∧
        ((c.cell 0).ring k).conf = true ∧ ((c.cell 0).ring k).explicit = false) →
      (c.spec.active = true → exec (.spmark e m) s = goesTo s (trapped c 0x01#8 0x09#8 (wordsOf (.spmark e m)))) ∧
      (c.spec.active = false → ∃ d : Ctx, exec (.spmark e m) s = goesTo s (d.advance e 1) ∧
        d.spec = ⟨m, true, c.sys.rngctr⟩ ∧
        d.landings = c.landings ++ ((List.range 8).filter fun k => m.getLsbD k).map
          (fun k => (⟨c.ord, .seq, c.now, c.trap.tctx, .ring k .mark, .zero⟩ : Landing)) ∧
        Same c { d with landings := c.landings, spec := c.spec } ∧ d.issue = c.issue ∧ d.raised = c.raised)) ∧
    (c.spec.active = false → exec (.spdrop e) s = goesTo s (trapped c 0x01#8 0x09#8 (wordsOf (.spdrop e)))) ∧
    (c.spec.active = true → (∀ k, k < 8 → c.spec.rings.getLsbD k = true → ¬ DescriptorOwed c k) → ∃ d : Ctx, exec (.spdrop e) s = goesTo s (d.advance e 1) ∧
      d.spec.active = false ∧ d.spec.rings = 0#8 ∧ d.sys = { c.sys with rngctr := c.spec.ctr } ∧ d.cells = c.cells ∧
      d.landings = c.landings ++ ((List.range 8).filter fun k => c.spec.rings.getLsbD k).map
        (fun k => (⟨c.ord, .seq, c.now, c.trap.tctx, .ring k (.accept 0#32), .zero⟩ : Landing))) ∧
    (∀ a, Reads c [.s a] → c.spec.active = false →
      exec (.spaccept e a) s = goesTo s (trapped c 0x01#8 0x09#8 (wordsOf (.spaccept e a)))) ∧
    (∀ a, Reads c [.s a] → c.spec.active = true → (∀ k, k < 8 → c.spec.rings.getLsbD k = true → ¬ DescriptorOwed c k) →
      let n : Nat := (c.rs a).toNat % 2 ^ 32
      let marked (k m : Nat) : Prop := k < 16 ∧ m < 8 ∧ c.spec.rings.getLsbD m = true ∧ (ringSeen c k m).spec = true
      let there (k m : Nat) : Int := ((ringSeen c k m).ttail - (ringSeen c k m).mark).toInt
      (n = 0 ∨ (∀ k m, marked k m → (n : Int) ≤ there k m) → ∃ d : Ctx, exec (.spaccept e a) s = goesTo s (d.advance e 1) ∧
        d.spec.active = false ∧ d.sys = { c.sys with rngctr := c.spec.ctr + BitVec.ofNat 32 n } ∧ d.cells = c.cells ∧
        d.landings = c.landings ++ ((List.range 8).filter fun k => c.spec.rings.getLsbD k).map
          (fun k => (⟨c.ord, .seq, c.now, c.trap.tctx, .ring k (.accept (BitVec.ofNat 32 n)), .zero⟩ : Landing))) ∧
      (∀ k m, 0 < n → marked k m → there k m < n → (∀ k' m', marked k' m' → there k' m' < n → k < k' ∨ k = k' ∧ m ≤ m') →
        exec (.spaccept e a) s =
          goesTo s (trapped c 0x06#8 0#8 (BitVec.ofNat 64 (((ringSeen c k m).ttail - (ringSeen c k m).mark).toNat * 2 ^ 32 + n)))))) ∧
  (∀ (s : State) (p : Nat) (c : Ctx) (m k ord : Nat) (w : Write), s.ctx? p = some c → m < 8 → k < 16 → OnlyWrite c ord w →
    let r := (c.cell k).ring m
    ∃ t d, exec (.resultWriteback p) s = .next t ∧ t.ctx? p = some d ∧
      (let q := (d.cell k).ring m
       (w = .ring m .mark → q = { r with mark := r.nexttag, mfslot := r.fslot, spec := true }) ∧
       (∀ n, w = .ring m (.accept n) → 0 < r.count → r.tags.length = r.count →
         (0 < (r.nexttag - (r.mark + n)).toInt → (r.nexttag - (r.mark + n)).toNat ≤ r.count) → Accepted r q n) ∧
       (∀ (f : Fill) (o : Nat), w = .fillDone k m o → r.fills = [f] → f.ord = some o → f.written = none → f.discarded = false → f.slot < r.tags.length → 0 < s.gcyc →
         q.ttail = f.tag + 1#32 ∧ q.tag f.slot = f.tag ∧ (∀ s, s ≠ f.slot → q.tag s = r.tag s) ∧ q.fills = [] ∧
         (r.explicit = false → r.spec = true →
           q.tail = if (f.tag - r.mark).toInt < 0 then f.tag + 1#32 else r.tail) ∧
         (r.explicit = false → r.spec = false → q.tail = f.tag + 1#32) ∧ (r.explicit = true → q.tail = r.tail)) ∧
       (∀ op j, w = .ring m op → j ≠ m → (d.cell k).ring j = (c.cell k).ring j)))

/-- R54, R72 to R74, R266 to R268: the flag instructions go to the flag's home: FINC and FSET with their operand, releases that never stop
issue; FREAD with its result due 12 cycles on, an acquire; FWAIT and BAR wait, BAR after an increment of 1, which a BAR that issues
again after a stop does not repeat. An index beyond the
partition raises PROTECTION. A FINC that names a target word goes to that package, and a reserved bit of the word is ILLEGAL. -/
def Obligations.FlagInstructions : Prop :=
  ∀ (s : State) (c : Ctx) (e : Bool) (d a : Reg) (sc : BitVec 3) (f : BitVec 8), Runs s c → sc.toNat ≤ 4 → Reads c [.s a] →
    let out (k : GKind) (x : U64) (dst : Option Reg) (acq rel : Bool) (g : GAccess) : Prop :=
      g.kind = k ∧ g.data = x ∧ g.dest = dst ∧ g.acquire = acq ∧ g.release = rel ∧ g.scope = sc ∧ g.ord = c.ord ∧
        g.trap = c.trap.tctx ∧ g.due = c.now + 11 ∧ g.performed = false ∧ g.returned = false
    let sent (gs : List GAccess) : Ctx := { c with glob := { c.glob with queue := c.glob.queue ++ gs }, fresh := c.fresh + gs.length }
    let waits (d : Ctx) (bar : Bool) : Ctx :=
      awaiting d (.flag f.toNat ((c.rs a).setWidth 32) sc bar)
    (c.flagSize ≤ f.toNat →
      (∀ i ∈ ([.finc e 0#5 a sc f, .fwait e a sc f, .fset e a sc f, .bar e a sc f] : List Instr),
        exec i s = goesTo s (trapped c 0x05#8 0#8 (f.setWidth 64))) ∧
      (Room c d → exec (.fread e d sc f) s = goesTo s (trapped c 0x05#8 0#8 (f.setWidth 64)))) ∧
    (f.toNat < c.flagSize →
      (∃ g, out (.finc f.toNat) (c.rs a) none false true g ∧ exec (.finc e 0#5 a sc f) s = goesTo s ((sent [g]).advance e 1)) ∧
      (∃ g, out (.fset f.toNat) (c.rs a) none false true g ∧ exec (.fset e a sc f) s = goesTo s ((sent [g]).advance e 1)) ∧
      (Room c d → ∃ g, out (.fread f.toNat) 0#64 (if d = 0#5 then none else some d) true false g ∧
        exec (.fread e d sc f) s = goesTo s ((sent [g]).advance e 1)) ∧
      (∃ g, out (.fwait f.toNat) (c.rs a) none true false g ∧
        exec (.fwait e a sc f) s = goesTo s ((waits (sent [g]) false).advance e 1)) ∧
      (c.issue.again = none → ∃ g h, out (.finc f.toNat) 1#64 none false true g ∧ out (.fwait f.toNat) (c.rs a) none true false h ∧
        exec (.bar e a sc f) s = goesTo s ((waits (sent [g, h]) true).advance e 1)) ∧
      (c.issue.again ≠ none → ∃ h, out (.fwait f.toNat) (c.rs a) none true false h ∧
        exec (.bar e a sc f) s = goesTo s ((waits (sent [h]) true).advance e 1))) ∧
    (d ≠ 0#5 → sc = 4#3 → Reads c [.s a, .s d] →
      ((c.rs d).toNat / 2 ^ 32 ≠ 0 ∨ (c.rs d).toNat % 16 ≠ 0 →
        exec (.finc e d a sc f) s = goesTo s (trapped c 0x01#8 0x08#8 (wordsOf (.finc e d a sc f)))) ∧
      ((c.rs d).toNat / 2 ^ 32 = 0 → (c.rs d).toNat % 16 = 0 →
        ∃ g, out (.remoteFinc f.toNat ((c.rs d).setWidth 32)) (c.rs a) none false true g ∧
          exec (.finc e d a sc f) s = goesTo s ((sent [g]).advance e 1)))

/-! The adjoint mode, launches, commitment, format words and motif slots (R206, R207, R247, R253, R254, R257 to R259, R269, R270). -/

namespace Sys2Proof.Claims

/-- The packet under way begins with this number in program order. -/
def packetFrom (c : Ctx) : Nat := c.ord - c.issue.done

/-- R247: work of Q0 of earlier packets is not done. -/
def VectorUnder (c : Ctx) : Prop :=
  (∃ x ∈ vget [] c.eng.q 0, x.trap = c.trap.tctx ∧ x.ord < packetFrom c) ∨
    (∃ l ∈ c.landings, l.unit = .q0 ∧ l.trap = c.trap.tctx) ∨ ∃ o ∈ c.towerOps, o.unit = .q0 ∧ o.trap = c.trap.tctx

/-- R247: a column command or job in REV mode of an earlier packet has not retired. -/
def ReverseUnder (c : Ctx) : Prop := c.revJobs ≠ 0 ∨ ∃ x ∈ vget [] c.eng.q 3, x.admode = .rev ∧ x.ord < packetFrom c

/-- R253, R254: an entry of Q0 of an earlier packet has not started. -/
def TapeWaits (c : Ctx) : Prop := ∃ x ∈ vget [] c.eng.q 0, x.trap = c.trap.tctx ∧ x.ord < packetFrom c

/-- R258: a load of a motif is under way, or a started MOT has outputs to come. -/
def MotifUnder (c : Ctx) : Prop := c.motif.load ≠ none ∨ c.now < if c.trap.tctx = true then c.motif.untilTrap else c.motif.until_

/-- Two ranges share a byte. -/
def Share (a : Int) (n : Nat) (b : Int) (m : Nat) : Prop := ∃ x : Int, a ≤ x ∧ x < a + n ∧ b ≤ x ∧ x < b + m

/-- R247: a region or its shadow leaves its space, or meets another region, a shadow, or in towers the tape. -/
def RegionFails (c : Ctx) (r : DRegion) : Prop :=
  let top : Int := if r.global = true then 2 ^ 56 else 2 ^ 23
  let tape := c.adj.tapeBase.toNat
  let tapeLen := c.adj.tapeLim.toNat - c.adj.tapeBase.toNat
  ¬ ((r.base : Int) < top ∧ (r.base : Int) + r.len ≤ top ∧ 0 ≤ r.shadow ∧ r.shadow + r.shadowLen ≤ top) ∨
    (∃ q ∈ c.adj.regions, q.global = r.global ∧
      (q.n ≠ r.n ∧ Share q.base q.len r.base r.len ∨ Share q.base q.len r.shadow r.shadowLen ∨ Share r.base r.len q.shadow q.shadowLen)) ∨
    (r.global = false ∧ (Share r.base r.len tape tapeLen ∨ Share r.shadow r.shadowLen tape tapeLen))

end Sys2Proof.Claims

/-- R247, R253, R254: ADMODE takes the mode for its packet and everything later once earlier Q0 work and REV jobs are done, and stalls
before; it is forbidden in trap context, and the lowest region that fails a check is ILLEGAL with its number in TVAL. TAPEMK writes the
spill count and the tape pointer; TAPECUT cuts back to a mark, raises TAPE_REFILL for a mark that was spilled, and refuses one that
lies ahead; the two wait for Q0's entries of their own context of execution alone (log entry 58). -/
def Obligations.AdjointModeAndTapeMarks : Prop :=
  ∀ (s : State) (c : Ctx) (e : Bool), Runs s c →
    (∀ m : BitVec 2, m ≠ 3#2 → c.trap.tctx = true → m = 0#2 ∨ (∀ r ∈ c.adj.regions, ¬ RegionFails c r) →
      exec (.admode e m) s = goesTo s (trapped c 0x01#8 0x09#8 (wordsOf (.admode e m)))) ∧
    (∀ m : BitVec 2, m ≠ 3#2 → c.trap.tctx = false → VectorUnder c ∨ ReverseUnder c → exec (.admode e m) s = goesTo s (stalled c)) ∧
    (∀ m : BitVec 2, m ≠ 3#2 → c.trap.tctx = false → ¬ VectorUnder c → ¬ ReverseUnder c →
      m = 0#2 ∨ (∀ r ∈ c.adj.regions, ¬ RegionFails c r) →
      ∃ d : Ctx, exec (.admode e m) s = goesTo s (d.advance e 1) ∧
        d.adj = { c.adj with mode := if m = 1#2 then .fwd else if m = 2#2 then .rev else .off, gen := c.adj.gen + 1 } ∧
        Same c { d with adj := c.adj, eng := c.eng } ∧
        (∀ q : Nat, q < 4 → ∀ x ∈ vget [] d.eng.q q, packetFrom c ≤ x.ord → x.admode = d.adj.mode)) ∧
    (∀ (m : BitVec 2) (r : DRegion), m = 1#2 ∨ m = 2#2 → c.trap.tctx = true ∨ ¬ VectorUnder c ∧ ¬ ReverseUnder c →
      r ∈ c.adj.regions → RegionFails c r → (∀ q ∈ c.adj.regions, RegionFails c q → r.n ≤ q.n) →
      exec (.admode e m) s = goesTo s (trapped c 0x01#8 0x08#8 (BitVec.ofNat 64 r.n))) ∧
    exec (.admode e 3#2) s = goesTo s (trapped c 0x01#8 0x08#8 (wordsOf (.admode e 3#2))) ∧
    (TapeWaits c → (∀ d : Reg, Room c d → exec (.tapemk e d) s = goesTo s (stalled c)) ∧
      ∀ a : Reg, Reads c [.s a] → exec (.tapecut e a) s = goesTo s (stalled c)) ∧
    (∀ d : Reg, Room c d → ¬ TapeWaits c → exec (.tapemk e d) s =
      goesTo s ((lands c d (BitVec.ofNat 64 (c.adj.tapeSpill.toNat * 2 ^ 32 + c.adj.tapePtr.toNat)) 1).advance e 1)) ∧
    (∀ a : Reg, Reads c [.s a] → ¬ TapeWaits c →
      let x := (c.rs a).toNat
      ((x / 2 ^ 23 % 2 ^ 9 ≠ 0 ∨ x % 16 ≠ 0 ∨ c.adj.tapeSpill.toNat < x / 2 ^ 32) →
        exec (.tapecut e a) s = goesTo s (trapped c 0x01#8 0x08#8 (wordsOf (.tapecut e a)))) ∧
      (x / 2 ^ 23 % 2 ^ 9 = 0 → x % 16 = 0 → x / 2 ^ 32 < c.adj.tapeSpill.toNat →
        exec (.tapecut e a) s = goesTo s (trapped c 0x0A#8 0#8 (c.rs a))) ∧
      (x / 2 ^ 23 % 2 ^ 9 = 0 → x % 16 = 0 → x / 2 ^ 32 = c.adj.tapeSpill.toNat → c.adj.tapePtr.toNat < x % 2 ^ 23 →
        exec (.tapecut e a) s = goesTo s (trapped c 0x01#8 0x08#8 (wordsOf (.tapecut e a)))) ∧
      (x / 2 ^ 23 % 2 ^ 9 = 0 → x % 16 = 0 → x / 2 ^ 32 = c.adj.tapeSpill.toNat → x % 2 ^ 23 ≤ c.adj.tapePtr.toNat →
        exec (.tapecut e a) s =
          goesTo s (({ c with adj := { c.adj with tapePtr := BitVec.ofNat 23 (x % 2 ^ 23) } }).advance e 1)))

namespace Sys2Proof.Claims

/-- R270: the context's writes, its launches and the writes of its retired jobs are performed and stand in every die's view. -/
def AllSeen (s : State) (c : Ctx) : Prop :=
  StoresSeen s c 0x0F#5 ∧ (∀ a ∈ c.glob.queue, ∀ q, a.kind = .launch q → a.performed = true) ∧
    ∀ w ∈ s.writes, ofJobs c w → w.views &&& 0x0F#5 = 0x0F#5

end Sys2Proof.Claims

/-- R57, R269, R270: LAUNCH asks for the packet's 64 bytes, a release at package scope, with its result due 12 cycles on; a misaligned
packet and one in the local window trap. NCOMMIT commits once the context's jobs have retired and its writes are seen in every
die, and stalls before; after it a store traps. -/
def Obligations.LaunchAndCommit : Prop :=
  ∀ (s : State) (c : Ctx) (e : Bool), Runs s c →
    (∀ (d a : Reg) (q : BitVec 6), Reads c [.s a] → Room c d → (c.rs a).toNat < 2 ^ 56 →
      ((c.rs a).toNat % 64 ≠ 0 → exec (.launch e d a q) s = goesTo s (trapped c 0x03#8 0#8 (c.rs a))) ∧
      ((c.rs a).toNat % 64 = 0 → (c.rs a).toNat / 2 ^ 48 = 0xFF → exec (.launch e d a q) s = goesTo s (trapped c 0x05#8 0#8 (c.rs a))) ∧
      ((c.rs a).toNat % 64 = 0 → (c.rs a).toNat / 2 ^ 48 ≠ 0xFF → Watched c (c.rs a) true false →
        exec (.launch e d a q) s = goesTo s (trapped c 0x13#8 0#8 (c.rs a))) ∧
      ((c.rs a).toNat % 64 = 0 → (c.rs a).toNat / 2 ^ 48 ≠ 0xFF → Unwatched c true false →
        ∃ x : GAccess, exec (.launch e d a q) s =
            goesTo s (({ c with glob := { c.glob with queue := c.glob.queue ++ [x] }, fresh := c.fresh + 1 }).advance e 1) ∧
          x.kind = .launch q.toNat ∧ x.va = c.rs a ∧ x.width = 64 ∧ x.release = true ∧ x.scope = 3#3 ∧
          x.dest = (if d = 0#5 then none else some d) ∧ x.due = c.now + 11 ∧ x.performed = false ∧
          x.walk = (match tlbFind (s.sheet (sheetOf s.cur)).tlb false (c.rs a).toNat with
            | some t => .done (t.pa + ((c.rs a).toNat - t.va)) (bit t.leaf 4) (bit t.leaf 6)
            | none => .walking))) ∧
    (c.trap.tctx = true → exec (.ncommit e) s = goesTo s (trapped c 0x01#8 0x09#8 (wordsOf (.ncommit e)))) ∧
    (c.trap.tctx = false → ¬ JobsDone c ∨ ¬ AllSeen s c →
      exec (.ncommit e) s = goesTo s (stalled c)) ∧
    (c.trap.tctx = false → JobsDone c → AllSeen s c →
      exec (.ncommit e) s = goesTo s (({ c with committed := true }).advance e 1)) ∧
    (∀ (i : Instr) (f : Bool) (b a : Reg) (x : U64) (w : Nat), store c i = some (f, b, a, x, w) → c.committed = true →
      Reads c [.s a, .s b] → x.toNat < 2 ^ 56 → x.toNat / 2 ^ 48 ≠ 0xFF → x.toNat % w = 0 → Unwatched c false true →
      exec i s = goesTo s (trapped c 0x05#8 0#8 x))

/-- R206, R207, R257 to R259, R341: FMT pushes a scalar on the format queue, and a seventeenth is ILLEGAL; FMTCLR empties it but for
what its own cycle pushed. MLD makes its slot LOADING, clears the bindings that name it and asks for the image's first words;
MBIND binds a code to a loaded slot, stalls while it loads, and is ILLEGAL for any other; MUNBIND unbinds. The model's choice: which words
MLD asks for first (log entry 20), when it may issue after a MOT (52), what its count counts (55), and where the watch looks (93). -/
def Obligations.FormatWordsAndMotifSlots : Prop :=
  ∀ (s : State) (c : Ctx) (e : Bool), Runs s c →
    (∀ a : Reg, Reads c [.s a] →
      (16 ≤ c.fmt.queue.length → exec (.fmt e a) s = goesTo s (trapped c 0x01#8 0x08#8 (wordsOf (.fmt e a)))) ∧
      (c.fmt.queue.length < 16 → ∃ d : Ctx, exec (.fmt e a) s = goesTo s (d.advance e 1) ∧
        d.fmt.queue = c.fmt.queue ++ [c.rs a] ∧ Same c { d with fmt := c.fmt } ∧ d.issue = c.issue)) ∧
    (∃ d : Ctx, exec (.fmtclr e) s = goesTo s (d.advance e 1) ∧ (c.fmt.pushAt ≠ s.gcyc → d.fmt.queue = []) ∧
      (c.fmt.pushAt = s.gcyc → d.fmt.queue = c.fmt.queue.drop (c.fmt.queue.length - c.fmt.pushed)) ∧
      Same c { d with fmt := c.fmt } ∧ d.issue = c.issue) ∧
    (∀ (a : Reg) (k : BitVec 3), Reads c [.s a] → MotifUnder c →
      exec (.mld e a k) s = goesTo s (stalled c)) ∧
    (∀ (a : Reg) (k : BitVec 3), Reads c [.s a] → ¬ MotifUnder c → (c.rs a).toNat < 2 ^ 56 →
      ((c.rs a).toNat % 64 ≠ 0 → exec (.mld e a k) s = goesTo s (trapped c 0x03#8 0#8 (c.rs a))) ∧
      ((c.rs a).toNat % 64 = 0 → (c.rs a).toNat / 2 ^ 48 = 0xFF → exec (.mld e a k) s = goesTo s (trapped c 0x05#8 0#8 (c.rs a))) ∧
      ((c.rs a).toNat % 64 = 0 → (c.rs a).toNat / 2 ^ 48 ≠ 0xFF → Watched c (c.rs a) true false →
        exec (.mld e a k) s = goesTo s (trapped c 0x13#8 0#8 (c.rs a))) ∧
      ((c.rs a).toNat % 64 = 0 → (c.rs a).toNat / 2 ^ 48 ≠ 0xFF → Unwatched c true false → ∃ d : Ctx, exec (.mld e a k) s = goesTo s (d.advance e 1) ∧
        vget .empty d.motif.slots k.toNat = .loading ∧
        (∀ j, j ≠ k.toNat → vget .empty d.motif.slots j = vget .empty c.motif.slots j) ∧
        (∀ n, vget none d.motif.bind n = if vget none c.motif.bind n = some k then none else vget none c.motif.bind n) ∧
        (∃ l : Loading, d.motif.load = some l ∧ l.slot = k.toNat ∧ l.addr = c.rs a ∧ l.left = 2048) ∧
        (∃ x y : GAccess, d.glob.queue = c.glob.queue ++ [x, y] ∧ x.kind = .image ∧ y.kind = .image ∧ x.va = c.rs a ∧
          y.va = c.rs a + 8#64) ∧ d.cells = c.cells ∧ d.norm = c.norm ∧ d.landings = c.landings)) ∧
    (∀ (k : BitVec 3) (n : BitVec 6),
      (vget .empty c.motif.slots k.toNat = .loading →
        exec (.mbind e k n) s = goesTo s (stalled c)) ∧
      (∀ m, vget .empty c.motif.slots k.toNat = .loaded m → exec (.mbind e k n) s =
        goesTo s (({ c with motif := { c.motif with bind := vset c.motif.bind n.toNat (some k) } }).advance e 1)) ∧
      (vget .empty c.motif.slots k.toNat = .empty → exec (.mbind e k n) s = goesTo s (trapped c 0x01#8 0x08#8 0#64)) ∧
      (∀ j, j ≤ 2 → vget .empty c.motif.slots k.toNat = .failed j →
        exec (.mbind e k n) s = goesTo s (trapped c 0x01#8 0x08#8 (BitVec.ofNat 64 (3 + 256 * j))))) ∧
    (∀ n : BitVec 6, exec (.munbind e n) s =
      goesTo s (({ c with motif := { c.motif with bind := vset c.motif.bind n.toNat none } }).advance e 1))

/-! Engine commands: issue (R31 to R35, R45, R131, R139). -/

namespace Sys2Proof.Claims

/-- The E bit, start field and guard of a two-word command (R131, R132); a motif call is never guarded (R32). -/
def header : Instr → Option (Bool × BitVec 16 × BitVec 5)
  | .vadd h _ _ _ _ | .vsub h _ _ _ _ | .vmul h _ _ _ _ | .vmulh h _ _ _ _ | .vmin h _ _ _ _ | .vmax h _ _ _ _ | .vabs h _ _ _
  | .vneg h _ _ _ | .vadds h _ _ _ _ | .vsubs h _ _ _ _ | .vavg h _ _ _ _ | .vmad h _ _ _ _ | .vdot4 h _ _ _ _
  | .vfadd h _ _ _ _ _ | .vfsub h _ _ _ _ _ | .vfmul h _ _ _ _ _ | .vfma h _ _ _ _ _ | .vfmin h _ _ _ _ | .vfmax h _ _ _ _
  | .vfabs h _ _ _ | .vfneg h _ _ _ | .vfscl h _ _ _ _ _ | .vfclass h _ _ _ | .vcvt h _ _ _ _ _ _ | .vpack h _ _ _ _
  | .vunpk h _ _ _ _ | .vqnt h _ _ _ _ _ | .vdqnt h _ _ _ _ | .vand h _ _ _ _ | .vor h _ _ _ _ | .vxor h _ _ _ _
  | .vlop3 h _ _ _ _ _ | .vshl h _ _ _ _ | .vshr h _ _ _ _ | .vsra h _ _ _ _ | .vrot h _ _ _ _ | .vfunl h _ _ _ _ _
  | .vfunr h _ _ _ _ _ | .vpopc h _ _ _ | .vclz h _ _ _ | .vcmp h _ _ _ _ _ | .vfcmp h _ _ _ _ _ | .vsel h _ _ _ _
  | .vvote h _ _ _ _ | .vpcnt h _ _ _ | .vperm h _ _ _ _ | .vbcast h _ _ _ | .vlane h _ _ _ _ | .vshuf h _ _ _ _ _
  | .vred h _ _ _ _ | .vscan h _ _ _ _ | .vidx h _ _ _ | .vcell h _ _ _ | .vld h _ _ _ | .vst h _ _ _ | .vlds h _ _ _ _
  | .vsts h _ _ _ _ | .vldx h _ _ _ _ | .vstx h _ _ _ _ | .vldr h _ _ _ _ _ | .vstr h _ _ _ _ | .vaadd h _ _ _ _
  | .vafadd h _ _ _ _ | .vamin h _ _ _ _ | .vamax h _ _ _ _ | .vaswap h _ _ _ _ | .vexp2 h _ _ _ | .vlog2 h _ _ _
  | .vrcp h _ _ _ | .vrsq h _ _ _ | .vtanh h _ _ _ | .vdiv h _ _ _ _ _ | .vrnd h _ _ _ _ _ | .vgumb h _ _ _ _
  | .vsamp h _ _ _ _ | .vshift h _ _ _ _ _ | .vxsend h _ _ _ | .vxrecv h _ _ _ | .vbord h _ _ _ | .vjoin h _ _ _
  | .mma h _ _ _ _ _ _ _ _ _ | .mmaq h _ _ _ _ _ _ _ _ _ _ | .mmab h _ _ _ _ _ _ _ _ _ _ | .mzero h _ _ | .mtov h _ _ _ _
  | .mtot h _ _ _ _ _ _ | .cfill h _ _ _ | .cdrain h _ _ _ | .cpair h _ _ _ | .cgath h _ _ _ | .ccopy h _ _ _
  | .cred h _ _ _ => some (h.e, h.start, h.c)
  | .vplog h _ _ _ _ => some (h.e, h.start, h.c)
  | .mot h _ _ _ _ _ _ _ => some (h.e, h.start, 0#5)
  | _ => none

/-- The queue that a command's major selects (R31). -/
def queueOf (i : Instr) : Nat :=
  match (encode i).head?.map majorOf with
  | some 0x3A => 2
  | some 0x3B => 1
  | some 0x3C => 3
  | _ => 0

/-- The condition that guards a command. -/
def guard (k : BitVec 5) : BitVec 3 := k.setWidth 3

/-- The command with no guard and ready: every field but those two as it stands. -/
def plain : Instr → Instr
  | .vadd h a b c d => .vadd { h with start := 0xFFFF#16, c := 0#5 } a b c d
  | .vsub h a b c d => .vsub { h with start := 0xFFFF#16, c := 0#5 } a b c d
  | .vmul h a b c d => .vmul { h with start := 0xFFFF#16, c := 0#5 } a b c d
  | .vmulh h a b c d => .vmulh { h with start := 0xFFFF#16, c := 0#5 } a b c d
  | .vmin h a b c d => .vmin { h with start := 0xFFFF#16, c := 0#5 } a b c d
  | .vmax h a b c d => .vmax { h with start := 0xFFFF#16, c := 0#5 } a b c d
  | .vabs h a b c => .vabs { h with start := 0xFFFF#16, c := 0#5 } a b c
  | .vneg h a b c => .vneg { h with start := 0xFFFF#16, c := 0#5 } a b c
  | .vadds h a b c d => .vadds { h with start := 0xFFFF#16, c := 0#5 } a b c d
  | .vsubs h a b c d => .vsubs { h with start := 0xFFFF#16, c := 0#5 } a b c d
  | .vavg h a b c d => .vavg { h with start := 0xFFFF#16, c := 0#5 } a b c d
  | .vmad h a b c d => .vmad { h with start := 0xFFFF#16, c := 0#5 } a b c d
  | .vdot4 h a b c d => .vdot4 { h with start := 0xFFFF#16, c := 0#5 } a b c d
  | .vfadd h a b c d e => .vfadd { h with start := 0xFFFF#16, c := 0#5 } a b c d e
  | .vfsub h a b c d e => .vfsub { h with start := 0xFFFF#16, c := 0#5 } a b c d e
  | .vfmul h a b c d e => .vfmul { h with start := 0xFFFF#16, c := 0#5 } a b c d e
  | .vfma h a b c d e => .vfma { h with start := 0xFFFF#16, c := 0#5 } a b c d e
  | .vfmin h a b c d => .vfmin { h with start := 0xFFFF#16, c := 0#5 } a b c d
  | .vfmax h a b c d => .vfmax { h with start := 0xFFFF#16, c := 0#5 } a b c d
  | .vfabs h a b c => .vfabs { h with start := 0xFFFF#16, c := 0#5 } a b c
  | .vfneg h a b c => .vfneg { h with start := 0xFFFF#16, c := 0#5 } a b c
  | .vfscl h a b c d e => .vfscl { h with start := 0xFFFF#16, c := 0#5 } a b c d e
  | .vfclass h a b c => .vfclass { h with start := 0xFFFF#16, c := 0#5 } a b c
  | .vcvt h a b c d e f => .vcvt { h with start := 0xFFFF#16, c := 0#5 } a b c d e f
  | .vpack h a b c d => .vpack { h with start := 0xFFFF#16, c := 0#5 } a b c d
  | .vunpk h a b c d => .vunpk { h with start := 0xFFFF#16, c := 0#5 } a b c d
  | .vqnt h a b c d e => .vqnt { h with start := 0xFFFF#16, c := 0#5 } a b c d e
  | .vdqnt h a b c d => .vdqnt { h with start := 0xFFFF#16, c := 0#5 } a b c d
  | .vand h a b c d => .vand { h with start := 0xFFFF#16, c := 0#5 } a b c d
  | .vor h a b c d => .vor { h with start := 0xFFFF#16, c := 0#5 } a b c d
  | .vxor h a b c d => .vxor { h with start := 0xFFFF#16, c := 0#5 } a b c d
  | .vlop3 h a b c d e => .vlop3 { h with start := 0xFFFF#16, c := 0#5 } a b c d e
  | .vshl h a b c d => .vshl { h with start := 0xFFFF#16, c := 0#5 } a b c d
  | .vshr h a b c d => .vshr { h with start := 0xFFFF#16, c := 0#5 } a b c d
  | .vsra h a b c d => .vsra { h with start := 0xFFFF#16, c := 0#5 } a b c d
  | .vrot h a b c d => .vrot { h with start := 0xFFFF#16, c := 0#5 } a b c d
  | .vfunl h a b c d e => .vfunl { h with start := 0xFFFF#16, c := 0#5 } a b c d e
  | .vfunr h a b c d e => .vfunr { h with start := 0xFFFF#16, c := 0#5 } a b c d e
  | .vpopc h a b c => .vpopc { h with start := 0xFFFF#16, c := 0#5 } a b c
  | .vclz h a b c => .vclz { h with start := 0xFFFF#16, c := 0#5 } a b c
  | .vcmp h a b c d e => .vcmp { h with start := 0xFFFF#16, c := 0#5 } a b c d e
  | .vfcmp h a b c d e => .vfcmp { h with start := 0xFFFF#16, c := 0#5 } a b c d e
  | .vsel h a b c d => .vsel { h with start := 0xFFFF#16, c := 0#5 } a b c d
  | .vvote h a b c d => .vvote { h with start := 0xFFFF#16, c := 0#5 } a b c d
  | .vpcnt h a b c => .vpcnt { h with start := 0xFFFF#16, c := 0#5 } a b c
  | .vperm h a b c d => .vperm { h with start := 0xFFFF#16, c := 0#5 } a b c d
  | .vbcast h a b c => .vbcast { h with start := 0xFFFF#16, c := 0#5 } a b c
  | .vlane h a b c d => .vlane { h with start := 0xFFFF#16, c := 0#5 } a b c d
  | .vshuf h a b c d e => .vshuf { h with start := 0xFFFF#16, c := 0#5 } a b c d e
  | .vred h a b c d => .vred { h with start := 0xFFFF#16, c := 0#5 } a b c d
  | .vscan h a b c d => .vscan { h with start := 0xFFFF#16, c := 0#5 } a b c d
  | .vidx h a b c => .vidx { h with start := 0xFFFF#16, c := 0#5 } a b c
  | .vcell h a b c => .vcell { h with start := 0xFFFF#16, c := 0#5 } a b c
  | .vld h a b c => .vld { h with start := 0xFFFF#16, c := 0#5 } a b c
  | .vst h a b c => .vst { h with start := 0xFFFF#16, c := 0#5 } a b c
  | .vlds h a b c d => .vlds { h with start := 0xFFFF#16, c := 0#5 } a b c d
  | .vsts h a b c d => .vsts { h with start := 0xFFFF#16, c := 0#5 } a b c d
  | .vldx h a b c d => .vldx { h with start := 0xFFFF#16, c := 0#5 } a b c d
  | .vstx h a b c d => .vstx { h with start := 0xFFFF#16, c := 0#5 } a b c d
  | .vldr h a b c d e => .vldr { h with start := 0xFFFF#16, c := 0#5 } a b c d e
  | .vstr h a b c d => .vstr { h with start := 0xFFFF#16, c := 0#5 } a b c d
  | .vaadd h a b c d => .vaadd { h with start := 0xFFFF#16, c := 0#5 } a b c d
  | .vafadd h a b c d => .vafadd { h with start := 0xFFFF#16, c := 0#5 } a b c d
  | .vamin h a b c d => .vamin { h with start := 0xFFFF#16, c := 0#5 } a b c d
  | .vamax h a b c d => .vamax { h with start := 0xFFFF#16, c := 0#5 } a b c d
  | .vaswap h a b c d => .vaswap { h with start := 0xFFFF#16, c := 0#5 } a b c d
  | .vexp2 h a b c => .vexp2 { h with start := 0xFFFF#16, c := 0#5 } a b c
  | .vlog2 h a b c => .vlog2 { h with start := 0xFFFF#16, c := 0#5 } a b c
  | .vrcp h a b c => .vrcp { h with start := 0xFFFF#16, c := 0#5 } a b c
  | .vrsq h a b c => .vrsq { h with start := 0xFFFF#16, c := 0#5 } a b c
  | .vtanh h a b c => .vtanh { h with start := 0xFFFF#16, c := 0#5 } a b c
  | .vdiv h a b c d e => .vdiv { h with start := 0xFFFF#16, c := 0#5 } a b c d e
  | .vrnd h a b c d e => .vrnd { h with start := 0xFFFF#16, c := 0#5 } a b c d e
  | .vgumb h a b c d => .vgumb { h with start := 0xFFFF#16, c := 0#5 } a b c d
  | .vsamp h a b c d => .vsamp { h with start := 0xFFFF#16, c := 0#5 } a b c d
  | .vshift h a b c d e => .vshift { h with start := 0xFFFF#16, c := 0#5 } a b c d e
  | .vxsend h a b c => .vxsend { h with start := 0xFFFF#16, c := 0#5 } a b c
  | .vxrecv h a b c => .vxrecv { h with start := 0xFFFF#16, c := 0#5 } a b c
  | .vbord h a b c => .vbord { h with start := 0xFFFF#16, c := 0#5 } a b c
  | .vjoin h a b c => .vjoin { h with start := 0xFFFF#16, c := 0#5 } a b c
  | .mma h a b c d e f g i j => .mma { h with start := 0xFFFF#16, c := 0#5 } a b c d e f g i j
  | .mmaq h a b c d e f g i j k => .mmaq { h with start := 0xFFFF#16, c := 0#5 } a b c d e f g i j k
  | .mmab h a b c d e f g i j k => .mmab { h with start := 0xFFFF#16, c := 0#5 } a b c d e f g i j k
  | .mzero h a b => .mzero { h with start := 0xFFFF#16, c := 0#5 } a b
  | .mtov h a b c d => .mtov { h with start := 0xFFFF#16, c := 0#5 } a b c d
  | .mtot h a b c d e f => .mtot { h with start := 0xFFFF#16, c := 0#5 } a b c d e f
  | .cfill h a b c => .cfill { h with start := 0xFFFF#16, c := 0#5 } a b c
  | .cdrain h a b c => .cdrain { h with start := 0xFFFF#16, c := 0#5 } a b c
  | .cpair h a b c => .cpair { h with start := 0xFFFF#16, c := 0#5 } a b c
  | .cgath h a b c => .cgath { h with start := 0xFFFF#16, c := 0#5 } a b c
  | .ccopy h a b c => .ccopy { h with start := 0xFFFF#16, c := 0#5 } a b c
  | .cred h a b c => .cred { h with start := 0xFFFF#16, c := 0#5 } a b c
  | .vplog h a b c d => .vplog { h with start := 0xFFFF#16, c := 0#5 } a b c d
  | .mot h a b c d e f g => .mot { h with start := 0xFFFF#16 } a b c d e f g
  | i => i

/-- The scalar registers that a command reads at issue, as its first and its second scalar operand (R27, R179, R190, R194, R222 to
R227, R229, R260). -/
def scalarsOf : Instr → Option Reg × Option Reg
  | .vbcast _ _ a _ | .vidx _ _ a _ | .vld _ _ a _ | .vst _ _ a _ | .vlds _ _ a _ _ | .vsts _ _ a _ _ | .vldx _ _ a _ _
  | .vstx _ _ a _ _ | .vxsend _ _ _ a | .vxrecv _ _ _ a | .vbord _ _ _ a | .cfill _ a _ _ | .cdrain _ a _ _ | .cpair _ a _ _
  | .cgath _ a _ _ | .ccopy _ a _ _ | .cred _ a _ _ => (some a, none)
  | .vlane _ _ _ b _ | .vqnt _ _ _ b _ _ | .vdqnt _ _ _ b _ => (none, some b)
  | .vshift _ _ _ _ eg tg => (if eg = 2#2 then some tg else none, none)
  | .mot _ _ _ _ _ ep _ y => (if ep = true then some y else none, none)
  | _ => (none, none)

/-- Their values, as an instruction reads them. -/
def scalarRefs (i : Instr) : List Ref := ((scalarsOf i).1.toList ++ (scalarsOf i).2.toList).map Ref.s

/-- The rings that a command names at issue. -/
def ringsNamed : Instr → List (BitVec 3)
  | .vldr _ _ m _ _ _ | .vstr _ _ m _ _ => [m]
  | .mma _ _ ra rb _ _ _ _ _ _ | .mmaq _ _ ra rb _ _ _ _ _ _ _ | .mmab _ _ ra rb _ _ _ _ _ _ _ => [ra, rb]
  | .mtot _ _ ra _ _ _ _ => [ra]
  | _ => []

/-- Bits of an element by its type code; 0 for a code that names none (R94). -/
def bitsOf (ty : BitVec 4) : Nat :=
  match ty.toNat with
  | 0 | 1 | 9 | 10 => 8
  | 2 | 3 | 6 | 7 => 16
  | 4 | 5 | 8 => 32
  | 11 | 12 | 13 => 4
  | _ => 0

/-- R179, R198, R199: an operand value beyond its limits in the present state: a group part, an unconfigured ring, an entry or line that
the ring has not. -/
def OperandBad (c : Ctx) : Instr → Prop
  | .vqnt _ _ _ b ty _ | .vdqnt _ _ _ b ty => 32 ≤ bitsOf ty * ((c.rs b).toNat / 2 ^ 24 % 8)
  | .vldr _ _ m ll i lh =>
    let r := (c.cell 0).ring m.toNat
    r.conf = false ∨ r.count ≤ i.toNat ∨ r.size ≤ 16 * lh.toNat + ll.toNat
  | .vstr _ _ m _ _ => ((c.cell 0).ring m.toNat).conf = false
  | _ => False

/-- R194, R229: where a tower or column command goes wrong at issue: the cause, and TVAL. -/
def misplaced (c : Ctx) (i : Instr) : Option (BitVec 8 × U64) :=
  let tower (a : Reg) (im : BitVec 12) (n : Nat) : Option (BitVec 8 × U64) :=
    let o := ((c.rs a).toNat + 64 * im.toNat) % 2 ^ 23
    if o % n = 0 then none else some (0x03#8, BitVec.ofNat 64 o)
  match i with
  | .vld _ _ a im | .vst _ _ a im | .vldx _ _ a im _ | .vstx _ _ a im _ => tower a im 64
  | .vlds _ _ a im _ | .vsts _ _ a im _ => tower a im 4
  | .cfill _ a _ _ | .cdrain _ a _ _ | .cpair _ a _ _ | .cgath _ a _ _ | .ccopy _ a _ _ | .cred _ a _ _ =>
    if (c.rs a).toNat % 64 ≠ 0 then some (0x03#8, c.rs a)
    else if (c.rs a).toNat / 2 ^ 48 % 2 ^ 8 = 0xFF then some (0x05#8, c.rs a)
    else none
  | _ => none

/-- R101: the rounding field of a form that has one, and the mode that a code resolves to. -/
def roundField : Instr → Option (BitVec 3)
  | .vfadd _ _ _ _ _ rm | .vfsub _ _ _ _ _ rm | .vfmul _ _ _ _ _ rm | .vfma _ _ _ _ _ rm | .vfscl _ _ _ _ _ rm
  | .vcvt _ _ _ _ _ _ rm | .vqnt _ _ _ _ _ rm | .vdiv _ _ _ _ _ rm => some rm
  | _ => none
def modeOf (c : Ctx) (rm : BitVec 3) : RMode :=
  let k := if rm = 7#3 then c.sys.round else rm
  if k = 1#3 then .rtz else if k = 2#3 then .rdn else if k = 3#3 then .rup else if k = 4#3 then .sr else .rne

/-- R102: the command takes a value of SRCTR. -/
def TakesCounter (c : Ctx) (i : Instr) : Prop :=
  match i with
  | .mma _ _ _ _ _ _ _ _ _ _ | .mmaq _ _ _ _ _ _ _ _ _ _ _ | .mmab _ _ _ _ _ _ _ _ _ _ _ | .mtot _ _ _ _ _ _ _ => True
  | i => ∃ rm, roundField i = some rm ∧ modeOf c rm = .sr

/-- R45: the iteration of a command whose guard is ck, inside a hardware loop. -/
def iteration (c : Ctx) (k : Nat) : Option Int :=
  match c.loop with
  | some l => if c.trap.tctx = true then none else some (if 1 ≤ k ∧ k ≤ l.stages then (l.pass : Int) - k + 1 else l.pass)
  | none => none

/-- R32, R47: the guard reads 1, and no LBREAK of the pass discards the command. -/
def Kept (c : Ctx) (k : BitVec 3) : Prop :=
  c.rc k = true ∧ ∀ l m i, c.loop = some l → l.cut = some m → iteration c k.toNat = some i → i ≤ m

/-- R35: a reserved start value. -/
def Reserved (st : BitVec 16) : Prop := 0xFFF0 ≤ st.toNat ∧ st.toNat < 0xFFFF

/-- The integer codes, the codes of floating-point elements of 16 and 32 bits, and every code that names a format (R94). -/
def ints : List Nat := [0, 1, 2, 3, 4, 5]
def floats : List Nat := [6, 7, 8]
def formats : List Nat := List.range 14

/-- R174 to R228: the type field of a command, and the codes that its entry accepts. VCVT has two (R177). -/
def typeField : Instr → Option (BitVec 4 × List Nat)
  | .vadd _ _ _ _ t | .vsub _ _ _ _ t | .vmul _ _ _ _ t | .vmulh _ _ _ _ t | .vmin _ _ _ _ t | .vmax _ _ _ _ t | .vadds _ _ _ _ t
  | .vsubs _ _ _ _ t | .vavg _ _ _ _ t | .vmad _ _ _ _ t | .vshl _ _ _ _ t | .vshr _ _ _ _ t | .vsra _ _ _ _ t | .vrot _ _ _ _ t
  | .vfunl _ _ _ _ t _ | .vfunr _ _ _ _ t _ | .vcmp _ _ _ _ t _ | .vidx _ _ _ t | .vunpk _ _ _ t _ => some (t, ints)
  | .vabs _ _ _ t | .vneg _ _ _ t => some (t, [0, 2, 4])
  | .vdot4 _ _ _ _ t => some (t, [0, 1])
  | .vfadd _ _ _ _ t _ | .vfsub _ _ _ _ t _ | .vfmul _ _ _ _ t _ | .vfma _ _ _ _ t _ | .vfmin _ _ _ _ t | .vfmax _ _ _ _ t | .vfabs _ _ _ t
  | .vfneg _ _ _ t | .vfscl _ _ _ _ t _ | .vfclass _ _ _ t | .vfcmp _ _ _ _ t _ => some (t, floats)
  | .vpack _ _ _ _ t => some (t, [0, 1, 2, 3, 12, 13])
  | .vqnt _ _ _ _ t _ | .vdqnt _ _ _ _ t => some (t, [0, 1, 12, 13])
  | .vand _ _ _ _ t | .vor _ _ _ _ t | .vxor _ _ _ _ t | .vpopc _ _ _ t | .vclz _ _ _ t => some (t, ints ++ [12, 13])
  | .vsel _ _ _ _ t | .vvote _ _ _ t _ | .vpcnt _ _ _ t | .vperm _ _ _ _ t | .vbcast _ _ _ t | .vlane _ _ _ _ t | .vshuf _ _ _ _ t _
  | .mtov _ _ _ _ t => some (t, formats)
  | .vred _ _ _ t op | .vscan _ _ _ t op =>
    some (t, if op = 0#3 then ints ++ floats ++ [12, 13] else if 3 ≤ op.toNat ∧ op.toNat ≤ 5 then ints else formats)
  | .vcell _ _ t _ | .vaadd _ _ _ _ t | .vamin _ _ _ _ t | .vamax _ _ _ _ t => some (t, [4, 5])
  | .vaswap _ _ _ _ t => some (t, [4, 5, 8])
  | .vafadd _ _ _ _ t | .vexp2 _ _ _ t | .vlog2 _ _ _ t | .vrcp _ _ _ t | .vrsq _ _ _ t | .vtanh _ _ _ t | .vdiv _ _ _ _ t _
  | .vgumb _ _ _ _ t | .vsamp _ _ _ _ t => some (t, [8])
  | .vrnd _ _ _ _ t _ => some (t, [5])
  | _ => none

/-- R137: a field that another one leaves unused is not 0. -/
def SpareSet : Instr → Prop
  | .vplog _ _ _ b op => (op.toNat = 5 ∨ op.toNat = 6) ∧ b ≠ 0#5
  | .vshuf _ _ _ b _ op => op.toNat = 4 ∧ b ≠ 0#5
  | .vshift _ _ _ _ eg tg => eg.toNat ≠ 2 ∧ tg ≠ 0#5
  | _ => False

/-- R94, R177: a type code that names no format or that the entry does not accept. -/
def TypeRefused (i : Instr) : Prop :=
  (∃ t l, typeField i = some (t, l) ∧ t.toNat ∉ l) ∨
    match i with
    | .vcvt _ _ _ ts td _ _ => 13 < ts.toNat ∨ 13 < td.toNat ∨ bitsOf ts = 8 * bitsOf td ∨ bitsOf td = 8 * bitsOf ts
    | _ => False

/-- A block of products: M = 0b11, or an end beyond the accumulator store (R210). -/
def BlockOut (t n : BitVec 6) (m : BitVec 2) : Prop := m = 3#2 ∨ 256 < 4 * t.toNat + 2 ^ m.toNat * (n.toNat + 1)

/-- R32, R101, R177 to R229: a field beyond the limits of its entry. -/
def FieldOut (i : Instr) : Prop :=
  (∃ rm, roundField i = some rm ∧ (rm = 5#3 ∨ rm = 6#3)) ∨
    match i with
    | .vcvt _ _ _ ts td h _ => max (bitsOf td) (bitsOf ts) ≤ h.toNat * min (bitsOf td) (bitsOf ts)
    | .vfunl _ _ _ _ t n | .vfunr _ _ _ _ t n => bitsOf t ≤ n.toNat
    | .vcmp _ _ _ _ _ op | .vred _ _ _ _ op | .vscan _ _ _ _ op => 6 ≤ op.toNat
    | .vfcmp _ _ _ _ _ op | .vplog _ _ _ _ op => op.toNat = 7
    | .vvote _ d _ _ _ => 8 ≤ d.toNat
    | .vshuf _ _ _ _ _ op => 5 ≤ op.toNat
    | .vlds _ _ _ _ k | .vsts _ _ _ _ k => k.toNat % 8 = 0
    | .vshift _ _ _ _ eg _ => eg = 3#2
    | .mma _ t _ _ n m _ _ _ _ | .mmaq _ t _ _ n m _ _ _ _ _ | .mmab _ t _ _ n m _ _ _ _ _ | .mtot _ t _ n m _ _ => BlockOut t n m
    | .mzero _ t n => 64 < t.toNat + n.toNat + 1
    | .mtov _ t _ l ty => 65536 < 1024 * t.toNat + 16 * l.toNat + 512 / bitsOf ty
    | .cfill h _ qc ax | .cdrain h _ qc ax | .cpair h _ qc ax | .cgath h _ qc ax | .ccopy h _ qc ax | .cred h _ qc ax =>
      4 ≤ qc.toNat ∨ h.p ≠ 0#5 ∨ h.ps = true ∨ ax ≠ 0#5
    | _ => False

/-- R46, R81, R85, R158 to R167, R240 to R268: what an instruction of the sequencer names beyond the limits of its entry: a scope, a condition, a
ring, a count, an empty set, a missing E bit. -/
def SeqFieldOut (i : Instr) : Prop :=
  (∃ r ∈ condFields i, 8 ≤ r.toNat) ∨
    match i with
    | .ldacq _ _ _ sc _ | .strel _ _ _ sc _ | .aadd _ _ _ _ sc _ _ | .aand _ _ _ _ sc _ _ | .aor _ _ _ _ sc _ _ | .axor _ _ _ _ sc _ _
    | .amin _ _ _ _ sc _ _ | .amax _ _ _ _ sc _ _ | .aminu _ _ _ _ sc _ _ | .amaxu _ _ _ _ sc _ _ | .aswap _ _ _ _ sc _ _
    | .acas _ _ _ _ sc _ _ | .fwait _ _ sc _ | .fset _ _ sc _ | .fread _ _ sc _ | .bar _ _ sc _ => 4 < sc.toNat
    | .finc _ d _ sc _ => 4 < sc.toNat ∨ d ≠ 0#5 ∧ sc ≠ 4#3
    | .fence _ sc k => 4 < sc.toNat ∨ k = 0#5
    | .loop e _ st _ => st = 0#3 ∨ e = false
    | .lbreak _ k m => 8 ≤ k.toNat ∨ m = 0#3
    | .exit e => e = false
    | .waitev _ v => v = 0#4
    | .qflush _ m | .qsync _ m => m = 0#4
    | .rcfg _ m _ _ => 8 ≤ m.toNat
    | .waitf _ m n | .waite _ m n | .rclaim _ m n | .rpub _ m n | .rpop _ m n => 8 ≤ m.toNat ∨ 256 < n.toNat
    | .rstat _ _ _ k _ => 9 ≤ k.toNat
    | .admode _ m => m = 3#2
    | .spmark _ m => m = 0#8
    | _ => False

/-- R40, R138, R139, R283: the command may enter its queue: its own fields are well formed, it is kept, the values it reads have come,
its operands are within their limits, and a handler's command is ready. -/
def MayEnter (c : Ctx) (i : Instr) (st : BitVec 16) (k : BitVec 5) : Prop :=
  i.staticFault = none ∧ ¬ Reserved st ∧ c.early [.c (guard k)] = none ∧ Kept c (guard k) ∧ Reads c (scalarRefs i) ∧
    (∀ m ∈ ringsNamed i, c.lateRing m.toNat = false) ∧ ¬ OperandBad c i ∧ (c.trap.tctx = false ∨ st = 0xFFFF#16)

end Sys2Proof.Claims

/-- R27, R31 to R35, R45, R101, R102, R131, R198, R287: a command whose guard reads 1 and that breaks no rule at issue enters the queue of
its major, behind the entries there, with the queue's next number, the values of its scalars, its generator registers and rounding
mode, CHKTOL's tolerance and mode, and its due cycle: the anchor plus the start field, or none when it is ready. A VLDR fixes its entry's place in every cell. SRCTR
advances by one where the command takes a value of it. Nothing else changes but the place of the next instruction. -/
def Obligations.CommandEntersItsQueue : Prop :=
  ∀ (s : State) (c : Ctx) (i : Instr) (e : Bool) (st : BitVec 16) (k : BitVec 5), Runs s c → header i = some (e, st, k) →
    MayEnter c i st k → misplaced c i = none → (vget [] c.eng.q (queueOf i)).length < 64 →
    ∃ (d : Ctx) (x : QEntry), exec i s = goesTo s (d.advance e 2) ∧
      d.eng = { c.eng with q := vset c.eng.q (queueOf i) (vget [] c.eng.q (queueOf i) ++ [x]),
                           seq := vset c.eng.seq (queueOf i) (vget 0#16 c.eng.seq (queueOf i) + 1#16) } ∧
      x.instr = i ∧ x.seq = vget 0#16 c.eng.seq (queueOf i) ∧ x.ord = c.ord ∧ x.issued = c.now ∧ x.trap = c.trap.tctx ∧
      x.due = (if st = 0xFFFF#16 then none else some (c.time.anchor + st.toNat)) ∧ x.iter = iteration c (guard k).toNat ∧
      x.scal = (((scalarsOf i).1.map c.rs).getD 0#64, ((scalarsOf i).2.map c.rs).getD 0#64) ∧ x.admode = c.adj.mode ∧ x.ftz = c.sys.ftz ∧
      x.rng = ⟨c.sys.rngkey, c.sys.rngstr, c.sys.rngctr⟩ ∧ x.srctr = c.sys.srctr ∧ x.pc = c.issue.packet ∧
      x.chkTol = c.sys.chkTol ∧ x.chkMode = c.sys.chkMode ∧
      (∀ rm, roundField i = some rm → x.rmode = modeOf c rm) ∧ (roundField i = none → x.rmode = .rne) ∧
      (∀ h r m ll y lh, i = .vldr h r m ll y lh → ∀ n, n < 16 →
        let g := (c.cell n).ring m.toNat
        let slot := (g.hslot + y.toNat) % max 1 g.count
        x.ringPos.getD n (0#32, 0, 0) =
          (g.head + BitVec.ofNat 32 y.toNat, slot, (g.base + 64 * g.size * slot + 64 * (16 * lh.toNat + ll.toNat)) % 2 ^ 23)) ∧
      (TakesCounter c i → d.sys = { c.sys with srctr := c.sys.srctr + 1#32 }) ∧ (¬ TakesCounter c i → d.sys = c.sys) ∧
      Same c { d with eng := c.eng, sys := c.sys } ∧ d.issue = c.issue ∧ d.raised = c.raised ∧ d.loop = c.loop

/-- R31, R32, R35, R47, R138, R139, R194, R229: a command that does not enter. With its guard 0, or discarded by an LBREAK of the pass,
issue only goes on; at a full queue the sequencer stalls, and so it does while a scalar or a descriptor that the command needs is late. A
field that its own checks refuse is ILLEGAL with its subcode. Of a command whose other fields are well formed, a guard above 7 is refused
with 0x08, an operand value beyond its limits with 0x08, a reserved start value with 0x05, and a timed command in trap context with 0x09,
in that order; then a misaligned tower offset or card address is MISALIGNED, and a card in the local window PROTECTION. Of a command's own
fields, a reserved one is 0x03, a type code that its entry does not accept 0x04, one beyond its limits 0x08, and a start value 0x05 unless
an operand is checked before it; an instruction of the sequencer that names what its entry does not allow is ILLEGAL 0x08. (Log entries
75: a discarded command is not checked for rings and operand values; 76: the stall on a late value.) -/
def Obligations.CommandThatDoesNotEnter : Prop :=
  (∀ (s : State) (c : Ctx) (i : Instr), Runs s c → SeqFieldOut i → exec i s = goesTo s (trapped c 0x01#8 0x08#8 (wordsOf i))) ∧
  (∀ i, header i = none → ¬ SeqFieldOut i → i.staticFault = none) ∧
  (∀ (s : State) (c : Ctx) (i : Instr) (e : Bool) (st : BitVec 16) (k : BitVec 5), Runs s c → header i = some (e, st, k) →
    (i.staticFault = none → ¬ Reserved st → c.early [.c (guard k)] = none → ¬ Kept c (guard k) → c.trap.tctx = false ∨ st = 0xFFFF#16 →
      exec i s = goesTo s (c.advance e 2)) ∧
    (MayEnter c i st k → misplaced c i = none → 64 ≤ (vget [] c.eng.q (queueOf i)).length → exec i s = goesTo s (stalled c)) ∧
    (i.staticFault = none → ¬ Reserved st → c.early [.c (guard k)] = none → Kept c (guard k) → c.trap.tctx = false ∨ st = 0xFFFF#16 →
      c.late (scalarRefs i) = true ∨ (∃ m ∈ ringsNamed i, c.lateRing m.toNat = true) → exec i s = goesTo s (stalled c)) ∧
    (∀ sub, i.staticFault = some sub → exec i s = goesTo s (trapped c 0x01#8 sub (wordsOf i))) ∧
    (8 ≤ k.toNat → (plain i).staticFault = none → i.staticFault = some 0x08#8) ∧
    (k.toNat < 8 → (plain i).staticFault = none → c.early [.c (guard k)] = none →
      (Kept c (guard k) → c.late (scalarRefs i) = false → (∀ m ∈ ringsNamed i, c.lateRing m.toNat = false) → OperandBad c i →
        exec i s = goesTo s (trapped c 0x01#8 0x08#8 (wordsOf i))) ∧
      (¬ Kept c (guard k) ∨ ¬ OperandBad c i → Reserved st → exec i s = goesTo s (trapped c 0x01#8 0x05#8 (wordsOf i))) ∧
      (¬ Kept c (guard k) ∨ ¬ OperandBad c i → ¬ Reserved st → c.trap.tctx = true → st ≠ 0xFFFF#16 →
        exec i s = goesTo s (trapped c 0x01#8 0x09#8 (wordsOf i)))) ∧
    (∀ code t, MayEnter c i st k → misplaced c i = some (code, t) → exec i s = goesTo s (trapped c code 0#8 t)) ∧
    (SpareSet i → i.staticFault = some 0x03#8) ∧
    (¬ SpareSet i → TypeRefused i → i.staticFault = some 0x04#8) ∧
    (¬ SpareSet i → ¬ TypeRefused i → FieldOut i ∨ 8 ≤ k.toNat → i.staticFault = some 0x08#8) ∧
    (¬ SpareSet i → ¬ TypeRefused i → ¬ FieldOut i → k.toNat < 8 →
      let operands : Prop := match i with | .vqnt _ _ _ _ _ _ | .vdqnt _ _ _ _ _ | .vldr _ _ _ _ _ _ | .vstr _ _ _ _ _ => True | _ => False
      (Reserved st → ¬ operands → i.staticFault = some 0x05#8) ∧ (¬ Reserved st ∨ operands → i.staticFault = none)))

/-! The start of a command (R33 to R37, R274). -/

namespace Sys2Proof.Claims

/-- R200, R247: a command that makes tower accesses, or hands over a column job. -/
def accessForm : Instr → Bool
  | .vld _ _ _ _ | .vst _ _ _ _ | .vlds _ _ _ _ _ | .vsts _ _ _ _ _ | .vldx _ _ _ _ _ | .vstx _ _ _ _ _ | .vldr _ _ _ _ _ _
  | .vstr _ _ _ _ _ | .vaadd _ _ _ _ _ | .vafadd _ _ _ _ _ | .vamin _ _ _ _ _ | .vamax _ _ _ _ _ | .vaswap _ _ _ _ _
  | .mma _ _ _ _ _ _ _ _ _ _ | .mmaq _ _ _ _ _ _ _ _ _ _ _ | .mmab _ _ _ _ _ _ _ _ _ _ _ | .mtot _ _ _ _ _ _ _
  | .cfill _ _ _ _ | .cdrain _ _ _ _ | .cpair _ _ _ _ | .cgath _ _ _ _ | .ccopy _ _ _ _ | .cred _ _ _ _ => true
  | _ => false

/-- R247: an access of before an ADMODE stands in some queue, and the command, an access itself, came after that ADMODE (log entry 78:
DEDUCED). -/
def KeptBack (c : Ctx) (e : QEntry) : Prop :=
  e.trap = false ∧ accessForm e.instr = true ∧ ∃ q, q < 4 ∧ ∃ f ∈ vget [] c.eng.q q, f.trap = false ∧ accessForm f.instr = true ∧ f.gen < e.gen

/-- The entry e of queue q of panel p is presented: it is at the head of its context of execution, its engine is free, it was issued in
an earlier cycle (R33), fewer than 8 jobs run if it is a column command (R229), and no ADMODE keeps it back. -/
def Presented (s : State) (p q : Nat) (c : Ctx) (e : QEntry) : Prop :=
  s.ctx? p = some c ∧ (vget [] c.eng.q q).find? (fun x => x.trap == c.trap.tctx) = some e ∧ e.issued < c.now ∧
    (if c.trap.tctx then vget 0 c.eng.freeTrap q else vget 0 c.eng.free q) ≤ c.now ∧ (q = 3 → c.jobs < 8) ∧ ¬ KeptBack c e

/-- Two values share a register, a predicate or an accumulator tile (R37). -/
def Meets : Ref → Ref → Prop
  | .acc lo n, .acc lo' n' => ∃ i j, lo ≤ i ∧ i < lo + n ∧ lo' ≤ j ∧ j < lo' + n' ∧ i / 1024 = j / 1024
  | x, y => x = y

/-- What a write writes. -/
def written : Write → Option Ref
  | .s r _ => some (.s r)
  | .b n _ => some (.b n)
  | .c n _ => some (.c n)
  | .v _ r _ _ => some (.v r)
  | .p _ r _ => some (.p r)
  | .acc _ lo xs => some (.acc lo xs.length)
  | .accZero _ lo n => some (.acc lo n)
  | _ => none

/-- R37, R278: a command issued before number ord has still to write the value r: it is captured, in a queue, a product under way, or to
come from a tower read. Writes of s0, c0 and p0 are discarded (R18). In trap context only that context's commands count. -/
def Owed (c : Ctx) (ord : Nat) (r : Ref) : Prop :=
  r ≠ .s 0#5 ∧ r ≠ .p 0#5 ∧ r ≠ .c 0#3 ∧
    ((∃ l ∈ c.landings, l.ord < ord ∧ (l.trap = true ∨ c.trap.tctx = false) ∧ ∃ x, written l.write = some x ∧ Meets x r) ∨
      (∃ q, q < 4 ∧ ∃ e ∈ vget [] c.eng.q q, e.ord < ord ∧ (e.trap = true ∨ c.trap.tctx = false) ∧
        ∃ g, engineOf e.instr = some g ∧ ∃ x ∈ g.writes c, Meets x r) ∨
      (∃ f ∈ c.flights, f.ord < ord ∧ (f.trap = true ∨ c.trap.tctx = false) ∧
        ∃ g, engineOf f.entry.instr = some g ∧ ∃ x ∈ g.writes c, Meets x r) ∨
      ∃ o ∈ c.towerOps, o.ord < ord ∧ (o.trap = true ∨ c.trap.tctx = false) ∧
        ∃ n x i m t, o.act = .read n (.vreg x i m t) ∧ r = .v x)

/-- It is the command's turn: its due cycle, or for a ready command every value it reads is there (R35, R37). -/
def Turn (c : Ctx) (e : QEntry) (g : Engine) : Prop :=
  e.due = some c.now ∨ e.due = none ∧ ∀ r ∈ g.reads c, ¬ Owed c e.ord r

/-- A ring that a command names has a descriptor that should have been read and has not (R241). -/
def RingLate (c : Ctx) (i : Instr) : Prop := ∃ m ∈ ringsNamed i, c.lateRing m.toNat = true

/-- It is presented, it is its turn, no descriptor and no debug check stands in its way and no residue check will fail. -/
def Starts (s : State) (p q : Nat) (c : Ctx) (e : QEntry) : Prop :=
  Presented s p q c e ∧ (∃ g, engineOf e.instr = some g ∧ Turn c e g) ∧ ¬ RingLate c e.instr ∧ bit c.sys.debugCtl 0 = false ∧
    c.eng.residue = []

/-- The context without the entry e in queue q. -/
def Taken (c d : Ctx) (q : Nat) (e : QEntry) : Prop :=
  vget [] d.eng.q q = (vget [] c.eng.q q).filter (fun x => x.ord != e.ord)

/-- The context with an engine fault raised at queue q. -/
def faulted (c : Ctx) (q : Nat) (code sub : BitVec 8) (t : U64) : Ctx :=
  { c with raised := c.raised ++ [⟨code, sub, t, some q, 0#64, false, none, false⟩] }

end Sys2Proof.Claims

/-- R33, R35 to R37, R40, R114, R241, R271, R283: the head of a queue. Presented before its due cycle it waits, and so does a ready command
that reads a value still to be written; after its due cycle it raises TIMING with both cycles in TVAL and does not start. When it is its
turn it waits for a descriptor that is late; with DEBUGCTL.PEND an early read is a fault; and then what its form gives comes about: it
starts, leaving its queue, with its engine busy for its occupancy, unless a residue check fails on it; or it faults, with no effect or
with the one that the form names; or it holds the panel, under its code. (Log entries 16 and 76: the wait for a late descriptor; 23: what a
ready command waits for; 78: what an ADMODE keeps back.) -/
def Obligations.HeadWaitsStartsOrIsLate : Prop :=
  ∀ (s : State) (p q : Nat) (c : Ctx) (e : QEntry) (g : Engine), q < 4 → Presented s p q c e → engineOf e.instr = some g →
    let goes (d : Ctx) : Prop := exec (.queueEntryStart p q) s = .next (s.putCtx d)
    (∀ t, e.due = some t → c.now < t → goes c) ∧
    (e.due = none → (∃ r ∈ g.reads c, Owed c e.ord r) → goes c) ∧
    (∀ t, e.due = some t → t < c.now → goes (faulted c q 0x07#8 0#8 (BitVec.ofNat 64 (c.now % 2 ^ 32 * 2 ^ 32 + t % 2 ^ 32)))) ∧
    (Turn c e g → RingLate c e.instr → goes c) ∧
    (∀ t, Turn c e g → ¬ RingLate c e.instr → c.early ((g.sees.getD g.reads) c) = some t → goes (faulted c q 0x0C#8 0#8 t)) ∧
    (Turn c e g → ¬ RingLate c e.instr → c.early ((g.sees.getD g.reads) c) = none →
      (∀ d, (∀ r ∈ c.eng.residue, r.1 ≠ q) → g.start (s.env p) c e = .done d → d.trap = c.trap →
        ∃ d', goes d' ∧ Taken d d' q e ∧
          d'.landings = d.landings ∧ d'.towerOps = d.towerOps ∧ d'.outbox = d.outbox ∧ d'.cells = d.cells ∧ d'.raised = d.raised ∧
          (if c.trap.tctx then d'.eng.freeTrap = vset d.eng.freeTrap q (c.now + g.occ) ∧ d'.eng.ownTrap = vset d.eng.ownTrap q (c.now + g.occ)
            else d'.eng.free = vset d.eng.free q (c.now + g.occ))) ∧
      (∀ d cell un, c.eng.residue.find? (fun r => r.1 == q) = some (q, cell, un) → g.start (s.env p) c e = .done d →
        let t := BitVec.ofNat 64 (cell % 16 + un % 4 * 256)
        goes (faulted { c with eng := { c.eng with residue := c.eng.residue.filter fun x => x.1 != q },
                               outbox := c.outbox ++ [.event 2 (some (cell % 16)) t] } q 0x0F#8 0#8 t)) ∧
      (∀ code sub x, g.start (s.env p) c e = .fault code sub x → goes (faulted c q code sub x)) ∧
      (∀ d code sub x, g.start (s.env p) c e = .spoilt d code sub x → goes (faulted d q code sub x)) ∧
      (∀ code, g.start (s.env p) c e = .hold code → goes { c with time := { c.time with heldQ := c.time.heldQ ++ [(q, code)] } }))

/-! Results of vector commands (R94 to R96, R105, R170 to R193). -/

namespace Sys2Proof.Claims

/-- Element i of width w of a register's line (R19). -/
def lane (w : Nat) (x : Line) (i : Nat) : Nat := x.toNat / 2 ^ (w * i) % 2 ^ w

/-- Width and signedness of the integer types (R94). -/
def intType (ty : BitVec 4) : Option (Nat × Bool) :=
  match ty.toNat with
  | 0 => some (8, true) | 1 => some (8, false) | 2 => some (16, true) | 3 => some (16, false) | 4 => some (32, true)
  | 5 => some (32, false) | _ => none

/-- The same with I4 and U4. -/
def intType4 (ty : BitVec 4) : Option (Nat × Bool) :=
  match ty.toNat with
  | 12 => some (4, true) | 13 => some (4, false) | _ => intType ty

/-- Width of any type (R94). -/
def anyType (ty : BitVec 4) : Option Nat :=
  match ty.toNat with
  | 0 | 1 | 9 | 10 => some 8
  | 2 | 3 | 6 | 7 => some 16
  | 4 | 5 | 8 => some 32
  | 11 | 12 | 13 => some 4
  | _ => none

/-- A w-bit value as an integer, by signedness. -/
def asInt (t : Nat × Bool) (x : Nat) : Int := if t.2 then signedOf t.1 x else x

/-- The limits of a type. -/
def least (t : Nat × Bool) : Int := if t.2 then -(2 ^ (t.1 - 1)) else 0
def greatest (t : Nat × Bool) : Int := if t.2 then 2 ^ (t.1 - 1) - 1 else 2 ^ t.1 - 1

/-- A value clamped to a type, and whether it had to be (R174). -/
def clamped (t : Nat × Bool) (v : Int) : Int × Bool := (max (least t) (min (greatest t) v), decide (v < least t ∨ greatest t < v))

/-- Leading zeros of a w-bit value. -/
def zeros (w x : Nat) : Nat := if x = 0 then w else w - 1 - Nat.log2 x

/-- R174, R175, R178, R180 to R184, R186, R190, R191, R193: element i of cell n, of contents x, that a command of entry q writes: its header,
destination, element width, latency, the element's value modulo 2^w, and whether it was clamped. -/
def element (c : Ctx) (q : QEntry) (n : Nat) (x : Cell) (i : Nat) (ins : Instr) :
    Option (Ex × Reg × Nat × Nat × Int × Bool) :=
  let l (w : Nat) (r : Reg) : Int := (lane w (x.rv r) i : Nat)
  let s (t : Nat × Bool) (r : Reg) : Int := asInt t (lane t.1 (x.rv r) i)
  let cnt (w : Nat) (r : Reg) : Nat := lane w (x.rv r) i % w
  match ins with
  | .vadd h d a b ty => (intType ty).map fun t => (h, d, t.1, 2, l t.1 a + l t.1 b, false)
  | .vsub h d a b ty => (intType ty).map fun t => (h, d, t.1, 2, l t.1 a - l t.1 b, false)
  | .vmul h d a b ty => (intType ty).map fun t => (h, d, t.1, 2, l t.1 a * l t.1 b, false)
  | .vmulh h d a b ty => (intType ty).map fun t => (h, d, t.1, 2, s t a * s t b / 2 ^ t.1, false)
  | .vmin h d a b ty => (intType ty).map fun t => (h, d, t.1, 2, min (s t a) (s t b), false)
  | .vmax h d a b ty => (intType ty).map fun t => (h, d, t.1, 2, max (s t a) (s t b), false)
  | .vabs h d a ty => if ty.toNat ∈ [0, 2, 4] then (intType ty).map fun t => (h, d, t.1, 2, ((s t a).natAbs : Int), false) else none
  | .vneg h d a ty => if ty.toNat ∈ [0, 2, 4] then (intType ty).map fun t => (h, d, t.1, 2, -s t a, false) else none
  | .vadds h d a b ty => (intType ty).map fun t => (h, d, t.1, 2, clamped t (s t a + s t b))
  | .vsubs h d a b ty => (intType ty).map fun t => (h, d, t.1, 2, clamped t (s t a - s t b))
  | .vavg h d a b ty => (intType ty).map fun t => (h, d, t.1, 2, (s t a + s t b + 1) / 2, false)
  | .vmad h d a b ty => (intType ty).map fun t => (h, d, t.1, 2, l t.1 d + l t.1 a * l t.1 b, false)
  | .vdot4 h d a b ty =>
    if ty.toNat ≤ 1 then
      some (h, d, 32, 2, l 32 d + ((List.range 4).map fun k => asInt (8, ty.toNat = 0) (lane 8 (x.rv a) (4 * i + k)) *
        asInt (8, ty.toNat = 0) (lane 8 (x.rv b) (4 * i + k))).sum, false)
    else none
  | .vpack h d a b ty =>
    if ty.toNat ∈ [0, 1, 2, 3, 12, 13] then
      (intType4 ty).map fun t =>
        let m := 256 / t.1
        (h, d, t.1, 3, clamped t (signedOf (2 * t.1) (if i < m then lane (2 * t.1) (x.rv a) i else lane (2 * t.1) (x.rv b) (i - m))))
    else none
  | .vunpk h d a ty hp =>
    (intType ty).map fun t =>
      (h, d, t.1, 3, asInt (t.1 / 2, t.2) (lane (t.1 / 2) (x.rv a) ((if hp then 512 / t.1 else 0) + i)), false)
  | .vand h d a b ty => (intType4 ty).map fun t => (h, d, t.1, 2, (lane t.1 (x.rv a) i &&& lane t.1 (x.rv b) i : Nat), false)
  | .vor h d a b ty => (intType4 ty).map fun t => (h, d, t.1, 2, (lane t.1 (x.rv a) i ||| lane t.1 (x.rv b) i : Nat), false)
  | .vxor h d a b ty => (intType4 ty).map fun t => (h, d, t.1, 2, (lane t.1 (x.rv a) i ^^^ lane t.1 (x.rv b) i : Nat), false)
  | .vlop3 h d a b th tl =>
    let table := 16 * th.toNat + tl.toNat
    let pick (k : Nat) : Nat := 4 * (lane 8 (x.rv a) i / 2 ^ k % 2) + 2 * (lane 8 (x.rv b) i / 2 ^ k % 2) + lane 8 (x.rv d) i / 2 ^ k % 2
    some (h, d, 8, 2, ((List.range 8).map fun k => 2 ^ k * (table / 2 ^ pick k % 2)).sum, false)
  | .vshl h d a b ty => (intType ty).map fun t => (h, d, t.1, 2, l t.1 a * 2 ^ cnt t.1 b, false)
  | .vshr h d a b ty => (intType ty).map fun t => (h, d, t.1, 2, l t.1 a / 2 ^ cnt t.1 b, false)
  | .vsra h d a b ty => (intType ty).map fun t => (h, d, t.1, 2, signedOf t.1 (lane t.1 (x.rv a) i) / 2 ^ cnt t.1 b, false)
  | .vrot h d a b ty =>
    (intType ty).map fun t => (h, d, t.1, 2, l t.1 a * 2 ^ cnt t.1 b + l t.1 a / 2 ^ (t.1 - cnt t.1 b), false)
  | .vfunl h d a b ty k =>
    match intType ty with
    | some t => if k.toNat < t.1 then some (h, d, t.1, 2, l t.1 a * 2 ^ k.toNat + l t.1 b / 2 ^ (t.1 - k.toNat), false) else none
    | none => none
  | .vfunr h d a b ty k =>
    match intType ty with
    | some t => if k.toNat < t.1 then some (h, d, t.1, 2, l t.1 a / 2 ^ k.toNat + l t.1 b * 2 ^ (t.1 - k.toNat), false) else none
    | none => none
  | .vpopc h d a ty => (intType4 ty).map fun t => (h, d, t.1, 2, ((List.range t.1).countP fun k => (lane t.1 (x.rv a) i).testBit k : Nat), false)
  | .vclz h d a ty => (intType4 ty).map fun t => (h, d, t.1, 2, (zeros t.1 (lane t.1 (x.rv a) i) : Nat), false)
  | .vperm h d a b ty => (anyType ty).map fun w =>
      (h, d, w, 3, (if 2 ^ (w - 1) ≤ lane w (x.rv b) i then 0 else lane w (x.rv a) (lane w (x.rv b) i % (512 / w)) : Nat), false)
  | .vbcast h d _ ty => (anyType ty).map fun w => (h, d, w, 3, (q.scal.1.toNat : Nat), false)
  | .vlane h d a _ ty => (anyType ty).map fun w => (h, d, w, 3, (lane w (x.rv a) (q.scal.2.toNat % (512 / w)) : Nat), false)
  | .vshuf h d a b ty op => match anyType ty with
    | none => none
    | some w =>
      let n := 512 / w
      let y : Option (Bool × Nat) :=
        match op.toNat with
        | 0 => some (if i < n - 1 then (false, i + 1) else (true, 0))
        | 1 => some (if i = 0 then (true, n - 1) else (false, i - 1))
        | 2 => some (if i % 2 = 0 then (false, i / 2) else (true, (i - 1) / 2))
        | 3 => some (if i % 2 = 0 then (false, n / 2 + i / 2) else (true, n / 2 + (i - 1) / 2))
        | 4 => some (false, n - 1 - i)
        | _ => none
      y.map fun y => (h, d, w, 3, (lane w (x.rv (if y.1 then b else a)) y.2 : Nat), false)
  | .vidx h d _ ty => (intType ty).map fun t => (h, d, t.1, 2, ((q.scal.1.toNat : Int) + i), false)
  | .vcell h d ty sl =>
    if ty.toNat = 4 ∨ ty.toNat = 5 then
      some (h, d, 32, 2, ((if sl = 0#2 then n else if sl = 1#2 then n % 4 else if sl = 2#2 then n / 4 else 16 * c.index + n : Nat) : Int), false)
    else none
  | _ => none

/-- Element i of width w of a cell is active for a header (R171). -/
def active (x : Cell) (h : Ex) (w i : Nat) : Bool := Bool.xor ((x.rp h.p).getLsbD (i * w / 8)) h.ps

/-- A write of register r of cell n, due lat cycles on, with the bytes of the elements that act names, whose elements there satisfy P
and whose flags satisfy F. -/
def Writes (c d : Ctx) (q : QEntry) (n : Nat) (r : Reg) (w lat : Nat) (act : Nat → Bool) (P : Nat → Nat → Prop) (F : Flags → Prop) : Prop :=
  ∃ (y : Line) (m : BitVec 64) (fl : Flags),
    (⟨q.ord, .q0, c.now + lat - 1, c.trap.tctx, .v n r y m, fl⟩ : Landing) ∈ d.landings ∧
    (∀ i, i < 512 / w → act i = true → P i (lane w y i)) ∧ (∀ j, j < 64 → m.getLsbD j = act (8 * j / w)) ∧ F fl

/-- The outcome of a start: its context, with n more landings and nothing else of the results, the cells and the memories changed. -/
def Started1 (s : State) (p : Nat) (c d : Ctx) (n : Nat) : Prop :=
  exec (.queueEntryStart p 0) s = .next (s.putCtx d) ∧ (∃ ls, d.landings = c.landings ++ ls ∧ ls.length = n) ∧ d.cells = c.cells ∧
    d.norm = c.norm ∧ d.trapBank = c.trapBank ∧ d.sys = c.sys ∧ d.scratch = c.scratch ∧ d.trapMem = c.trapMem ∧
    d.towerOps = c.towerOps ∧ d.raised = c.raised

end Sys2Proof.Claims

/-- R171, R172, R174, R175, R178, R180 to R184, R190, R191, R193: an integer, logic, shift, pack or permute command in its start cycle: in
every cell each active element of its destination will take the value its entry gives, at the end of start + L - 1, and no
inactive element is written; SAT_N comes with a clamped active element. -/
def Obligations.VectorElementResults : Prop :=
  ∀ (s : State) (p : Nat) (c : Ctx) (q : QEntry) (h : Ex) (r : Reg) (w lat : Nat), Starts s p 0 c q →
    (∀ n x i, ∃ v, element c q n x i q.instr = some (h, r, w, lat, v)) →
    ∃ d, Started1 s p c d 16 ∧ Taken c d 0 q ∧ ∀ n, n < 16 →
      let x := c.cell n
      Writes c d q n r w lat (active x h w)
        (fun i y => ∀ v sat, element c q n x i q.instr = some (h, r, w, lat, v, sat) → (y : Int) = v % 2 ^ w)
        (fun fl => fl.nv = false ∧ fl.ovf = false ∧ fl.clash = false ∧ (fl.sat = true ↔
          ∃ i v, i < 512 / w ∧ active x h w i = true ∧ element c q n x i q.instr = some (h, r, w, lat, v, true)))

namespace Sys2Proof.Claims

/-- Exponent and fraction bits of F16, BF16 and F32 (R94, R95). -/
def floatType (ty : BitVec 4) : Option (Nat × Nat) :=
  match ty.toNat with
  | 6 => some (5, 10) | 7 => some (8, 7) | 8 => some (8, 23) | _ => none

/-- Sign, exponent and fraction of an encoding. -/
def signAt (t : Nat × Nat) (x : Nat) : Nat := x / 2 ^ (t.1 + t.2) % 2
def expAt (t : Nat × Nat) (x : Nat) : Nat := x / 2 ^ t.2 % 2 ^ t.1
def fracAt (t : Nat × Nat) (x : Nat) : Nat := x % 2 ^ t.2

/-- NaN, infinity and zero (R95), and the canonical NaN (R96). -/
def isNan (t : Nat × Nat) (x : Nat) : Prop := expAt t x = 2 ^ t.1 - 1 ∧ fracAt t x ≠ 0
def isInf (t : Nat × Nat) (x : Nat) : Prop := expAt t x = 2 ^ t.1 - 1 ∧ fracAt t x = 0
def isZero (t : Nat × Nat) (x : Nat) : Prop := expAt t x = 0 ∧ fracAt t x = 0
def canonicalNan (t : Nat × Nat) : Nat := (2 ^ t.1 - 1) * 2 ^ t.2 + 2 ^ (t.2 - 1)

end Sys2Proof.Claims

namespace Sys2Proof.Claims

/-- A floating format (R95, R96): the bits of its exponent and fraction, its bias, the encoding of its largest finite magnitude, whether it
has infinities, and its canonical NaN. -/
structure Form where
  e : Nat
  m : Nat
  bias : Nat
  top : Nat
  inf : Bool
  nan : Option Nat

/-- The format of a type code. -/
def form (ty : BitVec 4) : Option Form :=
  match ty.toNat with
  | 6 => some ⟨5, 10, 15, 0x7BFF, true, some 0x7E00⟩
  | 7 => some ⟨8, 7, 127, 0x7F7F, true, some 0x7FC0⟩
  | 8 => some ⟨8, 23, 127, 0x7F7FFFFF, true, some 0x7FC00000⟩
  | 9 => some ⟨4, 3, 7, 0x7E, false, some 0x7F⟩
  | 10 => some ⟨5, 2, 15, 0x7B, true, some 0x7E⟩
  | 11 => some ⟨2, 1, 1, 7, false, none⟩
  | _ => none

/-- F32 and F16. -/
def f32 : Form := ⟨8, 23, 127, 0x7F7FFFFF, true, some 0x7FC00000⟩
def f16 : Form := ⟨5, 10, 15, 0x7BFF, true, some 0x7E00⟩

/-- The magnitude of encoding k without its sign (R95), on a scale that goes on above the largest finite one. -/
def Form.size (f : Form) (k : Nat) : Rat :=
  ((if k < 2 ^ f.m then 2 * k else (2 ^ f.m + k % 2 ^ f.m) * 2 ^ (k / 2 ^ f.m) : Nat) : Rat) / (2 ^ (f.bias + f.m) : Nat)

/-- What an encoding stands for: NaN, an infinity, or an exact number with its sign. -/
inductive Quantity where
  | nan
  | inf (neg : Bool)
  | real (v : Rat) (neg : Bool)
  deriving DecidableEq

/-- R95, R103: the value of an encoding; with FTZ a subnormal counts as a zero, but not in E2M1. -/
def Form.read (f : Form) (ftz : Bool) (x : Nat) : Quantity :=
  let k := x % 2 ^ (f.e + f.m)
  let neg : Bool := x / 2 ^ (f.e + f.m) % 2 == 1
  if f.top + (if f.inf = true then 1 else 0) < k then .nan
  else if f.top < k then .inf neg
  else
    let v := if ftz = true ∧ f.e ≠ 2 ∧ k < 2 ^ f.m then 0 else f.size k
    .real (if neg = true then -v else v) neg

/-- An integer as a number. -/
def ofInt (x : Int) : Quantity := .real (x : Rat) (decide (x < 0))

/-- The value of an element of any type (R94, R95). -/
def value (ty : BitVec 4) (ftz : Bool) (x : Nat) : Quantity :=
  match intType4 ty, form ty with
  | some t, _ => ofInt (asInt t x)
  | none, some f => f.read ftz x
  | none, none => .nan

/-- R105: sums, negations, products, fused products and quotients of numbers, and whether a NaN comes of operands that are none. An
exact zero of operands of opposite sign is +0, or -0 in RDN (R99). -/
def plus (mode : RMode) : Quantity → Quantity → Quantity × Bool
  | .nan, _ | _, .nan => (.nan, false)
  | .inf a, .inf b => if a = b then (.inf a, false) else (.nan, true)
  | .inf a, _ => (.inf a, false)
  | _, .inf b => (.inf b, false)
  | .real v a, .real w b => (.real (v + w) (if v + w = 0 then (if a = b then a else decide (mode = .rdn)) else decide (v + w < 0)), false)
def minus : Quantity → Quantity
  | .nan => .nan
  | .inf a => .inf (!a)
  | .real v a => .real (-v) (!a)
def times : Quantity → Quantity → Quantity × Bool
  | .nan, _ | _, .nan => (.nan, false)
  | .inf a, .inf b => (.inf (a != b), false)
  | .inf a, .real v b | .real v a, .inf b => if v = 0 then (.nan, true) else (.inf (a != b), false)
  | .real v a, .real w b => (.real (v * w) (a != b), false)
def fused (mode : RMode) (a b c : Quantity) : Quantity × Bool :=
  if (times a b).2 = true then (.nan, true) else plus mode (times a b).1 c
def quotient : Quantity → Quantity → Quantity × Bool
  | .nan, _ | _, .nan => (.nan, false)
  | .inf _, .inf _ => (.nan, true)
  | .inf a, .real _ b => (.inf (a != b), false)
  | .real _ a, .inf b => (.real 0 (a != b), false)
  | .real v a, .real w b =>
    if w = 0 then (if v = 0 then (.nan, true) else (.inf (a != b), false)) else (.real (v / w) (a != b), false)

/-- A number times a power of two. -/
def scaled (k : Int) : Quantity → Quantity
  | .real v a => .real (if 0 ≤ k then v * (2 ^ k.toNat : Nat) else v / (2 ^ (-k).toNat : Nat)) a
  | z => z

/-- R95, R105: less than and equal, of numbers that are not NaN. -/
def Below : Quantity → Quantity → Prop
  | .nan, _ | _, .nan => False
  | .inf a, .inf b => a = true ∧ b = false
  | .inf a, .real _ _ => a = true
  | .real _ _, .inf b => b = false
  | .real v _, .real w _ => v < w
def Equal : Quantity → Quantity → Prop
  | .inf a, .inf b => a = b
  | .real v _, .real w _ => v = w
  | _, _ => False

/-- R105: z is the minimum, or the maximum, of two numbers. -/
def Extreme (most : Bool) (x y z : Quantity) : Prop :=
  let below (u v : Quantity) : Prop := if most = true then Below v u else Below u v
  (x = .nan → z = y) ∧ (x ≠ .nan → y = .nan → z = x) ∧ (below x y → z = x) ∧ (below y x → z = y) ∧
    (Equal x y → z = x ∨ z = y) ∧ (∀ v w a b, x = .real v a → y = .real w b → v = w → a ≠ b → z = .real v (!most))

/-- R99: whether a magnitude v between its neighbours a, nearer to zero, and b is rounded to b: odd says that the last bit of a is 1, and u
is the uniform of SR's draw. -/
def Away (mode : RMode) (u : Rat) (neg : Bool) (a b v : Rat) (odd : Prop) : Prop :=
  v ≠ a ∧
    match mode with
    | .rne => a + b < 2 * v ∨ a + b = 2 * v ∧ odd
    | .rtz => False
    | .rdn => neg = true
    | .rup => neg = false
    | .sr => u * (b - a) < v - a

/-- No flag, and each alone (R104). -/
def none_ : Flags := ⟨false, false, false, false⟩
def nv_ : Flags := ⟨true, false, false, false⟩
def ovf_ : Flags := ⟨false, true, false, false⟩
def sat_ : Flags := ⟨false, false, true, false⟩

/-- R99, R103, R106: y is the encoding of (-1)^neg v, rounded once, and fl the flags that this sets. -/
def Form.Rounded (f : Form) (mode : RMode) (u : Rat) (ftz neg : Bool) (v : Rat) (y : Nat) (fl : Flags) : Prop :=
  let sg := if neg = true then 2 ^ (f.e + f.m) else 0
  ∃ k j, f.size k ≤ v ∧ v < f.size (k + 1) ∧
    (Away mode u neg (f.size k) (f.size (k + 1)) v (k % 2 = 1) → j = k + 1) ∧
    (¬ Away mode u neg (f.size k) (f.size (k + 1)) v (k % 2 = 1) → j = k) ∧
    if j ≤ f.top ∧ k ≤ f.top then y = sg + (if ftz = true ∧ f.e ≠ 2 ∧ j < 2 ^ f.m then 0 else j) ∧ fl = none_
    else if f.inf = false then y = sg + f.top ∧ fl = sat_
    else if f.top < k ∧ (mode = .rtz ∨ mode = .rdn ∧ neg = false ∨ mode = .rup ∧ neg = true) then y = sg + f.top ∧ fl = none_
    else y = sg + f.top + 1 ∧ fl = ovf_

/-- R96, R99, R106: y and fl are what a number gives in a format: the canonical NaN, or 0 with NV where the format has none; an infinity,
or the largest magnitude with SAT_N; a number rounded once. -/
def Form.Encodes (f : Form) (mode : RMode) (u : Rat) (ftz : Bool) (z : Quantity) (y : Nat) (fl : Flags) : Prop :=
  match z with
  | .nan => y = f.nan.getD 0 ∧ fl = if f.nan = none then nv_ else none_
  | .inf neg => y = (if neg = true then 2 ^ (f.e + f.m) else 0) + (if f.inf = true then f.top + 1 else f.top) ∧
      fl = if f.inf = true then none_ else sat_
  | .real v neg => f.Rounded mode u ftz neg (if neg = true then -v else v) y fl

/-- The same of an operation's outcome, with NV where a NaN came of operands that are none. -/
def Form.Gives (f : Form) (mode : RMode) (u : Rat) (ftz : Bool) (z : Quantity × Bool) (y : Nat) (fl : Flags) : Prop :=
  ∃ g, f.Encodes mode u ftz z.1 y g ∧ fl = { g with nv := g.nv || z.2 }

/-- R106, R179: y and fl are what a number gives in an integer type: rounded once to an integer, and then, with add added, clamped. -/
def ToInteger (t : Nat × Bool) (mode : RMode) (u : Rat) (z : Quantity) (add : Int) (y : Nat) (fl : Flags) : Prop :=
  match z with
  | .nan => y = 0 ∧ fl = nv_
  | .inf neg => (y : Int) = (if neg = true then least t else greatest t) % 2 ^ t.1 ∧ fl = sat_
  | .real v neg =>
    let w := if neg = true then -v else v
    ∃ k j : Nat, (k : Rat) ≤ w ∧ w < ((k + 1 : Nat) : Rat) ∧ (Away mode u neg k (k + 1 : Nat) w (k % 2 = 1) → j = k + 1) ∧
      (¬ Away mode u neg k (k + 1 : Nat) w (k % 2 = 1) → j = k) ∧
      let g := clamped t ((if neg = true then -(j : Int) else j) + add)
      (y : Int) = g.1 % 2 ^ t.1 ∧ fl = if g.2 = true then sat_ else none_

/-- R116: the generator. -/
def generate (key : U64) (c0 c1 c2 c3 : U32) : List U32 :=
  let turn (s : (U32 × U32) × U32 × U32 × U32 × U32) (_ : Nat) : (U32 × U32) × U32 × U32 × U32 × U32 :=
    let k := s.1
    let a0 := s.2.1 + s.2.2.1 + k.1
    let d0 := (s.2.2.2.2 ^^^ a0).rotateLeft 16
    let e0 := s.2.2.2.1 + d0 + k.2
    let b0 := (s.2.2.1 ^^^ e0).rotateLeft 12
    let a1 := a0 + b0
    let d1 := (d0 ^^^ a1).rotateLeft 8
    let e1 := e0 + d1
    let b1 := (b0 ^^^ e1).rotateLeft 7
    ((k.1 + 0x6C8E9CF5#32, k.2 + 0xF1357AEB#32), a1, b1, e1, d1)
  let s := (List.range 12).foldl turn ((key.setWidth 32, (key >>> 32).setWidth 32), c0, c1, c2, c3)
  [s.2.1 ^^^ c0, s.2.2.1 ^^^ c1, s.2.2.2.1 ^^^ c2, s.2.2.2.2 ^^^ c3]

/-- R117: the draw for a 64-bit value, and the uniform of a word. -/
def drawn (q : QEntry) (x : Nat) : List U32 :=
  generate q.rng.key (BitVec.ofNat 32 x) (BitVec.ofNat 32 (x / 2 ^ 32)) q.rng.stream q.rng.ctr
def uniform (x : U32) : Rat := ((2 * (x.toNat / 2 ^ 8) + 1 : Nat) : Rat) / (2 ^ 25 : Nat)

/-- R102: the uniform with which the command of an entry rounds element j of cell n under SR. -/
def rounding (c : Ctx) (q : QEntry) (n j : Nat) : Rat :=
  uniform ((generate q.rng.key q.srctr (BitVec.ofNat 32 (2 ^ 31 + c.index * 2 ^ 16 + n * 2 ^ 12 + j)) q.rng.stream q.rng.ctr).getD 0 0#32)

/-- A command in its start cycle: in every cell n each active element i of elements lo to lo + len - 1, of width w, of register r will
take, at the end of start + lat - 1, a value y with flags that R relates to n, the cell, i, y and the flags; no other byte is written; and
a flag comes with a result when some active element has it (R104, R171, R172). -/
def Elements (s : State) (p : Nat) (c : Ctx) (q : QEntry) (h : Ex) (r : Reg) (w lat lo len : Nat)
    (R : Nat → Cell → Nat → Nat → Flags → Prop) : Prop :=
  ∃ d, Started1 s p c d 16 ∧ Taken c d 0 q ∧ ∀ n, n < 16 → ∃ (y : Line) (m : BitVec 64) (all : Flags) (fl : Nat → Flags),
    let x := c.cell n
    let on (i : Nat) : Prop := lo ≤ i ∧ i < lo + len ∧ active x h w i = true
    (⟨q.ord, .q0, c.now + lat - 1, c.trap.tctx, .v n r y m, all⟩ : Landing) ∈ d.landings ∧
    (∀ i, on i → R n x i (lane w y i) (fl i)) ∧ (∀ j, j < 64 → (m.getLsbD j = true ↔ on (8 * j / w))) ∧
    (all.nv = true ↔ ∃ i, on i ∧ (fl i).nv = true) ∧ (all.ovf = true ↔ ∃ i, on i ∧ (fl i).ovf = true) ∧
    (all.sat = true ↔ ∃ i, on i ∧ (fl i).sat = true) ∧ all.clash = false

/-- The active elements of register a in cell x, below element n, in ascending order. -/
def actives (x : Cell) (h : Ex) (w : Nat) (a : Reg) (n : Nat) : List Nat :=
  ((List.range n).filter (active x h w)).map fun i => lane w (x.rv a) i

/-- R192: z and fl are one operation of a reduction on x and y. -/
def Combines (ty : BitVec 4) (ftz : Bool) (op : BitVec 3) (x y z : Nat) (fl : Flags) : Prop :=
  match intType4 ty, form ty with
  | some t, _ =>
    fl = none_ ∧
      z = if op = 0#3 then (x + y) % 2 ^ t.1 else if op = 1#3 then (if asInt t y < asInt t x then y else x)
        else if op = 2#3 then (if asInt t x < asInt t y then y else x) else if op = 3#3 then x &&& y else if op = 4#3 then x ||| y
        else x ^^^ y
  | none, some f =>
    if op = 0#3 then f.Gives .rne 0 ftz (plus .rne (f.read ftz x) (f.read ftz y)) z fl
    else ∃ u, Extreme (op == 2#3) (f.read ftz x) (f.read ftz y) u ∧ f.Encodes .rne 0 ftz u z fl
  | none, none => False

/-- R192: the reduction of elements in order: the first as it stands, then one operation for each. -/
inductive Reduces (ty : BitVec 4) (ftz : Bool) (op : BitVec 3) : List Nat → Nat → Flags → Prop
  | one (x : Nat) : Reduces ty ftz op [x] x none_
  | next (xs : List Nat) (y r z : Nat) (fl g : Flags) : Reduces ty ftz op xs r fl → Combines ty ftz op r y z g →
      Reduces ty ftz op (xs ++ [y]) z ⟨fl.nv || g.nv, fl.ovf || g.ovf, fl.sat || g.sat, fl.clash || g.clash⟩

/-- R205: the best of logits and their indices, taken in order, with the flags of the roundings; a NaN sets none. -/
inductive Samples (q : QEntry) (invT best idx : Nat) : List (Nat × Nat) → Nat → Nat → Flags → Prop
  | start : Samples q invT best idx [] best idx none_
  | lane (xs : List (Nat × Nat)) (l v b i p z : Nat) (fl g k : Flags) : Samples q invT best idx xs b i fl →
      f32.Gives .rne 0 q.ftz (times (f32.read q.ftz l) (f32.read q.ftz invT)) p g →
      f32.Gives .rne 0 q.ftz (plus .rne (f32.read q.ftz p) (f32.read q.ftz (gumbel ((drawn q v).getD 0 0#32)))) z k →
      ∀ b' i', (f32.read q.ftz z ≠ .nan ∧ (f32.read q.ftz b = .nan ∨ Below (f32.read q.ftz b) (f32.read q.ftz z) ∨
          Equal (f32.read q.ftz z) (f32.read q.ftz b) ∧ v < i) → b' = z ∧ i' = v) →
        (¬ (f32.read q.ftz z ≠ .nan ∧ (f32.read q.ftz b = .nan ∨ Below (f32.read q.ftz b) (f32.read q.ftz z) ∨
          Equal (f32.read q.ftz z) (f32.read q.ftz b) ∧ v < i)) → b' = b ∧ i' = i) →
        Samples q invT best idx (xs ++ [(l, v)]) b' i' ⟨fl.nv, fl.ovf || g.ovf || k.ovf, fl.sat || g.sat || k.sat, fl.clash⟩

end Sys2Proof.Claims

/-- R96, R103 to R105, R115 to R118, R176, R192, R204, R205: the functions of float elements that take no rounding field. VFABS and VFNEG
change the sign bit alone and give the canonical NaN for a NaN; VFCLASS gives the one class of the encoding as stored; with latency 2 and
no flag, in every active element. VFMIN and VFMAX give the lesser and the greater. VRED and VSCAN reduce the active elements in ascending
order, all of them or those up to each element. VRCP and VRSQ give the exact reciprocal and the exact reciprocal of the root, VEXP2 and
VLOG2 exact powers of two and their exponents, rounded once, and all the special values of the table; beside them VEXP2, VLOG2, VTANH
and VGUMB round what the model computes of them (log entry 53: DEDUCED). VRND writes a word of the draw of its element, and VSAMP folds
the active lanes into the best score and its index. -/
def Obligations.FloatSignsAndClasses : Prop :=
  (∀ (s : State) (p : Nat) (c : Ctx) (q : QEntry) (h : Ex) (r a : Reg) (ty : BitVec 4) (t : Nat × Nat), Starts s p 0 c q →
    floatType ty = some t →
    let w := 1 + t.1 + t.2
    let goes (P : Nat → Nat → Prop) : Prop := ∃ d, Started1 s p c d 16 ∧ Taken c d 0 q ∧ ∀ n, n < 16 →
      Writes c d q n r w 2 (active (c.cell n) h w) (fun i y => P (lane w ((c.cell n).rv a) i) y) (fun fl => fl = ⟨false, false, false, false⟩)
    (q.instr = .vfabs h r a ty → goes fun x y => (isNan t x → y = canonicalNan t) ∧ (¬ isNan t x → y = x % 2 ^ (w - 1))) ∧
    (q.instr = .vfneg h r a ty → goes fun x y => (isNan t x → y = canonicalNan t) ∧ (¬ isNan t x → y = (x + 2 ^ (w - 1)) % 2 ^ w)) ∧
    (q.instr = .vfclass h r a ty → goes fun x y =>
      (isNan t x → y = 0x100) ∧ (isInf t x → y = if signAt t x = 1 then 0x01 else 0x80) ∧
      (isZero t x → y = if signAt t x = 1 then 0x08 else 0x10) ∧
      (expAt t x = 0 → fracAt t x ≠ 0 → y = if signAt t x = 1 then 0x04 else 0x20) ∧
      (expAt t x ≠ 0 → expAt t x ≠ 2 ^ t.1 - 1 → y = if signAt t x = 1 then 0x02 else 0x40))) ∧
  (∀ (s : State) (p : Nat) (c : Ctx) (q : QEntry) (h : Ex) (r a b : Reg) (ty : BitVec 4) (f : Form) (most : Bool), Starts s p 0 c q →
    floatType ty ≠ none → form ty = some f → q.instr = (if most = true then .vfmax h r a b ty else .vfmin h r a b ty) →
    let w := 1 + f.e + f.m
    Elements s p c q h r w 3 0 (512 / w) fun _ x i y fl =>
      ∃ u, Extreme most (f.read q.ftz (lane w (x.rv a) i)) (f.read q.ftz (lane w (x.rv b) i)) u ∧ f.Encodes .rne 0 q.ftz u y fl) ∧
  (∀ (s : State) (p : Nat) (c : Ctx) (q : QEntry) (h : Ex) (r a : Reg) (ty : BitVec 4) (w : Nat) (op : BitVec 3), Starts s p 0 c q →
    anyType ty = some w → op.toNat < 6 → (3 ≤ op.toNat → intType ty ≠ none) →
    (q.instr = .vred h r a ty op → Elements s p c q h r w 5 0 (512 / w) fun _ x _ y fl =>
      Reduces ty q.ftz op (actives x h w a (512 / w)) y fl) ∧
    (q.instr = .vscan h r a ty op → Elements s p c q h r w 5 0 (512 / w) fun _ x i y fl =>
      Reduces ty q.ftz op (actives x h w a (i + 1)) y fl)) ∧
  (∀ (s : State) (p : Nat) (c : Ctx) (q : QEntry) (h : Ex) (r a b : Reg), Starts s p 0 c q →
    let v (x : Cell) (k : Reg) (i : Nat) : Nat := lane 32 (x.rv k) i
    let goes (lat : Nat) (R : Nat → Flags → Quantity → Nat → Prop) : Prop :=
      Elements s p c q h r 32 lat 0 16 fun _ x i y fl => R y fl (f32.read q.ftz (v x a i)) (v x a i)
    (q.instr = .vrcp h r a 8#4 → goes 10 fun y fl z _ => f32.Gives .rne 0 q.ftz (quotient (.real 1 false) z) y fl) ∧
    (q.instr = .vrsq h r a 8#4 → goes 10 fun y fl z _ => match z with
      | .nan => y = 0x7FC00000 ∧ fl = none_
      | .inf neg => if neg = true then y = 0x7FC00000 ∧ fl = nv_ else y = 0 ∧ fl = none_
      | .real w neg =>
        if w = 0 then y = (if neg = true then 0xFF800000 else 0x7F800000) ∧ fl = none_
        else if neg = true then y = 0x7FC00000 ∧ fl = nv_
        else ∃ k, f32.size k * f32.size k * w ≤ 1 ∧ 1 < f32.size (k + 1) * f32.size (k + 1) * w ∧ fl = none_ ∧
          let mid := f32.size k + f32.size (k + 1)
          y = if mid * mid * w < 4 ∨ mid * mid * w = 4 ∧ k % 2 = 1 then k + 1 else k) ∧
    (q.instr = .vexp2 h r a 8#4 → goes 10 fun y fl z x => (y, fl) = fexp2 q.ftz (Fmt.f32.val q.ftz x) ∧
      (z = .nan → y = 0x7FC00000 ∧ fl = none_) ∧ (z = .inf true → y = 0 ∧ fl = none_) ∧ (z = .inf false → y = 0x7F800000 ∧ fl = none_) ∧
      (∀ u neg, z = .real u neg → (u < -150 → y = 0 ∧ fl = none_) ∧ (128 ≤ u → y = 0x7F800000 ∧ fl = ovf_) ∧
        (∀ n : Int, u = n → -150 ≤ n → n < 128 → f32.Rounded .rne 0 q.ftz false (if 0 ≤ n then ((2 ^ n.toNat : Nat) : Rat) else 1 / ((2 ^ (-n).toNat : Nat) : Rat)) y fl))) ∧
    (q.instr = .vlog2 h r a 8#4 → goes 10 fun y fl z x => (y, fl) = flog2 q.ftz (Fmt.f32.val q.ftz x) ∧
      (z = .nan → y = 0x7FC00000 ∧ fl = none_) ∧ (z = .inf true → y = 0x7FC00000 ∧ fl = nv_) ∧ (z = .inf false → y = 0x7F800000 ∧ fl = none_) ∧
      (∀ u neg, z = .real u neg → (u = 0 → y = 0xFF800000 ∧ fl = none_) ∧ (u < 0 → y = 0x7FC00000 ∧ fl = nv_) ∧
        (∀ n : Nat, u = (2 ^ n : Nat) → f32.Encodes .rne 0 q.ftz (ofInt n) y fl) ∧
        (∀ n : Nat, u * (2 ^ n : Nat) = 1 → f32.Encodes .rne 0 q.ftz (ofInt (-(n : Int))) y fl))) ∧
    (q.instr = .vtanh h r a 8#4 → goes 10 fun y fl z x => (y, fl) = ftanh q.ftz (Fmt.f32.val q.ftz x) ∧
      (z = .nan → y = 0x7FC00000 ∧ fl = none_) ∧ (∀ neg, z = .inf neg → y = (if neg = true then 0xBF800000 else 0x3F800000) ∧ fl = none_) ∧
      (∀ neg, z = .real 0 neg → y = (if neg = true then 0x80000000 else 0) ∧ fl = none_)) ∧
    (∀ k : BitVec 2, q.instr = .vrnd h r a b 5#4 k → Elements s p c q h r 32 8 0 16 fun _ x i y fl => fl = none_ ∧
      y = ((drawn q (v x b i * 2 ^ 32 + v x a i)).getD k.toNat 0#32).toNat) ∧
    (q.instr = .vgumb h r a b 8#4 → Elements s p c q h r 32 12 0 16 fun _ x i y fl => fl = none_ ∧
      y = gumbel ((drawn q (v x b i * 2 ^ 32 + v x a i)).getD 0 0#32)) ∧
    (q.instr = .vsamp h r a b 8#4 → ∃ d, Started1 s p c d 16 ∧ Taken c d 0 q ∧ ∀ n, n < 16 → ∃ (y : Line) (fl : Flags),
      let x := c.cell n
      (⟨q.ord, .q0, c.now + 5, c.trap.tctx, .v n r y 0xFF#64, fl⟩ : Landing) ∈ d.landings ∧
      Samples q (v x r 2) (v x r 0) (v x r 1) (((List.range 16).filter (active x h 32)).map fun l => (v x a l, v x b l))
        (lane 32 y 0) (lane 32 y 1) fl))

/-- R96, R98, R99, R101 to R106, R176, R177, R179: the float operations that round. The special operands of VFADD, VFSUB and VFMUL: a NaN
operand gives the canonical NaN without a flag of its own; infinities that cancel and an infinity times zero give it with NV; otherwise
an infinity stays, with the sign the operation gives it. VFADD, VFSUB, VFMUL, VFMA, VFSCL and VDIV give the exact result rounded once in
the mode taken at issue, with FTZ and the draw of SR. VCVT converts the elements of its part, between any two formats; VQNT gives the
quotient by the group's scale rounded to an integer, plus the zero point, clamped; VDQNT gives the scale times the element less the zero
point.
The model's own: how SR and the directed modes round beyond the largest finite value, and the sign of an exact zero sum (log entry 54). -/
def Obligations.FloatSpecialOperands : Prop :=
  (∀ (s : State) (p : Nat) (c : Ctx) (q : QEntry) (h : Ex) (r a b : Reg) (ty : BitVec 4) (rm : BitVec 3) (t : Nat × Nat),
     Starts s p 0 c q → floatType ty = some t →
     let w := 1 + t.1 + t.2
     let goes (P : Nat → Nat → Nat → Prop) (NV : Nat → Nat → Prop) : Prop := ∃ d, Started1 s p c d 16 ∧ Taken c d 0 q ∧ ∀ n, n < 16 →
       let x (i : Nat) := lane w ((c.cell n).rv a) i
       let y (i : Nat) := lane w ((c.cell n).rv b) i
       Writes c d q n r w 3 (active (c.cell n) h w) (fun i z => P (x i) (y i) z)
         (fun fl => fl.nv = true ↔ ∃ i, i < 512 / w ∧ active (c.cell n) h w i = true ∧ NV (x i) (y i))
     let inf (sg : Nat) : Nat := sg * 2 ^ (w - 1) + (2 ^ t.1 - 1) * 2 ^ t.2
     let sum (flip : Nat) : Prop := goes
       (fun x y z => (isNan t x ∨ isNan t y → z = canonicalNan t) ∧
         (isInf t x → isInf t y → signAt t x ≠ (signAt t y + flip) % 2 → z = canonicalNan t) ∧
         (isInf t x → ¬ isNan t y → (isInf t y → signAt t x = (signAt t y + flip) % 2) → z = inf (signAt t x)) ∧
         (isInf t y → ¬ isNan t x → ¬ isInf t x → z = inf ((signAt t y + flip) % 2)))
       (fun x y => isInf t x ∧ isInf t y ∧ signAt t x ≠ (signAt t y + flip) % 2)
     (q.instr = .vfadd h r a b ty rm → sum 0) ∧ (q.instr = .vfsub h r a b ty rm → sum 1) ∧
     (q.instr = .vfmul h r a b ty rm → q.ftz = false → goes
       (fun x y z => (isNan t x ∨ isNan t y → z = canonicalNan t) ∧
         (isInf t x ∧ isZero t y ∨ isZero t x ∧ isInf t y → z = canonicalNan t) ∧
         (isInf t x ∧ ¬ isNan t y ∧ ¬ isZero t y ∨ isInf t y ∧ ¬ isNan t x ∧ ¬ isZero t x →
           z = inf ((signAt t x + signAt t y) % 2)))
       (fun x y => isInf t x ∧ isZero t y ∨ isZero t x ∧ isInf t y))) ∧
  (∀ (s : State) (p : Nat) (c : Ctx) (q : QEntry) (h : Ex) (r a b : Reg) (ty : BitVec 4) (rm : BitVec 3) (f : Form), Starts s p 0 c q →
    floatType ty ≠ none → form ty = some f →
    let w := 1 + f.e + f.m
    let v (x : Cell) (k : Reg) (i : Nat) : Quantity := f.read q.ftz (lane w (x.rv k) i)
    let goes (lat : Nat) (z : Cell → Nat → Quantity × Bool) : Prop :=
      Elements s p c q h r w lat 0 (512 / w) fun n x i y fl => f.Gives q.rmode (rounding c q n i) q.ftz (z x i) y fl
    (q.instr = .vfadd h r a b ty rm → goes 3 fun x i => plus q.rmode (v x a i) (v x b i)) ∧
    (q.instr = .vfsub h r a b ty rm → goes 3 fun x i => plus q.rmode (v x a i) (minus (v x b i))) ∧
    (q.instr = .vfmul h r a b ty rm → goes 3 fun x i => times (v x a i) (v x b i)) ∧
    (q.instr = .vfma h r a b ty rm → goes 4 fun x i => fused q.rmode (v x a i) (v x b i) (v x r i)) ∧
    (q.instr = .vfscl h r a b ty rm → goes 3 fun x i => (scaled (signedOf w (lane w (x.rv b) i)) (v x a i), false)) ∧
    (ty = 8#4 → q.instr = .vdiv h r a b ty rm → goes 18 fun x i => quotient (v x a i) (v x b i))) ∧
  (∀ (s : State) (p : Nat) (c : Ctx) (q : QEntry) (h : Ex) (r a : Reg) (ts ty : BitVec 4) (part : BitVec 2) (rm : BitVec 3) (ws wd : Nat),
    Starts s p 0 c q → anyType ts = some ws → anyType ty = some wd → max wd ws ≤ 4 * min wd ws → part.toNat * min wd ws < max wd ws →
    q.instr = .vcvt h r a ts ty part rm →
    let lo := if ws ≤ wd then 0 else part.toNat * (512 / ws)
    Elements s p c q h r wd 3 lo (512 / max wd ws) fun n x i y fl =>
      let z := value ts q.ftz (lane ws (x.rv a) (if ws ≤ wd then part.toNat * (512 / wd) + i else i - lo))
      (∀ t, intType4 ty = some t → ToInteger t q.rmode (rounding c q n i) z 0 y fl) ∧
      (∀ f, form ty = some f → f.Encodes q.rmode (rounding c q n i) q.ftz z y fl)) ∧
  (∀ (s : State) (p : Nat) (c : Ctx) (q : QEntry) (h : Ex) (r a b : Reg) (ty : BitVec 4) (rm : BitVec 3) (t : Nat × Bool),
    Starts s p 0 c q → intType4 ty = some t → t.1 = 8 ∨ t.1 = 4 →
    let sb := q.scal.2.toNat
    let part := sb / 2 ^ 24 % 8
    let scale := f16.read q.ftz (sb % 2 ^ 16)
    let zp := sb / 2 ^ 16 % 2 ^ t.1
    t.1 * part < 32 →
    (q.instr = .vqnt h r a b ty rm → Elements s p c q h r t.1 3 (16 * part) 16 fun n x i y fl =>
      let z := f32.read q.ftz (lane 32 (x.rv a) (i - 16 * part))
      ((z = .nan ∨ scale = .nan ∨ (∃ g, scale = .inf g) ∨ (∃ g, scale = .real 0 g)) → y = zp ∧ fl = nv_) ∧
      (z ≠ .nan → ∀ v g, scale = .real v g → v ≠ 0 → ToInteger t q.rmode (rounding c q n i) (quotient z scale).1 (asInt t zp) y fl)) ∧
    (q.instr = .vdqnt h r a b ty → Elements s p c q h r 32 3 0 16 fun _ x i y fl =>
      f32.Gives .rne 0 q.ftz (times scale (ofInt (asInt t (lane t.1 (x.rv a) (16 * part + i)) - asInt t zp))) y fl))

/-- R185 to R189: VCMP writes its predicate with latency 2: every bit of the bytes of an active element takes the comparison by
signedness, and those of an inactive one 0; VFCMP the same of float values, unordered with a NaN; VPLOG computes its function of two
predicates, never predicated; VSEL picks for every element, and VPCNT counts the true active elements into every lane; VVOTE writes its
condition for the whole panel with latency 4, by the active elements of all cells. -/
def Obligations.PredicateResults : Prop :=
  ∀ (s : State) (p : Nat) (c : Ctx) (q : QEntry), Starts s p 0 c q →
    (∀ h r a b ty (op : BitVec 3) t, q.instr = .vcmp h r a b ty op → intType ty = some t → op.toNat < 6 →
      ∃ d, Started1 s p c d 16 ∧ Taken c d 0 q ∧ ∀ n, n < 16 → ∃ y : BitVec 64,
        (⟨q.ord, .q0, c.now + 1, c.trap.tctx, .p n r y, .zero⟩ : Landing) ∈ d.landings ∧ ∀ j, j < 64 →
          let i := 8 * j / t.1
          let u := asInt t (lane t.1 ((c.cell n).rv a) i)
          let v := asInt t (lane t.1 ((c.cell n).rv b) i)
          (y.getLsbD j = true ↔ active (c.cell n) h t.1 i = true ∧
            (op = 0#3 ∧ u = v ∨ op = 1#3 ∧ u ≠ v ∨ op = 2#3 ∧ u < v ∨ op = 3#3 ∧ u ≤ v ∨ op = 4#3 ∧ v < u ∨ op = 5#3 ∧ v ≤ u))) ∧
    (∀ h r a b ty (op : BitVec 3) f, q.instr = .vfcmp h r a b ty op → floatType ty ≠ none → form ty = some f → op.toNat < 7 →
      let w := 1 + f.e + f.m
      ∃ d, Started1 s p c d 16 ∧ Taken c d 0 q ∧ ∀ n, n < 16 → ∃ y : BitVec 64,
        (⟨q.ord, .q0, c.now + 1, c.trap.tctx, .p n r y, .zero⟩ : Landing) ∈ d.landings ∧ ∀ j, j < 64 →
          let i := 8 * j / w
          let u := f.read q.ftz (lane w ((c.cell n).rv a) i)
          let v := f.read q.ftz (lane w ((c.cell n).rv b) i)
          (y.getLsbD j = true ↔ active (c.cell n) h w i = true ∧
            (op = 0#3 ∧ Equal u v ∨ op = 1#3 ∧ ¬ Equal u v ∨ op = 2#3 ∧ Below u v ∨ op = 3#3 ∧ (Below u v ∨ Equal u v) ∨ op = 4#3 ∧ Below v u ∨
              op = 5#3 ∧ (Below v u ∨ Equal u v) ∨ op = 6#3 ∧ (u = .nan ∨ v = .nan)))) ∧
    (∀ h r a b ty w, q.instr = .vsel h r a b ty → anyType ty = some w → ∃ d, Started1 s p c d 16 ∧ Taken c d 0 q ∧ ∀ n, n < 16 →
      Writes c d q n r w 2 (fun _ => true)
        (fun i y => y = lane w ((c.cell n).rv (if active (c.cell n) h w i = true then a else b)) i) (fun fl => fl = none_)) ∧
    (∀ h r a ty w, q.instr = .vpcnt h r a ty → anyType ty = some w → ∃ d, Started1 s p c d 16 ∧ Taken c d 0 q ∧ ∀ n, n < 16 →
      Writes c d q n r 32 2 (fun _ => true)
        (fun _ y => y = (List.range (512 / w)).countP fun i => active (c.cell n) h w i && ((c.cell n).rp a).getLsbD (i * w / 8))
        (fun fl => fl = none_)) ∧
    (∀ h r a b (op : BitVec 3), q.instr = .vplog h r a b op → op.toNat < 7 →
      ∃ d, Started1 s p c d 16 ∧ Taken c d 0 q ∧ ∀ n, n < 16 →
        let u := (c.cell n).rp a
        let v := (c.cell n).rp b
        let y := if op = 0#3 then u &&& v else if op = 1#3 then u ||| v else if op = 2#3 then u ^^^ v else if op = 3#3 then u &&& ~~~v
          else if op = 4#3 then u ||| ~~~v else if op = 5#3 then ~~~u else u
        (⟨q.ord, .q0, c.now + 1, c.trap.tctx, .p n r y, .zero⟩ : Landing) ∈ d.landings) ∧
    (∀ h r a ty al w, q.instr = .vvote h r a ty al → anyType ty = some w → r.toNat < 8 →
      let on (n i : Nat) : Prop := n < 16 ∧ i < 512 / w ∧ active (c.cell n) h w i = true
      let holds (n i : Nat) : Prop := ((c.cell n).rp a).getLsbD (i * w / 8) = true
      ∃ d y, Started1 s p c d 1 ∧ Taken c d 0 q ∧
        (⟨q.ord, .q0, c.now + 3, c.trap.tctx, .c (r.setWidth 3) y, .zero⟩ : Landing) ∈ d.landings ∧
        (al = false → (y = true ↔ ∃ n i, on n i ∧ holds n i)) ∧ (al = true → (y = true ↔ ∀ n i, on n i → holds n i)))

/-! The towers, the accumulators and the column queue (R60, R61, R194, R195, R218, R229, R308). -/

namespace Sys2Proof.Claims

/-- No debug check is on, and no line of the panel's towers holds an uncorrectable error. -/
def Quiet (c : Ctx) : Prop := c.sys.debugCtl = 0#64 ∧ ∀ n, (c.cell n).badLines = []

/-- The bytes of a cell in which a command is active (R194). -/
def activeBytes (x : Cell) (h : Ex) : BitVec 64 := if h.ps then ~~~(x.rp h.p) else x.rp h.p

/-- A word of 4 bytes at a tower offset, in its line; and the bytes of it that a mask of four names. -/
def wordAt (o v : Nat) : Line := BitVec.ofNat 512 (v * 2 ^ (8 * (o % 64)))
def wordMask (o m : Nat) : BitVec 64 := BitVec.ofNat 64 (m * 2 ^ (o % 64))

/-- Bytes 4l to 4l + 3 of a mask of 64, as a mask of four. -/
def maskOf (m : BitVec 64) (l : Nat) : Nat := m.toNat / 2 ^ (4 * l) % 16

/-- Among some accesses of an entry's command stands one of unit u, in cell n and cycle t, at offset o, that does act. -/
def Placed (c : Ctx) (q : QEntry) (u : EngUnit) (ops : List TowerOp) (n t o : Nat) (act : TowerAct) : Prop :=
  ∃ x ∈ ops, x.ord = q.ord ∧ x.cell = n ∧ x.cycle = t ∧ x.trap = c.trap.tctx ∧ x.unit = u ∧ x.off = o ∧ x.act = act

/-- The entry at the head of queue 0 starts and places in every cell k accesses, and nothing else of the towers, the cells and the
results changes: piece l of cell n in cycle at l, at offset off n l, doing act n l. -/
def Places (s : State) (p : Nat) (c : Ctx) (q : QEntry) (k : Nat) (at_ : Nat → Nat) (off : Nat → Nat → Nat)
    (act : Nat → Nat → TowerAct) : Prop :=
  ∃ (d : Ctx) (ops : List TowerOp), exec (.queueEntryStart p 0) s = .next (s.putCtx d) ∧ Taken c d 0 q ∧
    d.towerOps = c.towerOps ++ ops ∧ ops.length = 16 * k ∧ d.cells = c.cells ∧ d.landings = c.landings ∧ d.raised = c.raised ∧
    d.windows = c.windows ∧ ∀ n l, n < 16 → l < k → Placed c q .q0 ops n (at_ l) (off n l) (act n l)

/-- The tag of the position that a VLDR has in cell n, as its ring's tag store has it now. -/
def tagFound (c : Ctx) (q : QEntry) (m n : Nat) : U32 := ((c.cell n).ring m).tags.getD (q.ringPos.getD n (0#32, 0, 0)).2.1 0#32

/-- R203: words at some offsets, one after the other, each given the new value that R relates to the one it finds and to an operand: the
words before and after, the values found, and the flags. -/
inductive Atomics (R : Nat → Nat → Nat → Flags → Prop) (start : Nat → Nat) : List (Nat × Nat) → (Nat → Nat) → List Nat → Flags → Prop
  | none : Atomics R start [] start [] none_
  | next (xs : List (Nat × Nat)) (o b z : Nat) (m : Nat → Nat) (olds : List Nat) (fl g : Flags) : Atomics R start xs m olds fl →
      R (m o) b z g → Atomics R start (xs ++ [(o, b)]) (fun a => if a = o then z else m a) (olds ++ [m o])
        ⟨fl.nv || g.nv, fl.ovf || g.ovf, fl.sat || g.sat, fl.clash || g.clash⟩

/-- R203: the header, destination, offsets, operands and operation of a tower atomic. -/
def atomicForm (ftz : Bool) : Instr → Option (Ex × Reg × Reg × Reg × (Nat → Nat → Nat → Flags → Prop))
  | .vaadd h r a b ty => if ty = 4#4 ∨ ty = 5#4 then some (h, r, a, b, fun x y z fl => z = (x + y) % 2 ^ 32 ∧ fl = none_) else none
  | .vafadd h r a b ty =>
    if ty = 8#4 then some (h, r, a, b, fun x y z fl => f32.Gives .rne 0 ftz (plus .rne (f32.read ftz x) (f32.read ftz y)) z fl) else none
  | .vamin h r a b ty =>
    if ty = 4#4 ∨ ty = 5#4 then
      some (h, r, a, b, fun x y z fl => fl = none_ ∧ z = if asInt (32, ty = 4#4) y < asInt (32, ty = 4#4) x then y else x)
    else none
  | .vamax h r a b ty =>
    if ty = 4#4 ∨ ty = 5#4 then
      some (h, r, a, b, fun x y z fl => fl = none_ ∧ z = if asInt (32, ty = 4#4) x < asInt (32, ty = 4#4) y then y else x)
    else none
  | .vaswap h r a b ty => if ty = 4#4 ∨ ty = 5#4 ∨ ty = 8#4 then some (h, r, a, b, fun _ y z fl => z = y ∧ fl = none_) else none
  | _ => none

/-- R195 to R197: a piece of a command: its place in the register, its tower offset, its bytes, and how many cycles after the first it is
accessed. -/
structure Part where
  pos : Nat
  off : Nat
  len : Nat
  at_ : Nat

/-- The pieces of a load or store in one cell: a line, or a word for each lane. -/
def partsOf (q : QEntry) (x : Cell) : List Part :=
  let o (i : BitVec 12) : Nat := (q.scal.1.toNat + 64 * i.toNat) % 2 ^ 23
  match q.instr with
  | .vld _ _ _ i | .vst _ _ _ i => [⟨0, o i, 64, 0⟩]
  | .vlds _ _ _ i k | .vsts _ _ _ i k => (List.range 16).map fun l => ⟨4 * l, (o i + l * k.toNat * 2 ^ 17) % 2 ^ 23, 4, l / 8⟩
  | .vldx _ _ _ i k | .vstx _ _ _ i k => (List.range 16).map fun l => ⟨4 * l, (o i + lane 32 (x.rv k) l) % 2 ^ 23 / 4 * 4, 4, l⟩
  | _ => []

/-- R195 to R197: the header, register and latency of a load; the header and register of a store. -/
def loadForm : Instr → Option (Ex × Reg × Nat)
  | .vld h r _ _ => some (h, r, 6)
  | .vlds h r _ _ _ => some (h, r, 7)
  | .vldx h r _ _ _ => some (h, r, 21)
  | _ => none
def storeForm : Instr → Option (Ex × Reg)
  | .vst h r _ _ | .vsts h r _ _ _ | .vstx h r _ _ _ => some (h, r)
  | _ => none

/-- R245, R246: the enabled tower region that holds an offset, and the offset of the adjoint of the element at x. -/
def regionAt (c : Ctx) (o : Nat) : Option DRegion :=
  c.adj.regions.find? fun r => !r.global && decide (r.base ≤ o) && decide (o < r.base + r.len)
def shadowOf (r : DRegion) (x : Nat) : Nat := ((r.shadow + (((x - r.base) * 4 / r.ew : Nat) : Int)) % 2 ^ 23).toNat

/-- R200: the store pushes or pops: its line or a lane's word meets a region; for a VSTX any region is enough. -/
def Meets_ (c : Ctx) (q : QEntry) : Prop :=
  match q.instr with
  | .vstx _ _ _ _ _ => c.adj.regions ≠ []
  | _ => ∃ a ∈ partsOf q {}, regionAt c a.off ≠ none

/-- R201, R202: an element that a command reaches in a region with its lowest byte active: its place in the register, its offset, its width
in bytes and the offset of its adjoint. -/
structure Adj where
  pos : Nat
  off : Nat
  ew : Nat
  shadow : Nat

/-- The elements of some pieces. -/
def adjoints (c : Ctx) (x : Cell) (h : Ex) (ps : List Part) : List Adj :=
  ps.flatMap fun a => match regionAt c a.off with
    | none => []
    | some r => (List.range (a.len / r.ew)).filterMap fun k =>
      if (activeBytes x h).getLsbD (a.pos + k * r.ew) = true then
        some ⟨a.pos + k * r.ew, a.off + k * r.ew, r.ew, shadowOf r (a.off + k * r.ew)⟩
      else none

/-- The type code of an element of a region: BF16 or F32. -/
def adjCode (ew : Nat) : BitVec 4 := if ew = 2 then 7#4 else 8#4

/-- R201: elements in order, each added to its adjoint with RNE: the adjoints before and after, and the flags. -/
inductive Sums (ftz : Bool) (v : Line) (start : Nat → Nat) : List Adj → (Nat → Nat) → Flags → Prop
  | none : Sums ftz v start [] start none_
  | next (xs : List Adj) (a : Adj) (m : Nat → Nat) (z : Nat) (fl g : Flags) : Sums ftz v start xs m fl →
      f32.Gives .rne 0 ftz (plus .rne (f32.read ftz (m a.shadow)) (value (adjCode a.ew) ftz (lane (8 * a.ew) v (a.pos / a.ew)))) z g →
      Sums ftz v start (xs ++ [a]) (fun o => if o = a.shadow then z else m o)
        ⟨fl.nv || g.nv, fl.ovf || g.ovf, fl.sat || g.sat, fl.clash || g.clash⟩

/-- R202: elements in order, each taking its adjoint rounded to its type, and the adjoint +0: the adjoints, the elements and the flags. -/
inductive Takings (ftz : Bool) (start : Nat → Nat) : List Adj → (Nat → Nat) → List Nat → Flags → Prop
  | none : Takings ftz start [] start [] none_
  | next (xs : List Adj) (a : Adj) (m : Nat → Nat) (ys : List Nat) (z : Nat) (fl g : Flags) : Takings ftz start xs m ys fl →
      (∀ f, form (adjCode a.ew) = some f → f.Encodes .rne 0 ftz (value 8#4 ftz (m a.shadow)) z g) →
      Takings ftz start (xs ++ [a]) (fun o => if o = a.shadow then 0 else m o) (ys ++ [z])
        ⟨fl.nv || g.nv, fl.ovf || g.ovf, fl.sat || g.sat, fl.clash || g.clash⟩

/-- R250: byte t of the record of a piece whose store writes the bytes of a mask; its old bytes are put in when the store writes. -/
def recordByte (a : Part) (mask t : Nat) : Nat :=
  if a.len = 64 then (if t < 8 then (a.off + 2 ^ 23) / 256 ^ t % 256 else if t < 16 then mask / 256 ^ (t - 8) % 256 else 0)
  else if t < 8 then (a.off + mask * 2 ^ 24) / 256 ^ t % 256 else 0

/-- R250, R251: the bytes of a tape span: one large record, or sixteen small ones; and where the record of piece i begins in it. -/
def spanOf (ps : List Part) : Nat := if ps.length = 1 then 80 else 256
def recordAt (ps : List Part) (i : Nat) : Nat := if ps.length = 1 then 0 else 16 * i

/-- The bytes of a piece in which a command is active, as a number. -/
def partMask (x : Cell) (h : Ex) (a : Part) : Nat := (activeBytes x h).toNat / 2 ^ a.pos % 2 ^ a.len

/-- R200, R250, R251: what a store in FWD mode adds to the accesses of cell n: its own writes, whose old bytes go to their places on the tape,
and the records' bytes, written a line a cycle from start + 3. -/
def Pushes (c : Ctx) (q : QEntry) (ops : List TowerOp) (n : Nat) (h : Ex) (r : Reg) (ps : List Part) : Prop :=
  let ptr := c.adj.tapePtr.toNat
  let mine (x : TowerOp) (t o : Nat) : Prop :=
    x.ord = q.ord ∧ x.cell = n ∧ x.cycle = t ∧ x.trap = c.trap.tctx ∧ x.unit = .q0 ∧ x.off = o
  (∀ (i : Nat) (a : Part), ps[i]? = some a → ∃ x ∈ ops, mine x (c.now + 3 + a.at_) a.off ∧
    x.keep = some (ptr + recordAt ps i + (if a.len = 64 then 16 else 8), a.len) ∧
    ∃ (y : Line) (m : BitVec 64), x.act = .write y m ∧
      (∀ t, t < a.len → a.off % 64 + t < 64 → lane 8 y (a.off % 64 + t) = lane 8 ((c.cell n).rv r) (a.pos + t)) ∧
      ∀ j, j < 64 → (m.getLsbD j = true ↔ a.off % 64 ≤ j ∧ j < a.off % 64 + a.len ∧
        (activeBytes (c.cell n) h).getLsbD (a.pos + (j - a.off % 64)) = true)) ∧
  (∀ (i : Nat) (a : Part) (t : Nat), ps[i]? = some a → t < spanOf ps / ps.length →
    let o := ptr + recordAt ps i + t
    ∃ x ∈ ops, mine x (c.now + 3 + (o / 64 - ptr / 64)) (o / 64 * 64) ∧ x.keep = none ∧
      ∃ (y : Line) (m : BitVec 64), x.act = .write y m ∧ m.getLsbD (o % 64) = true ∧
        lane 8 y (o % 64) = recordByte a (if regionAt c a.off = none then 0 else partMask (c.cell n) h a) t)

/-- TVAL of TAPE_FULL and TAPE_REFILL (R251). -/
def tapeValue (c : Ctx) (len : Nat) : U64 := BitVec.ofNat 64 (c.adj.tapePtr.toNat * 2 ^ 32 + len)

end Sys2Proof.Claims

/-- R60 to R62, R68, R194 to R203, R250 to R252, R308: the tower commands. Where the adjoint mode does not change it, each places its accesses in the bank cycles of its
row: VLD and VST a line, VLDS, VSTS, VLDX and VSTX a word for each lane at the lane's own offset; nothing of the towers changes before. A
VLDR checks its position's tag in every cell, a mismatch before a pending one, and reads its line; a VSTR must be the next line of its
fill, opens the fill with line 0, and completes it with the last. A tower atomic gives its active lanes the words they find, in ascending
order, reserves their banks for three cycles and writes the words at the end of them; in FWD and REV it may not reach a region. A load in
REV mode adds the elements that it reaches in regions to their adjoints and reads +0 for them; a store that meets a region pushes in FWD
mode a record for each piece, with the bytes that stood there, or traps TAPE_FULL; in REV mode it pops its records, takes the adjoints
into its register, leaves +0 there and writes the recorded bytes back, or traps TAPE_REFILL, ILLEGAL or SCHEDULE with no effect. (Log
entries 59: old bytes of a line of the tape that is written before them; 104: the flags of a sum; 107: which cell TVAL is of.) In its
bank cycle a read takes the bytes as they are, and a write changes its masked bytes alone. -/
def Obligations.TowerLinesMoveInTheirBankCycle : Prop :=
  (∀ (s : State) (p : Nat) (c : Ctx) (q : QEntry) (h : Ex) (r a : Reg) (i : BitVec 12), Starts s p 0 c q → Quiet c →
    let o := (q.scal.1.toNat + 64 * i.toNat) % 2 ^ 23
    let act (n : Nat) : BitVec 64 := activeBytes (c.cell n) h
    let data (n l : Nat) : Nat := lane 32 ((c.cell n).rv r) l
    let asOff : Prop := q.admode = .off ∨ q.admode = .fwd ∧ loadForm q.instr ≠ none ∨ storeForm q.instr ≠ none ∧ ¬ Meets_ c q
    (asOff → o % 64 = 0 → q.instr = .vld h r a i →
      Places s p c q 1 (fun _ => c.now) (fun _ _ => o) fun n _ => .read 64 (.vreg r 0 (act n) (c.now + 5))) ∧
    (asOff → o % 64 = 0 → q.instr = .vst h r a i →
      Places s p c q 1 (fun _ => c.now + 3) (fun _ _ => o) fun n _ => .write ((c.cell n).rv r) (act n)) ∧
    (∀ k, asOff → q.instr = .vlds h r a i k → Places s p c q 16 (fun l => c.now + l / 8) (fun _ l => (o + l * k.toNat * 2 ^ 17) % 2 ^ 23)
      fun n l => .read 4 (.vreg r (4 * l) (act n) (c.now + 6))) ∧
    (∀ k, asOff → q.instr = .vsts h r a i k →
      let at_ (l : Nat) : Nat := (o + l * k.toNat * 2 ^ 17) % 2 ^ 23
      Places s p c q 16 (fun l => c.now + 3 + l / 8) (fun _ l => at_ l)
        fun n l => .write (wordAt (at_ l) (data n l)) (wordMask (at_ l) (maskOf (act n) l))) ∧
    (∀ k, asOff → q.instr = .vldx h r a i k → Places s p c q 16 (fun l => c.now + l)
      (fun n l => (o + lane 32 ((c.cell n).rv k) l) % 2 ^ 23 / 4 * 4) fun n l => .read 4 (.vreg r (4 * l) (act n) (c.now + 20))) ∧
    (∀ k, asOff → q.instr = .vstx h r a i k →
      let at_ (n l : Nat) : Nat := (o + lane 32 ((c.cell n).rv k) l) % 2 ^ 23 / 4 * 4
      Places s p c q 16 (fun l => c.now + 3 + l) at_
        fun n l => .write (wordAt (at_ n l) (data n l)) (wordMask (at_ n l) (maskOf (act n) l)))) ∧
  (∀ (s : State) (p : Nat) (c : Ctx) (q : QEntry) (h : Ex) (r : Reg) (m : BitVec 3) (ll lh : BitVec 4) (i : BitVec 8),
    Starts s p 0 c q → Quiet c → q.instr = .vldr h r m ll i lh →
    let pos (n : Nat) : U32 := (q.ringPos.getD n (0#32, 0, 0)).1
    let pends (n : Nat) : Prop := tagFound c q m.toNat n = pos n - BitVec.ofNat 32 ((c.cell n).ring m.toNat).count
    let wrong (n : Nat) : Prop := tagFound c q m.toNat n ≠ pos n ∧ ¬ pends n
    (∀ n, n < 16 → wrong n → (∀ k, k < n → ¬ wrong k) → exec (.queueEntryStart p 0) s =
      goesTo s (faulted c 0 0x06#8 0#8 (BitVec.ofNat 64 ((tagFound c q m.toNat n).toNat * 2 ^ 32 + (pos n).toNat)))) ∧
    ((∀ n, n < 16 → ¬ wrong n) → (∃ n, n < 16 ∧ tagFound c q m.toNat n ≠ pos n) →
      exec (.queueEntryStart p 0) s = goesTo s { c with time := { c.time with heldQ := c.time.heldQ ++ [(0, 1)] } }) ∧
    ((∀ n, n < 16 → tagFound c q m.toNat n = pos n) →
      Places s p c q 1 (fun _ => c.now) (fun n _ => (q.ringPos.getD n (0#32, 0, 0)).2.2)
        fun n _ => .read 64 (.vreg r 0 (activeBytes (c.cell n) h) (c.now + 5)))) ∧
  (∀ (s : State) (p : Nat) (c : Ctx) (q : QEntry) (h : Ex) (r : Reg) (m : BitVec 3) (ll lh : BitVec 4), Starts s p 0 c q → Quiet c →
    q.instr = .vstr h r m ll lh →
    let l := 16 * lh.toNat + ll.toNat
    let g (n : Nat) : Ring := (c.cell n).ring m.toNat
    let full (n : Nat) : Prop := (g n).count ≤ ((g n).nexttag - (g n).head).toNat
    let next : Prop := ∀ n, n < 16 → (g n).conf = true ∧ (g n).opened = l
    (¬ next → exec (.queueEntryStart p 0) s = goesTo s (faulted c 0 0x01#8 0x08#8 (wordsOf q.instr))) ∧
    (next → q.admode = .rev → c.adj.regions ≠ [] →
      exec (.queueEntryStart p 0) s = goesTo s (faulted c 0 0x01#8 0x09#8 (wordsOf q.instr))) ∧
    (∀ n, next → q.admode ≠ .rev ∨ c.adj.regions = [] → l = 0 → n < 16 → full n → (∀ k, k < n → ¬ full k) → exec (.queueEntryStart p 0) s =
      goesTo s (faulted c 0 0x06#8 0#8 (BitVec.ofNat 64 ((g n).nexttag.toNat * 2 ^ 32 + (g n).head.toNat)))) ∧
    let pushes : Prop := q.admode = .fwd ∧ c.adj.regions ≠ []
    let free : Prop := l = 0 → ∀ n, n < 16 → ¬ full n ∧ ∀ f ∈ (g n).fills, f.ord ≠ some q.ord
    (next → pushes → free → c.adj.tapeLim.toNat < c.adj.tapePtr.toNat + 80 →
      exec (.queueEntryStart p 0) s = goesTo s (faulted c 0 0x09#8 0#8 (tapeValue c 80))) ∧
    (next → q.admode ≠ .rev ∨ c.adj.regions = [] → free → (pushes → c.adj.tapePtr.toNat + 80 ≤ c.adj.tapeLim.toNat) →
      let opened (n : Nat) : Ring :=
        if l = 0 then
          { g n with claimed := if (g n).nexttag = (g n).claimed then (g n).claimed + 1#32 else (g n).claimed,
                     nexttag := (g n).nexttag + 1#32, fslot := ((g n).fslot + 1) % max 1 (g n).count, openOrd := q.ord,
                     fills := (g n).fills ++ [⟨(g n).nexttag, (g n).fslot, some q.ord, [], none, false⟩] }
        else g n
      let slot (n : Nat) : Nat :=
        if l = 0 then (g n).fslot else (((g n).fills.find? fun f => f.ord == some (g n).openOrd).map (·.slot)).getD 0
      ∃ (d : Ctx) (ops : List TowerOp), exec (.queueEntryStart p 0) s = .next (s.putCtx d) ∧ Taken c d 0 q ∧
        d.towerOps = c.towerOps ++ ops ∧ (¬ pushes → ops.length = 16 ∧ d.adj = c.adj) ∧
        (pushes → d.adj = { c.adj with tapePtr := BitVec.ofNat 23 (c.adj.tapePtr.toNat + 80) }) ∧
        (∀ n, n < 16 →
          d.cell n = (c.cell n).setRing m.toNat { opened n with opened := if l + 1 = (g n).size then 0 else l + 1 } ∧
          let o := ((g n).base + 64 * (g n).size * slot n + 64 * l) % 2 ^ 23
          (o % 64 = 0 → Placed c q .q0 ops n (c.now + 3) o (.write ((c.cell n).rv r) (activeBytes (c.cell n) h))) ∧
          (pushes → Pushes c q ops n h r [⟨0, o, 64, 0⟩])) ∧
        d.landings = c.landings ++ if l + 1 = (g 0).size then
          (List.range 16).map fun n =>
            (⟨q.ord, .q0, c.now + 4, c.trap.tctx, .fillDone n m.toNat (opened n).openOrd, .zero⟩ : Landing)
        else [])) ∧
  (∀ (s : State) (p : Nat) (c : Ctx) (q : QEntry) (h : Ex) (r a b : Reg) (R : Nat → Nat → Nat → Flags → Prop), Starts s p 0 c q →
    Quiet c → c.windows = [] → atomicForm q.ftz q.instr = some (h, r, a, b, R) →
    let off (n l : Nat) : Nat := lane 32 ((c.cell n).rv a) l % 2 ^ 23 / 4 * 4
    let lanes (n : Nat) : List Nat := (List.range 16).filter (active (c.cell n) h 32)
    let inside : Prop := ∃ n l, n < 16 ∧ l ∈ lanes n ∧ ∃ x ∈ c.adj.regions, x.global = false ∧ x.base ≤ off n l ∧ off n l < x.base + x.len
    (q.admode ≠ .off → inside → exec (.queueEntryStart p 0) s = goesTo s (faulted c 0 0x01#8 0x09#8 (wordsOf q.instr))) ∧
    (q.admode = .off ∨ ¬ inside → ∃ (d : Ctx) (ops : List TowerOp), exec (.queueEntryStart p 0) s = .next (s.putCtx d) ∧ Taken c d 0 q ∧
      d.towerOps = c.towerOps ++ ops ∧ d.cells = c.cells ∧ d.raised = c.raised ∧
      (∃ ls, d.landings = c.landings ++ ls ∧ ls.length = 16) ∧
      (∀ w ∈ d.windows, w.ord = q.ord ∧ w.first = c.now ∧ w.last = c.now + 2 ∧ w.trap = c.trap.tctx ∧ w.cell < 16) ∧
      ∀ n, n < 16 → ∃ (m : Nat → Nat) (olds : List Nat) (fl : Flags) (y : Line) (k : BitVec 64),
        Atomics R (fun o => bytesAt (c.cell n).tower o 4) ((lanes n).map fun l => (off n l, lane 32 ((c.cell n).rv b) l)) m olds fl ∧
        (⟨q.ord, .q0, c.now + 5, c.trap.tctx, .v n r y k, fl⟩ : Landing) ∈ d.landings ∧
        olds = (lanes n).map (fun l => lane 32 y l) ∧ (∀ j, j < 64 → k.getLsbD j = active (c.cell n) h 32 (j / 4)) ∧
        (∀ l ∈ lanes n, Placed c q .q0 ops n (c.now + 2) (off n l) (.atomicWrite (wordAt (off n l) (m (off n l))) (wordMask (off n l) 15)) ∧
          (ops.filter fun x => x.cell == n && x.off == off n l).length = 1 ∧
          ∃ w ∈ d.windows, w.cell = n ∧ w.bank = off n l / 2 ^ 17) ∧
        (∀ x ∈ ops, x.cell = n → ∃ l ∈ lanes n, x.off = off n l) ∧
        (∀ w ∈ d.windows, w.cell = n → ∃ l ∈ lanes n, w.bank = off n l / 2 ^ 17))) ∧
  (∀ (s : State) (p : Nat) (c : Ctx) (q : QEntry) (h : Ex) (r : Reg) (lat : Nat), Starts s p 0 c q → Quiet c → c.windows = [] →
    (∀ g ∈ c.adj.regions, g.base % 64 = 0) → (∀ n, n < 16 → ∀ a ∈ partsOf q (c.cell n), a.off % a.len = 0) →
    q.admode = .rev → loadForm q.instr = some (h, r, lat) →
    ∃ (d : Ctx) (ops : List TowerOp), exec (.queueEntryStart p 0) s = .next (s.putCtx d) ∧ Taken c d 0 q ∧
      d.towerOps = c.towerOps ++ ops ∧ d.cells = c.cells ∧ d.raised = c.raised ∧ d.adj = c.adj ∧
      (∃ ls, d.landings = c.landings ++ ls ∧ ls.length = 16) ∧
      ∀ n, n < 16 → ∃ (xs : List Adj) (m : Nat → Nat) (fl : Flags) (k : BitVec 64),
        xs.Perm (adjoints c (c.cell n) h (partsOf q (c.cell n))) ∧ xs.Pairwise (fun a b => a.off ≤ b.off) ∧
        Sums q.ftz ((c.cell n).rv r) (fun o => bytesAt (c.cell n).tower o 4) xs m fl ∧
        (⟨q.ord, .q0, c.now + lat - 1, c.trap.tctx, .v n r 0#512 k, fl⟩ : Landing) ∈ d.landings ∧
        (∀ j, j < 64 → (k.getLsbD j = true ↔ ∃ a ∈ xs, a.pos ≤ j ∧ j < a.pos + a.ew)) ∧
        (∀ a ∈ xs, Placed c q .q0 ops n (c.now + 2) a.shadow (.atomicWrite (wordAt a.shadow (m a.shadow)) (wordMask a.shadow 15)) ∧
          (⟨q.ord, n, a.shadow / 2 ^ 17, c.now, c.now + 2, c.trap.tctx⟩ : Window) ∈ d.windows) ∧
        ∀ a ∈ partsOf q (c.cell n), Placed c q .q0 ops n (c.now + a.at_) a.off
          (.read a.len (if regionAt c a.off = none then .vreg r a.pos (activeBytes (c.cell n) h) (c.now + lat - 1) else .none))) ∧
  (∀ (s : State) (p : Nat) (c : Ctx) (q : QEntry) (h : Ex) (r : Reg), Starts s p 0 c q → Quiet c → c.windows = [] →
    (∀ g ∈ c.adj.regions, g.base % 64 = 0) → (∀ n, n < 16 → ∀ a ∈ partsOf q (c.cell n), a.off % a.len = 0) →
    Meets_ c q → storeForm q.instr = some (h, r) →
    let ptr := c.adj.tapePtr.toNat
    let ps (n : Nat) : List Part := partsOf q (c.cell n)
    let span := spanOf (ps 0)
    (q.admode = .fwd →
      (c.adj.tapeLim.toNat < ptr + span → exec (.queueEntryStart p 0) s = goesTo s (faulted c 0 0x09#8 0#8 (tapeValue c span))) ∧
      (ptr + span ≤ c.adj.tapeLim.toNat → ∃ (d : Ctx) (ops : List TowerOp), exec (.queueEntryStart p 0) s = .next (s.putCtx d) ∧
        Taken c d 0 q ∧ d.towerOps = c.towerOps ++ ops ∧ d.cells = c.cells ∧ d.raised = c.raised ∧ d.landings = c.landings ∧
        d.windows = c.windows ∧ d.adj = { c.adj with tapePtr := BitVec.ofNat 23 (ptr + span) } ∧ ∀ n, n < 16 → Pushes c q ops n h r (ps n))) ∧
    (q.admode = .rev →
      let from_ := ptr - span
      let word (n i : Nat) : Nat := bytesAt (c.cell n).tower (from_ + recordAt (ps n) i) 8
      let wrong (n i : Nat) : Prop := n < 16 ∧ ∃ a, (ps n)[i]? = some a ∧ (word n i % 2 ^ 23 ≠ a.off ∨ ¬ (word n i / 2 ^ 23 % 2 = 1 ↔ a.len = 64))
      let names (n i t : Nat) : Prop :=
        if span = 80 then bytesAt (c.cell n).tower (from_ + 8) 8 / 2 ^ t % 2 = 1 else word n i / 2 ^ (24 + t) % 2 = 1 ∧ t < 4
      (ptr < c.adj.tapeBase.toNat + span → c.adj.tapeSpill = 0#32 →
        exec (.queueEntryStart p 0) s = goesTo s (faulted c 0 0x01#8 0x09#8 (wordsOf q.instr))) ∧
      (ptr < c.adj.tapeBase.toNat + span → c.adj.tapeSpill ≠ 0#32 →
        exec (.queueEntryStart p 0) s = goesTo s (faulted c 0 0x0A#8 0#8 (tapeValue c span))) ∧
      (c.adj.tapeBase.toNat + span ≤ ptr → ∀ n i a, wrong n i → (ps n)[i]? = some a → (∀ n' i', wrong n' i' → n < n' ∨ n = n' ∧ i' ≤ i) →
        exec (.queueEntryStart p 0) s =
          goesTo s (faulted c 0 0x06#8 0#8 (BitVec.ofNat 64 (word n i % 2 ^ 23 * 2 ^ 32 + a.off)))) ∧
      (c.adj.tapeBase.toNat + span ≤ ptr → (∀ n i, ¬ wrong n i) →
        ∃ (d : Ctx) (ops : List TowerOp), exec (.queueEntryStart p 0) s = .next (s.putCtx d) ∧ Taken c d 0 q ∧
          d.towerOps = c.towerOps ++ ops ∧ d.cells = c.cells ∧ d.raised = c.raised ∧
          d.adj = { c.adj with tapePtr := BitVec.ofNat 23 from_ } ∧ (∃ ls, d.landings = c.landings ++ ls ∧ ls.length = 16) ∧
          ∀ n, n < 16 → ∃ (m : Nat → Nat) (ys : List Nat) (fl : Flags) (y : Line) (k : BitVec 64),
            let xs := adjoints c (c.cell n) h (ps n).reverse
            Takings q.ftz (fun o => bytesAt (c.cell n).tower o 4) xs m ys fl ∧
            (⟨q.ord, .q0, c.now + 5, c.trap.tctx, .v n r y k, fl⟩ : Landing) ∈ d.landings ∧
            (∀ a z, (a, z) ∈ xs.zip ys → lane (8 * a.ew) y (a.pos / a.ew) = z) ∧
            (∀ j, j < 64 → (k.getLsbD j = true ↔ ∃ a ∈ xs, a.pos ≤ j ∧ j < a.pos + a.ew)) ∧
            (∀ a ∈ xs, Placed c q .q0 ops n (c.now + 2) a.shadow (.atomicWrite (wordAt a.shadow 0) (wordMask a.shadow 15)) ∧
              (⟨q.ord, n, a.shadow / 2 ^ 17, c.now, c.now + 2, c.trap.tctx⟩ : Window) ∈ d.windows) ∧
            ∀ i a, (ps n)[i]? = some a → ∃ (z : Line) (b : BitVec 64), Placed c q .q0 ops n (c.now + 3 + a.at_) a.off (.write z b) ∧
              (∀ j, j < 64 → (b.getLsbD j = true ↔ a.off % 64 ≤ j ∧ j < a.off % 64 + a.len ∧
                let t := j - a.off % 64
                if regionAt c a.off = none then (activeBytes (c.cell n) h).getLsbD (a.pos + t) = true
                else names n i t ∧ ∀ i' a', i' < i → (ps n)[i']? = some a' → a'.off = a.off → ¬ names n i' t)) ∧
              ∀ t, t < a.len → a.off % 64 + t < 64 → lane 8 z (a.off % 64 + t) =
                if regionAt c a.off = none then lane 8 ((c.cell n).rv r) (a.pos + t)
                else (Store.get (c.cell n).tower (from_ + recordAt (ps n) i + (if span = 80 then 16 else 8) + t)).toNat))) ∧
  (∀ (s : State) (p : Nat) (c : Ctx) (x y : TowerOp) (dx dy : Line) (mx my : BitVec 64) (dst len : Nat), s.ctx? p = some c →
    c.towerOps = [x, y] → x.trap = c.trap.tctx → y.trap = c.trap.tctx → x.cycle = c.now → y.cycle = c.now → x.ord = y.ord → y.cell = x.cell →
    x.cell < 16 → x.off < 2 ^ 23 → y.off < 2 ^ 23 → y.off % 64 = 0 → x.off / 2 ^ 17 ≠ y.off / 2 ^ 17 → x.act = .write dx mx →
    y.act = .write dy my → x.keep = some (dst, len) → len ≤ 64 → dst + len ≤ 2 ^ 23 → x.off + len ≤ 2 ^ 23 → y.keep = none → c.windows = [] →
    c.landings = [] → c.flights = [] → c.raised = [] → c.glob.queue = [] → c.issue.leaving = false → Store.wf (c.cell x.cell).tower = true →
    ∃ d, exec (.resultWriteback p) s = .next (s.putCtx d) ∧
      (∀ t, t < len → (dst + t) / 64 * 64 = y.off → my.getLsbD ((dst + t) % 64) = true →
        Store.get (d.cell x.cell).tower (dst + t) = Store.get (c.cell x.cell).tower (x.off + t))) ∧
  (∀ (s : State) (p : Nat) (c : Ctx) (x : TowerOp), s.ctx? p = some c → c.towerOps = [x] → x.trap = c.trap.tctx → x.cycle = c.now →
    x.cell < 16 → x.off < 2 ^ 23 → x.keep = none → (∀ w ∈ c.windows, w.ord = x.ord) → c.landings = [] → c.flights = [] →
    c.raised = [] → c.glob.queue = [] → c.issue.leaving = false → Store.wf (c.cell x.cell).tower = true →
    ∃ d, exec (.resultWriteback p) s = .next (s.putCtx d) ∧ d.towerOps = [] ∧
      (∀ len r pos m t, x.act = .read len (.vreg r pos m t) → x.off % 64 + len ≤ 64 → pos + len ≤ 64 → c.now < t →
        d.cells = c.cells ∧ ∃ (y : Line) (k : BitVec 64), d.landings = [⟨x.ord, x.unit, t, x.trap, .v x.cell r y k, .zero⟩] ∧
          (∀ j, j < len → lane 8 y (pos + j) = (Store.get (c.cell x.cell).tower (x.off + j)).toNat) ∧
          ∀ j, j < 64 → (k.getLsbD j = true ↔ m.getLsbD j = true ∧ pos ≤ j ∧ j < pos + len)) ∧
      (∀ y m, x.act = .write y m ∨ x.act = .matrixWrite y m ∨ x.act = .atomicWrite y m →
        d.landings = [] ∧ (∀ n, n < 16 → n ≠ x.cell → d.cell n = c.cell n) ∧
        (d.cell x.cell).v = (c.cell x.cell).v ∧ (d.cell x.cell).p = (c.cell x.cell).p ∧ (d.cell x.cell).acc = (c.cell x.cell).acc ∧
        (d.cell x.cell).rings = (c.cell x.cell).rings ∧
        let b := x.off / 64 * 64
        (∀ j, j < 64 → Store.get (d.cell x.cell).tower (b + j) =
          if m.getLsbD j then BitVec.ofNat 8 (lane 8 y j) else Store.get (c.cell x.cell).tower (b + j)) ∧
        (∀ k, k < b ∨ b + 64 ≤ k → Store.get (d.cell x.cell).tower k = Store.get (c.cell x.cell).tower k)))

/-! The matrix, movement and column commands, and the motif call (R108 to R111, R141, R206 to R229, R256, R260, R309, R313, R344, R346). -/

namespace Sys2Proof.Claims

/-- Fields of a format word (R141). -/
def typeA (w : U64) : BitVec 4 := w.extractLsb' 60 4
def typeB (w : U64) : BitVec 4 := w.extractLsb' 56 4
def typeAcc (w : U64) : BitVec 4 := w.extractLsb' 52 4
def scaleMode (w : U64) : Nat := (w.extractLsb' 50 2).toNat
def groupCode (w : U64) : Nat := (w.extractLsb' 48 2).toNat
def scaleRing (w : U64) : Nat := (w.extractLsb' 45 3).toNat
def zeroRing (w : U64) : Nat := (w.extractLsb' 42 3).toNat
def outRound (w : U64) : RMode := if w.extractLsb' 40 2 = 0#2 then .rne else if w.extractLsb' 40 2 = 1#2 then .rtz else .sr

/-- R107, R141: the row of the table that the types a and b, the scale mode and the accumulator type of a word match. -/
def RowOf (a b acc : BitVec 4) (scale : Nat) : Prop :=
  let both (xs : List (BitVec 4)) : Prop := a ∈ xs ∧ b ∈ xs
  let float : Prop := acc = 8#4 ∨ acc = 6#4
  scale = 0 ∧ (both [8#4] ∧ acc = 8#4 ∨ both [6#4, 7#4] ∧ float ∨ both [9#4, 10#4] ∧ float ∨ both [0#4, 1#4] ∧ acc = 4#4 ∨
      both [11#4] ∧ float ∨ both [12#4, 13#4] ∧ acc = 4#4) ∨
    scale = 1 ∧ acc = 8#4 ∧ (both [0#4, 1#4] ∨ both [12#4, 13#4]) ∨
    scale = 2 ∧ acc = 8#4 ∧ (both [9#4, 10#4] ∨ both [0#4] ∨ both [11#4] ∨ both [12#4])

/-- R107, R141: a command of a scale mode takes the word; b stands for its B type. -/
def Takes (w : U64) (b : BitVec 4) (scale : Nat) : Prop :=
  RowOf (typeA w) b (typeAcc w) scale ∧ scaleMode w = scale ∧ w.extractLsb' 40 2 ≠ 3#2 ∧ w.extractLsb' 0 38 = 0#38 ∧
    groupCode w ≠ 3 ∧ (scale ≠ 1 → groupCode w = 0) ∧ (scale = 0 → scaleRing w = 0 ∧ zeroRing w = 0)

/-- Reduction elements of a word, the products that one element sums exactly, and groups per command and column (R107, R213). -/
def depth (w : U64) : Nat := 512 / bitsOf (typeA w)
def exactly (w : U64) : Nat := 32 / bitsOf (typeA w)
def groups (w : U64) : Nat := max 1 (depth w / (32 * 2 ^ groupCode w))

/-- The fields of a product command (R210): its scale mode, tile, rings, sizes and bits. -/
structure Product where
  h : Ex
  scale : Nat
  tile : Nat
  ra : Nat
  rb : Nat
  n : Nat
  m : Nat
  tr : Bool
  z : Bool
  pa : Bool
  pb : Bool
  ps : Bool

/-- The product command that an instruction is. -/
def productOf : Instr → Option Product
  | .mma h t ra rb n m tr z pa pb => some ⟨h, 0, t.toNat, ra.toNat, rb.toNat, 16 * (n.toNat + 1), 16 * 2 ^ m.toNat, tr, z, pa, pb, false⟩
  | .mmaq h t ra rb n m tr z pa pb ps => some ⟨h, 1, t.toNat, ra.toNat, rb.toNat, 16 * (n.toNat + 1), 16 * 2 ^ m.toNat, tr, z, pa, pb, ps⟩
  | .mmab h t ra rb n m tr z pa pb ps => some ⟨h, 2, t.toNat, ra.toNat, rb.toNat, 16 * (n.toNat + 1), 16 * 2 ^ m.toNat, tr, z, pa, pb, ps⟩
  | _ => none

/-- R212 to R214: what a product reads under a word: operand number, ring, and lines. -/
def operands (o : Product) (w : U64) : List (Nat × Nat × Nat) :=
  let k := depth w
  let lines (b : Nat) : Nat := (b + 63) / 64
  [(0, o.ra, o.m), (1, o.rb, o.n)] ++
    if scaleMode w = 1 then [(2, scaleRing w, lines (2 * o.n * groups w)), (3, zeroRing w, lines (o.n * groups w))]
    else if scaleMode w = 2 then
      [(2, scaleRing w, lines ((o.m + 31) / 32 * (k / 32))), (3, zeroRing w, lines ((o.n + 31) / 32 * (k / 32)))]
    else []

/-- R309: the cycle after the start in which line l of an operand is read. -/
def operandCycle (o : Product) (which l : Nat) : Nat := if which = 0 then l / 16 * o.n + l % 16 else l

/-- A ring that some cell has not configured, or whose slot is too small. -/
def Short (c : Ctx) (r k : Nat) : Prop := ∃ n, n < 16 ∧ (((c.cell n).ring r).conf = false ∨ ((c.cell n).ring r).size < k)

/-- R68: the tag of a ring's HEAD position in cell n is the one expected, that of the lap before, or neither. -/
def tagAt (c : Ctx) (n m : Nat) : U32 := ((c.cell n).ring m).tags.getD ((c.cell n).ring m).hslot 0#32
def TagThere (c : Ctx) (n m : Nat) : Prop := tagAt c n m = ((c.cell n).ring m).head
def TagWrong (c : Ctx) (n m : Nat) : Prop :=
  ¬ TagThere c n m ∧ tagAt c n m ≠ ((c.cell n).ring m).head - BitVec.ofNat 32 ((c.cell n).ring m).count

/-- A command that acts as one on a cell is active there when bit 0 of its predicate is (R210, R221). -/
def moving (x : Cell) (h : Ex) : Bool := (activeBytes x h).getLsbD 0

/-- Line l of an operand in cell n, among the lines read; and byte b of the operand's slot. -/
def lineRead (ls : List (Nat × Nat × Nat × Line)) (n which l : Nat) : Line :=
  ((ls.find? fun x => x.1 == n && x.2.1 == which && x.2.2.1 == l).map (·.2.2.2)).getD 0#512
def byteRead (ls : List (Nat × Nat × Nat × Line)) (n which b : Nat) : Nat := lane 8 (lineRead ls n which (b / 64)) (b % 64)

/-- R97: an E8M0 scale. -/
def power (x : Nat) : Quantity :=
  if x = 255 then .nan else .real (if 127 ≤ x then ((2 ^ (x - 127) : Nat) : Rat) else 1 / ((2 ^ (127 - x) : Nat) : Rat)) false

/-- R110 to R112, R212 to R214: A(i, k) and B(k, j) after their scales. -/
def factorA (w : U64) (ls : List (Nat × Nat × Nat × Line)) (n i k : Nat) : Quantity × Bool :=
  let v := value (typeA w) (w.getLsbD 38) (lane (bitsOf (typeA w)) (lineRead ls n 0 i) k)
  if scaleMode w = 2 then times v (power (byteRead ls n 2 (i / 32 * (depth w / 32) + k / 32))) else (v, false)
def factorB (o : Product) (w : U64) (ls : List (Nat × Nat × Nat × Line)) (n k j : Nat) : Quantity × Bool :=
  let b := bitsOf (typeB w)
  let at_ := if o.tr then k * o.n + j else j * depth w + k
  let x := lane b (lineRead ls n 1 (at_ / (512 / b))) (at_ % (512 / b))
  if scaleMode w = 1 then
    let q := j * groups w + k / min (32 * 2 ^ groupCode w) (depth w)
    let int (y : Nat) : Int := match intType4 (typeB w) with | some t => asInt t y | none => 0
    times (f16.read (w.getLsbD 38) (byteRead ls n 2 (2 * q) + 256 * byteRead ls n 2 (2 * q + 1)))
      (ofInt (int x - int (byteRead ls n 3 q % 2 ^ b)))
  else if scaleMode w = 2 then
    let q := if o.tr then k / 32 * ((o.n + 31) / 32) + j / 32 else j / 32 * (depth w / 32) + k / 32
    times (value (typeB w) (w.getLsbD 38) x) (power (byteRead ls n 3 q))
  else (value (typeB w) (w.getLsbD 38) x, false)

/-- R108: the exact sum of the products of group q of element (i, j), and whether it makes a NaN. -/
def groupOf (o : Product) (w : U64) (ls : List (Nat × Nat × Nat × Line)) (n i j q : Nat) : Quantity × Bool :=
  let ps := (List.range (exactly w)).map fun t =>
    let a := factorA w ls n i (exactly w * q + t)
    let b := factorB o w ls n (exactly w * q + t) j
    ((times a.1 b.1).1, a.2 || b.2 || (times a.1 b.1).2)
  let nv := ps.any (·.2)
  if ∃ p ∈ ps, p.1 = .nan then (.nan, nv)
  else if (∃ p ∈ ps, p.1 = .inf true) ∧ (∃ p ∈ ps, p.1 = .inf false) then (.nan, true)
  else
    match ps with
    | [] => (.real 0 false, nv)
    | p :: ps => (ps.foldl (fun r x => (plus .rne r x.1).1) p.1, nv)

/-- R108: y and fl are acc_round of an accumulator value and a group's sum. -/
def AccRounds (w : U64) (acc : Nat) (z : Quantity) (y : Nat) (fl : Flags) : Prop :=
  let ftz := w.getLsbD 38
  (typeAcc w = 8#4 → f32.Gives .rne 0 ftz (plus .rne (f32.read ftz acc) z) y fl) ∧
  (typeAcc w = 6#4 → ∃ u g, f16.Gives .rne 0 ftz (plus .rne (f16.read ftz acc) z) u g ∧
    let finite : Prop := (∃ v b, f16.read ftz acc = .real v b) ∧ ∃ v b, z = .real v b
    (finite ∧ g.ovf = true → y = u / 2 ^ 15 * 2 ^ 15 + 0x7BFF ∧ fl = sat_) ∧ (¬ (finite ∧ g.ovf = true) → y = u ∧ fl = g)) ∧
  (typeAcc w = 4#4 → ∃ (k : Int) (b : Bool), z = .real (k : Rat) b ∧
    let t := clamped (32, true) (signedOf 32 acc + k)
    (y : Int) = t.1 % 2 ^ 32 ∧ fl = if t.2 = true then sat_ else none_)

/-- R108: the accumulator after k groups, one rounding a group, with the flags. -/
inductive Accumulates (w : U64) (z : Nat → Quantity × Bool) (start : Nat) : Nat → Nat → Flags → Prop
  | none : Accumulates w z start 0 start none_
  | next (k acc y : Nat) (fl g : Flags) : Accumulates w z start k acc fl → AccRounds w acc (z k).1 y g →
      Accumulates w z start (k + 1) y ⟨fl.nv || (z k).2 || g.nv, fl.ovf || g.ovf, fl.sat || g.sat, fl.clash || g.clash⟩

/-- R113: a sum in F32 with RNE, and a sum of products by fused multiply-adds, after k terms. -/
inductive SumOf (ftz : Bool) (x : Nat → Quantity) : Nat → Nat → Prop
  | none : SumOf ftz x 0 0
  | next (k y z : Nat) (fl : Flags) : SumOf ftz x k y → f32.Gives .rne 0 ftz (plus .rne (f32.read ftz y) (x k)) z fl → SumOf ftz x (k + 1) z
inductive FusedOf (ftz : Bool) (a b : Nat → Quantity) : Nat → Nat → Prop
  | none : FusedOf ftz a b 0 0
  | next (k y z : Nat) (fl : Flags) : FusedOf ftz a b k y → f32.Gives .rne 0 ftz (fused .rne (a k) (b k) (f32.read ftz y)) z fl →
      FusedOf ftz a b (k + 1) z

/-- R113: column number l of a block in cell n, or row number l, fails its check: news and olds are the slot values after and before, tol is
CHKTOL.TOL. -/
def LineFails (o : Product) (w : U64) (ls : List (Nat × Nat × Nat × Line)) (n : Nat) (row : Bool) (l : Nat) (news olds : Nat → Nat) (tol : Nat) :
    Prop :=
  let ftz := w.getLsbD 38
  let len := if row = true then o.n else o.m
  let slot (i : Nat) : Nat := if row = true then l * o.n + i else i * o.n + l
  let along (q : Nat) : Quantity := if row = true then (factorA w ls n l q).1 else (factorB o w ls n q l).1
  let across (q i : Nat) : Quantity := if row = true then (factorB o w ls n q i).1 else (factorA w ls n i q).1
  let get (x : Nat) : Quantity := value (typeAcc w) ftz x
  let num (z : Quantity) : Rat := match z with | .real v _ => v | _ => 0
  let sum (k : Nat) (x : Nat → Rat) : Rat := ((List.range k).map x).sum
  if typeAcc w = 4#4 then
    ∃ ref chk : Int, (ref : Rat) = sum len (fun i => num (get (news (slot i))) - num (get (olds (slot i)))) ∧
      (chk : Rat) = sum (depth w) (fun q => sum len (fun i => num (across q i)) * num (along q)) ∧ (ref - chk) % 2 ^ 32 ≠ 0
  else
    (∀ i, i < len → (∃ v b, get (news (slot i)) = .real v b) ∧ ∃ v b, get (olds (slot i)) = .real v b) ∧
    ∃ (gap side : Nat → Nat) (fl : Nat → Flags) (ref chk : Nat) (r c e : Rat) (b b' b'' : Bool),
      (∀ i, i < len → f32.Gives .rne 0 ftz (plus .rne (get (news (slot i))) (minus (get (olds (slot i))))) (gap i) (fl i)) ∧
      SumOf ftz (fun i => f32.read ftz (gap i)) len ref ∧ (∀ q, q < depth w → SumOf ftz (across q) len (side q)) ∧
      FusedOf ftz (fun q => f32.read ftz (side q)) along (depth w) chk ∧
      f32.read false ref = .real r b ∧ f32.read false chk = .real c b' ∧ f32.read false tol = .real e b'' ∧
        (let size (x : Rat) : Rat := if x < 0 then -x else x
         e * max (size r) (size c) < size (r - c))

/-- R217: the value that a product accumulates onto, in slot k of cell n: that of the latest earlier Q1 command that writes it, which has
at most one write still to land. -/
def chain (c : Ctx) (n k : Nat) : Nat :=
  let now := (Store.get (c.cell n).acc k).toNat
  match c.landings with
  | l :: _ =>
    match l.write with
    | .acc m lo xs => if m = n ∧ lo ≤ k ∧ k < lo + xs.length then (xs.getD (k - lo) 0#32).toNat else now
    | .accZero m lo len => if m = n ∧ lo ≤ k ∧ k < lo + len then 0 else now
    | _ => now
  | [] => now

/-- R106, R211, R219, R220: y and fl are what the accumulator slot of value x gives in the type ty, under the format word w, with the
uniform u of its draw. -/
def Converts (w : U64) (ty : BitVec 4) (u : Rat) (x : U32) (y : Nat) (fl : Flags) : Prop :=
  let z := value (typeAcc w) (w.getLsbD 38) (if typeAcc w = 6#4 then x.toNat % 2 ^ 16 else x.toNat)
  (∀ t, intType4 ty = some t → ToInteger t (outRound w) u z 0 y fl) ∧
    (∀ f, form ty = some f → f.Encodes (outRound w) u (w.getLsbD 38) z y fl)

/-- The entry at the head of queue k starts, and leaves the cells, the accesses and the faults as they are. -/
def Begins (s : State) (p k : Nat) (c d : Ctx) (q : QEntry) : Prop :=
  exec (.queueEntryStart p k) s = .next (s.putCtx d) ∧ Taken c d k q ∧ d.cells = c.cells ∧ d.towerOps = c.towerOps ∧
    d.raised = c.raised

/-- A result for register r of cell n, at the end of cycle due: the active elements of width w take the values y with the flags that R
relates to them, no other byte is written, and a flag comes when some active element has it. -/
def Delivers (c d : Ctx) (q : QEntry) (u : EngUnit) (due n : Nat) (h : Ex) (r : Reg) (w : Nat) (R : Nat → Nat → Flags → Prop) : Prop :=
  ∃ (y : Line) (m : BitVec 64) (all : Flags) (fl : Nat → Flags),
    let on (i : Nat) : Prop := i < 512 / w ∧ active (c.cell n) h w i = true
    (⟨q.ord, u, due, c.trap.tctx, .v n r y m, all⟩ : Landing) ∈ d.landings ∧
    (∀ i, on i → R i (lane w y i) (fl i)) ∧ (∀ j, j < 64 → (m.getLsbD j = true ↔ on (8 * j / w))) ∧
    (all.nv = true ↔ ∃ i, on i ∧ (fl i).nv = true) ∧ (all.ovf = true ↔ ∃ i, on i ∧ (fl i).ovf = true) ∧
    (all.sat = true ↔ ∃ i, on i ∧ (fl i).sat = true) ∧ all.clash = false

/-- R222: the cell that receives from across one step against direction dir, and the cells with none beyond them towards dir. -/
def giver (dir : BitVec 2) (n : Nat) : Option Nat :=
  if dir = 0#2 then (if n < 12 then some (n + 4) else none)
  else if dir = 1#2 then (if n % 4 = 0 then none else some (n - 1))
  else if dir = 2#2 then (if n < 4 then none else some (n - 4))
  else (if n % 4 = 3 then none else some (n + 1))
def atEdge (dir : BitVec 2) (n : Nat) : Bool :=
  if dir = 0#2 then n < 4 else if dir = 1#2 then n % 4 == 3 else if dir = 2#2 then 12 ≤ n else n % 4 == 0

/-- R223: the logical position next to the panel's in its task, and the facing side's number. -/
def nextPanel (c : Ctx) (dir : BitVec 2) : Option (Nat × Nat) :=
  if dir = 0#2 then (if c.ty = 0 then none else some (c.tx, c.ty - 1))
  else if dir = 1#2 then (if c.tx + 1 < c.width then some (c.tx + 1, c.ty) else none)
  else if dir = 2#2 then (if c.ty + 1 < c.height then some (c.tx, c.ty + 1) else none)
  else (if c.tx = 0 then none else some (c.tx - 1, c.ty))

/-- R11, R22: row and column of a panel in the package. -/
def placeOf (p : Nat) : Nat × Nat := (8 * (p / 128) + 4 * (p / 32 % 2) + p / 8 % 4, 8 * (p / 64 % 2) + p % 8)

/-- R313: hops along one axis, between two places of 0 to 15 whose dies are those of the lower and the upper eight; and bridges. -/
def around (a b : Nat) : Nat := min ((a + 8 - b) % 8) ((b + 8 - a) % 8)
def hops (a b : Nat) : Nat :=
  if a / 8 = b / 8 then around (a % 8) (b % 8)
  else if a < 8 then around a 7 + around 0 (b % 8) else around (a % 8) 0 + around 7 b
def bridges (a b : Nat) : Nat := if a / 8 = b / 8 then 0 else 1

/-- R225: a destination word outside its limits, for a task of a number of panels. -/
def WordBad (panels : Nat) (w : U32) : Prop :=
  w.toNat / 2 ^ 18 ≠ 0 ∨ (w.getLsbD 15 = true ∧ w.toNat / 2 ^ 16 % 4 ≠ 0) ∨ (w.getLsbD 15 = false ∧ w.toNat / 2 ^ 12 % 8 ≠ 0) ∨
    panels ≤ w.toNat % 2 ^ 8

/-- R228: what a join makes of the first two lanes of its active cells, in ascending order of cell (log entry 62: the order of equal
winners). -/
def Joins (op : BitVec 2) (xs : List (Nat × Nat)) (v : U64) : Prop :=
  let score (x : Nat × Nat) : Quantity := f32.read false x.1
  (op = 0#2 → (∀ x ∈ xs, score x = .nan) → v = 0xFF800000FFFFFFFF#64) ∧
  (op = 0#2 → (∃ x ∈ xs, score x ≠ .nan) → ∃ x ∈ xs, score x ≠ .nan ∧ v = BitVec.ofNat 64 (x.1 * 2 ^ 32 + x.2) ∧
    ∀ y ∈ xs, score y ≠ .nan → ¬ Below (score x) (score y) ∧ (Equal (score x) (score y) → x.2 ≤ y.2)) ∧
  (op = 1#2 → v = BitVec.ofNat 64 ((xs.map (·.1)).sum % 2 ^ 32)) ∧
  (op = 2#2 → xs = [] → v = 0xFF800000#64) ∧
  (op = 2#2 → xs ≠ [] → ∃ us : Nat → Quantity, us 0 = score (xs.getD 0 (0, 0)) ∧
    (∀ i, i + 1 < xs.length → Extreme true (us i) (score (xs.getD (i + 1) (0, 0))) (us (i + 1))) ∧
    v.toNat < 2 ^ 32 ∧ f32.Encodes .rne 0 false (us (xs.length - 1)) v.toNat none_) ∧
  (op = 3#2 → v = BitVec.ofNat 64 ((xs.map (·.1)).foldl (· ||| ·) 0))

/-- R256, R344: z and fl are what a unit makes of its operands; FTZ is that of the call's issue. -/
def UnitGives (ftz : Bool) (u : MotifUnit) (a b c z : Nat) (fl : Flags) : Prop :=
  let half (x k : Nat) : Quantity := (Form.mk 8 7 127 0x7F7F true (some 0x7FC0)).read ftz (x / 2 ^ (16 * k) % 2 ^ 16)
  let dot (c : Quantity) (p q : Quantity × Bool) : Quantity × Bool :=
    if c = .nan ∨ p.1 = .nan ∨ q.1 = .nan then (.nan, p.2 || q.2)
    else ((plus .rne (plus .rne c p.1).1 q.1).1, (plus .rne c p.1).2 || (plus .rne (plus .rne c p.1).1 q.1).2)
  let cmp (k : Nat) (lt eq un : Prop) : Prop :=
    k = 0 ∧ eq ∨ k = 1 ∧ ¬ eq ∨ k = 2 ∧ lt ∨ k = 3 ∧ (lt ∨ eq) ∨ k = 4 ∧ (¬ lt ∧ ¬ eq ∧ ¬ un) ∨ k = 5 ∧ (¬ lt ∧ ¬ un) ∨ k = 6 ∧ un
  let x := f32.read ftz a
  let y := f32.read ftz b
  let i (w v : Nat) (signed : Bool) : Int := asInt (w, signed) (v % 2 ^ w)
  (u.op = 0 → z = (a + b) % 2 ^ 32 ∧ fl = none_) ∧
  (u.op = 1 → (z : Int) = ((a : Int) - b) % 2 ^ 32 ∧ fl = none_) ∧
  (u.op = 2 → (z : Int) = i 16 a (u.sub == 0) * i 16 b (u.sub == 0) % 2 ^ 32 ∧ fl = none_) ∧
  (u.op = 3 → f32.Gives .rne 0 ftz (fused .rne x y (f32.read ftz c)) z fl) ∧
  (u.op = 4 → f32.Gives .rne 0 ftz (dot (f32.read ftz c) (times (half a 0) (half b 0)) (times (half a 1) (half b 1))) z fl) ∧
  (u.op = 5 ∨ u.op = 6 → u.sub = 2 → ∃ v, Extreme (u.op == 6) x y v ∧ f32.Encodes .rne 0 ftz v z fl) ∧
  (u.op = 5 ∨ u.op = 6 → u.sub < 2 → fl = none_ ∧
    z = if (i 32 a (u.sub == 0) < i 32 b (u.sub == 0) ↔ u.op = 5) then a else b) ∧
  (u.op = 7 → fl = none_ ∧ z < 2 ^ 32 ∧ ∀ k, k < 32 →
    z.testBit k = u.sub.testBit (4 * (a / 2 ^ k % 2) + 2 * (b / 2 ^ k % 2) + c / 2 ^ k % 2)) ∧
  (u.op = 8 → fl = none_ ∧
    (u.sub = 0 → z = a * 2 ^ (b % 32) % 2 ^ 32) ∧ (u.sub = 1 → z = a / 2 ^ (b % 32)) ∧
    (u.sub = 2 → (z : Int) = i 32 a true / 2 ^ (b % 32) % 2 ^ 32) ∧
    (u.sub = 3 → z = (a * 2 ^ (b % 32) + a / 2 ^ (32 - b % 32)) % 2 ^ 32)) ∧
  (u.op = 9 → fl = none_ ∧ z = if c = 0 then b else a) ∧
  (u.op = 10 → fl = none_ ∧ (u.sub < 16 →
      let p := i 32 a (u.sub / 8 == 0)
      let q := i 32 b (u.sub / 8 == 0)
      (cmp (u.sub % 8) (p < q) (p = q) False → z = 1) ∧ (¬ cmp (u.sub % 8) (p < q) (p = q) False → z = 0)) ∧
    (u.sub / 8 = 2 →
      let un : Prop := x = .nan ∨ y = .nan
      (cmp (u.sub % 8) (Below x y) (Equal x y) un → z = 1) ∧ (¬ cmp (u.sub % 8) (Below x y) (Equal x y) un → z = 0))) ∧
  (u.op = 11 → fl = none_ ∧ z = u.imm.toNat / 2 ^ (8 * (a % 8)) % 2 ^ 8)

/-- R343: the value that a source code names: a unit's result, an input, the immediate, or zero. -/
def sourceOf (ins : List Nat) (imm : Nat) (rs : List Nat) (code : Nat) : Nat :=
  if code < 0x30 then rs.getD code 0 else if 0x40 ≤ code ∧ code < 0x44 then ins.getD (code - 0x40) 0 else if code = 0x44 then imm else 0

/-- R346: the results of units in order, and their flags. -/
inductive Evaluates (ftz : Bool) (ins : List Nat) : List MotifUnit → List Nat → Flags → Prop
  | none : Evaluates ftz ins [] [] none_
  | next (us : List MotifUnit) (u : MotifUnit) (rs : List Nat) (z : Nat) (fl g : Flags) : Evaluates ftz ins us rs fl →
      UnitGives ftz u (sourceOf ins (u.imm.toNat % 2 ^ 32) rs u.src.1) (sourceOf ins (u.imm.toNat % 2 ^ 32) rs u.src.2.1)
        (sourceOf ins (u.imm.toNat % 2 ^ 32) rs u.src.2.2) z g →
      Evaluates ftz ins (us ++ [u]) (rs ++ [z]) ⟨fl.nv || g.nv, fl.ovf || g.ovf, fl.sat || g.sat, fl.clash || g.clash⟩

/-- A unit that an image may hold (R344). -/
def UnitOk (u : MotifUnit) : Prop :=
  u.op < 12 ∧ (u.op = 2 → u.sub < 2) ∧ (u.op = 5 ∨ u.op = 6 → u.sub < 3) ∧ (u.op = 8 → u.sub < 4) ∧
    (u.op = 10 → u.sub < 24 ∧ (u.sub % 8 < 6 ∨ u.sub = 22))

end Sys2Proof.Claims

/-- R14, R33, R67, R102, R104, R106 to R113, R141, R207 to R229, R256, R260, R309, R313, R344, R346: the commands of queues 1, 2 and 3, and the
motif call. MZERO occupies its engine for its n + 1 tiles and clears them, in the cells whose predicate bit 0 is active, at the end of
start + n + 6. A product makes its checks in order, pops its word, places its operand reads and its ring pops; with its last operand
line it gives every element of the block, one rounding a group, for the end of start + O + 5, and with its word's checksum bit the verdict
over its columns and rows, which counts and, in trap mode, raises CHECKSUM. MTOV and MTOT convert the slots under the
current and the popped word; MTOT makes a fill of them. VSHIFT, VXSEND, VXRECV, VBORD and VJOIN move lines between cells and panels.
A column command hands its job to the column engine, and it then counts among the context's jobs. A motif call gives what the units of
the loaded motif make of each active lane. (The model's: log entry 54 on stochastic rounding, 61 on the order of the checks, 62 on equal
winners, 63 on the chain, 77 on the cycle of flags and verdict and on an index above 255, 84 on an element's number, 87 on congested
routes, 96 on a NaN of a sum.) -/
def Obligations.ClearsAndColumnCommandsStart : Prop :=
  (∀ (s : State) (p : Nat) (c : Ctx) (q : QEntry) (h : Ex) (t n : BitVec 6), Starts s p 1 c q → q.instr = .mzero h t n →
    ∃ d, exec (.queueEntryStart p 1) s = .next (s.putCtx d) ∧ Taken c d 1 q ∧ d.cells = c.cells ∧
      (if c.trap.tctx then vget 0 d.eng.freeTrap 1 else vget 0 d.eng.free 1) = c.now + n.toNat + 1 ∧
      d.landings = c.landings ++ ((List.range 16).filter fun k => active (c.cell k) h 8 0).map fun k =>
        (⟨q.ord, .q1, c.now + n.toNat + 6, c.trap.tctx, .accZero k (1024 * t.toNat) (1024 * (n.toNat + 1)), .zero⟩ : Landing)) ∧
  (∀ (s : State) (p : Nat) (c : Ctx) (q : QEntry) (h : Ex) (a : Reg) (x : BitVec 3) (y : BitVec 5), Starts s p 3 c q →
    q.instr ∈ ([.cfill h a x y, .cdrain h a x y, .cpair h a x y, .cgath h a x y, .ccopy h a x y, .cred h a x y] : List Instr) →
    ∃ d, exec (.queueEntryStart p 3) s = .next (s.putCtx d) ∧ Taken c d 3 q ∧ d.outbox = c.outbox ++ [.job q] ∧
      d.jobs = c.jobs + 1 ∧ d.revJobs = c.revJobs + (if q.admode = .rev then 1 else 0) ∧
      d.trapJobs = c.trapJobs + (if q.trap = true then 1 else 0) ∧ d.cells = c.cells ∧
      d.landings = c.landings ∧ d.towerOps = c.towerOps ∧ d.norm = c.norm) ∧
  (∀ (s : State) (p : Nat) (c : Ctx) (q : QEntry) (o : Product), Starts s p 1 c q → Quiet c → (∀ n, (c.cell n).badSlots = []) →
    productOf q.instr = some o →
    (∀ n m, n < 16 → ((c.cell n).ring m).conf = true → ((c.cell n).ring m).hslot < ((c.cell n).ring m).count) →
    let fault (code sub : BitVec 8) (t : U64) : Prop := exec (.queueEntryStart p 1) s = goesTo s (faulted c 1 code sub t)
    let short : Prop := Short c o.ra o.m ∨ Short c o.rb o.n
    (short → fault 0x01#8 0x08#8 (wordsOf q.instr)) ∧
    (¬ short → c.fmt.queue = [] → fault 0x08#8 0#8 (wordsOf q.instr)) ∧
    ∀ w ws, ¬ short → c.fmt.queue = w :: ws → (scaleMode w = 1 ∨ scaleMode w = 2 → bitsOf (typeA w) ≠ 0) →
      let xs := operands o w
      let few : Prop := ∃ x ∈ xs, 2 ≤ x.1 ∧ Short c x.2.1 x.2.2
      let rings := xs.map fun x => x.2.1
      (few → fault 0x01#8 0x08#8 (wordsOf q.instr)) ∧
      (∀ n pre m post, ¬ few → rings = pre ++ m :: post → n < 16 → TagWrong c n m → (∀ j ∈ pre, ¬ TagWrong c n j) →
        (∀ k, k < n → ∀ j ∈ rings, ¬ TagWrong c k j) →
        fault 0x06#8 0#8 (BitVec.ofNat 64 ((tagAt c n m).toNat * 2 ^ 32 + ((c.cell n).ring m).head.toNat))) ∧
      (¬ few → (∀ n, n < 16 → ∀ m ∈ rings, ¬ TagWrong c n m) → (∃ n, n < 16 ∧ ∃ m ∈ rings, ¬ TagThere c n m) →
        exec (.queueEntryStart p 1) s = goesTo s { c with time := { c.time with heldQ := c.time.heldQ ++ [(1, 1)] } }) ∧
      (¬ few → (∀ n, n < 16 → ∀ m ∈ rings, TagThere c n m) →
        let popped : Ctx := { c with fmt := { c.fmt with queue := ws } }
        (¬ Takes w (typeB w) o.scale → exec (.queueEntryStart p 1) s = goesTo s (faulted popped 1 0x01#8 0x0B#8 w)) ∧
        (Takes w (typeB w) o.scale → ∃ (d : Ctx) (ops : List TowerOp) (f : Flight),
          exec (.queueEntryStart p 1) s = .next (s.putCtx d) ∧ Taken c d 1 q ∧ d.cells = c.cells ∧ d.raised = c.raised ∧
          d.fmt = { c.fmt with queue := ws, word := w, srctr := q.srctr } ∧ d.towerOps = c.towerOps ++ ops ∧
          ops.length = 16 * (xs.map fun x => x.2.2).sum ∧
          (∀ x ∈ xs, ∀ n l, n < 16 → l < x.2.2 →
            let r := (c.cell n).ring x.2.1
            Placed c q .q1 ops n (c.now + operandCycle o x.1 l) ((r.base + 64 * r.size * r.hslot + 64 * l) % 2 ^ 23)
              (.read 64 (.operand x.1 l))) ∧
          d.flights = c.flights ++ [f] ∧ f.ord = q.ord ∧ f.trap = c.trap.tctx ∧ f.start = c.now ∧ f.entry = q ∧ f.fmt = w ∧
          f.lines = [] ∧ f.active = (List.range 16).map (fun n => moving (c.cell n) o.h) ∧
          (w.getLsbD 39 = true → o.z = false →
            ∀ n k, n < 16 → k < o.m * o.n → (f.olds.getD n []).getD k 0#32 = Store.get (c.cell n).acc (1024 * o.tile + k)) ∧
          d.landings = c.landings ++
            (([(o.pa, o.ra), (o.pb, o.rb), (o.ps, scaleRing w), (o.ps && scaleRing w != zeroRing w, zeroRing w)].filter (·.1)).map fun x =>
              (⟨q.ord, .q1, c.now + o.m * o.n / 16 - 1, c.trap.tctx, .ring x.2 (.pop 1), .zero⟩ : Landing)) ∧
          (if c.trap.tctx then vget 0 d.eng.freeTrap 1 else vget 0 d.eng.free 1) = c.now + o.m * o.n / 16))) ∧
  (∀ (s : State) (p : Nat) (c : Ctx) (x : TowerOp) (f : Flight) (o : Product) (which l : Nat), s.ctx? p = some c → c.towerOps = [x] →
    x.trap = c.trap.tctx → x.cycle = c.now → x.cell < 16 → x.off < 2 ^ 23 → x.off % 64 = 0 → x.keep = none → x.ord = f.ord →
    x.act = .read 64 (.operand which l) → c.windows = [] → c.flights = [f] → c.raised = [] → c.glob.queue = [] →
    c.issue.leaving = false → productOf f.entry.instr = some o → Takes f.fmt (typeB f.fmt) o.scale → f.active.length = 16 →
    c.now < f.start + o.m * o.n / 16 + 5 → c.landings.length ≤ 1 →
    (∀ k ∈ c.landings, k.unit = .q1 ∧ k.trap = f.trap ∧ k.ord < f.ord ∧ c.now < k.due) → f.trap = c.trap.tctx →
    let line : Line := BitVec.ofNat 512 (bytesAt (c.cell x.cell).tower x.off 64)
    let ls := (x.cell, which, l, line) :: f.lines
    ∃ (d : Ctx) (new chk : List Landing) (block : Nat → List U32) (flags : Nat → Flags),
      exec (.resultWriteback p) s = .next (s.putCtx d) ∧ d.towerOps = [] ∧ d.flights = [] ∧
      d.cells = c.cells ∧ d.landings = c.landings ++ new ++ chk ∧ new.length = (f.active.filter id).length ∧
      (let on (n : Nat) : Prop := n < 16 ∧ f.active.getD n false = true
       let checked : Prop := f.fmt.getLsbD 39 = true ∧ ¬ (typeAcc f.fmt = 4#4 ∧ ∃ n, on n ∧ (flags n).sat = true)
       let fails (row : Bool) (l : Nat) : Prop := ∃ n, on n ∧ LineFails o f.fmt ls n row l (fun k => ((block n).getD k 0#32).toNat)
         (fun k => if o.z = true then 0 else ((f.olds.getD n []).getD k 0#32).toNat) f.entry.chkTol.toNat
       let verdict (x : Nat) : Landing :=
         ⟨f.ord, .q1, f.start + o.m * o.n / 16 + 5, f.trap, .checksum (BitVec.ofNat 64 x) f.entry.chkMode, .zero⟩
       (¬ checked → chk = []) ∧ ((∀ l, l < o.n → ¬ fails false l) → (∀ l, l < o.m → ¬ fails true l) → chk = []) ∧
       (∀ j, checked → j < o.n → fails false j → (∀ l, l < j → ¬ fails false l) → chk = [verdict (o.tile + 2 ^ 8 * (j % 2 ^ 8))]) ∧
       (∀ i, checked → i < o.m → fails true i → (∀ l, l < i → ¬ fails true l) → (∀ l, l < o.n → ¬ fails false l) →
         chk = [verdict (o.tile + 2 ^ 8 * (i % 2 ^ 8) + 2 ^ 16)])) ∧
      ∀ n, n < 16 → f.active.getD n false = true → ∃ fl : Nat → Nat → Flags,
        let vs := block n
        let all := flags n
        (⟨f.ord, .q1, f.start + o.m * o.n / 16 + 5, f.trap, .acc n (1024 * o.tile) vs, all⟩ : Landing) ∈ new ∧
        vs.length = o.m * o.n ∧
        (∀ i j, i < o.m → j < o.n →
          let k := i * o.n + j
          let old := chain c n (1024 * o.tile + k)
          Accumulates f.fmt (groupOf o f.fmt ls n i j)
            (if o.z = true then 0 else if typeAcc f.fmt = 6#4 then old % 2 ^ 16 else old)
            (depth f.fmt / exactly f.fmt) (vs.getD k 0#32).toNat (fl i j)) ∧
        (all.nv = true ↔ ∃ i j, i < o.m ∧ j < o.n ∧ (fl i j).nv = true) ∧
        (all.ovf = true ↔ ∃ i j, i < o.m ∧ j < o.n ∧ (fl i j).ovf = true) ∧
        (all.sat = true ↔ ∃ i j, i < o.m ∧ j < o.n ∧ (fl i j).sat = true)) ∧
  (∀ (s : State) (p : Nat) (c : Ctx) (l : Landing) (x : U64) (count : Bool), s.ctx? p = some c → Idle { c with landings := [] } →
    c.raised = [] → c.trap.tctx = false → c.issue.leaving = false → c.landings = [l] → l.trap = false → l.due = c.time.ptime →
    l.flags = .zero → l.write = .checksum x count →
    ∃ t d, exec (.resultWriteback p) s = .next t ∧ t.ctx? p = some d ∧ d.cells = c.cells ∧
      d.sys.chkCount.toNat = min 0xFFFF (c.sys.chkCount.toNat + 1) ∧
      (count = true → d.trap = c.trap) ∧
      (count = false → d.trap.tctx = true ∧ d.trap.cause.toNat = 2 ^ 20 + 2 ^ 16 + 0x0E ∧ d.trap.tval = x)) ∧
  (∀ (s : State) (p : Nat) (c : Ctx) (q : QEntry) (h : Ex) (t l : BitVec 6) (r : Reg) (ty : BitVec 4) (w : Nat), Starts s p 1 c q →
    (∀ n, (c.cell n).badSlots = []) → q.instr = .mtov h t r l ty → anyType ty = some w →
    typeAcc c.fmt.word ∈ ([8#4, 6#4, 4#4] : List (BitVec 4)) →
    ∃ d, Begins s p 1 c d q ∧ d.landings.length = c.landings.length + 16 ∧
      (if c.trap.tctx then vget 0 d.eng.freeTrap 1 else vget 0 d.eng.free 1) = c.now + 512 / w / 16 ∧
      ∀ n, n < 16 → Delivers c d q .q1 (c.now + 512 / w / 16 + 2) n h r w fun i y fl =>
        Converts c.fmt.word ty (rounding c { q with srctr := c.fmt.srctr } n i)
          (Store.get (c.cell n).acc (1024 * t.toNat + 16 * l.toNat + i)) y fl) ∧
  (∀ (s : State) (p : Nat) (c : Ctx) (q : QEntry) (h : Ex) (t nc : BitVec 6) (ra : BitVec 3) (mc : BitVec 2) (tr z : Bool),
    Starts s p 1 c q → Quiet c → (∀ n, (c.cell n).badSlots = []) → q.instr = .mtot h t ra nc mc tr z →
    let m := 16 * 2 ^ mc.toNat
    let k := 16 * (nc.toNat + 1)
    let g (n : Nat) : Ring := (c.cell n).ring ra.toNat
    let size := (g 0).size
    let on (n : Nat) : Prop := n < 16 ∧ moving (c.cell n) h = true
    let full (n : Nat) : Prop := (g n).count ≤ ((g n).nexttag - (g n).head).toNat
    let fault (code sub : BitVec 8) (x : U64) : Prop := exec (.queueEntryStart p 1) s = goesTo s (faulted c 1 code sub x)
    let conf : Prop := ∀ n, n < 16 → (g n).conf = true
    (∀ n, n < 16 → (g n).size = size) →
    (¬ conf → fault 0x01#8 0x08#8 (wordsOf q.instr)) ∧
    (conf → c.fmt.queue = [] → fault 0x08#8 0#8 (wordsOf q.instr)) ∧
    ∀ w ws, conf → c.fmt.queue = w :: ws →
      let spoilt (sub : BitVec 8) (x : U64) : Prop :=
        exec (.queueEntryStart p 1) s = goesTo s (faulted { c with fmt := { c.fmt with queue := ws } } 1 0x01#8 sub x)
      (∀ n, on n → full n → (∀ j, j < n → ¬ (on j ∧ full j)) →
        fault 0x06#8 0#8 (BitVec.ofNat 64 ((g n).nexttag.toNat * 2 ^ 32 + (g n).head.toNat))) ∧
      ((∀ n, on n → ¬ full n) → ¬ Takes w (typeA w) 0 → spoilt 0x0B#8 w) ∧
      ((∀ n, on n → ¬ full n) → Takes w (typeA w) 0 → 512 * size < m * k * bitsOf (typeA w) → spoilt 0x08#8 (wordsOf q.instr)) ∧
      ((∀ n, on n → ¬ full n) → Takes w (typeA w) 0 → m * k * bitsOf (typeA w) ≤ 512 * size →
        let e := 512 / bitsOf (typeA w)
        ∃ (d : Ctx) (ops : List TowerOp), exec (.queueEntryStart p 1) s = .next (s.putCtx d) ∧ Taken c d 1 q ∧ d.raised = c.raised ∧
          d.fmt = { c.fmt with queue := ws, word := w, srctr := q.srctr } ∧ d.towerOps = c.towerOps ++ ops ∧
          (if c.trap.tctx then vget 0 d.eng.freeTrap 1 else vget 0 d.eng.free 1) = c.now + m * k / 64 ∧
          (∀ n, n < 16 → moving (c.cell n) h = false → d.cell n = c.cell n ∧ ∀ x ∈ ops, x.cell ≠ n) ∧
          ∀ n, on n →
            d.cell n = (c.cell n).setRing ra.toNat { g n with
              claimed := if (g n).nexttag = (g n).claimed then (g n).claimed + 1#32 else (g n).claimed,
              nexttag := (g n).nexttag + 1#32, fslot := ((g n).fslot + 1) % max 1 (g n).count,
              fills := (g n).fills ++ [⟨(g n).nexttag, (g n).fslot, some q.ord, [], none, false⟩] } ∧
            (⟨q.ord, .q1, c.now + m * k / 64 + 4, c.trap.tctx, .fillDone n ra.toNat q.ord, .zero⟩ : Landing) ∈ d.landings ∧
            (z = true → (⟨q.ord, .q1, c.now + m * k / 64 + 5, c.trap.tctx, .accZero n (1024 * t.toNat) (m * k), .zero⟩ : Landing) ∈ d.landings) ∧
            (z = false → ∀ x ∈ d.landings, x ∉ c.landings → ∀ lo len, x.write ≠ .accZero n lo len) ∧
            ∃ (y : Nat → Line) (v : Nat → Nat) (fl all : Nat → Flags),
              (∀ i j, i < m → j < k → let at_ := if tr = true then j * m + i else i * k + j
                Converts w (typeA w) (rounding c q n at_) (Store.get (c.cell n).acc (1024 * t.toNat + i * k + j)) (v at_) (fl at_)) ∧
              ∀ l, l < size →
                Placed c q .q1 ops n (c.now + 3 + l * (m * k / 64) / size)
                  (((g n).base + 64 * (g n).size * (g n).fslot + 64 * l) % 2 ^ 23) (.matrixWrite (y l) (~~~0#64)) ∧
                (⟨q.ord, .q1, c.now + 3 + l * (m * k / 64) / size, c.trap.tctx, .flagsOnly, all l⟩ : Landing) ∈ d.landings ∧
                (∀ i, i < e → lane (bitsOf (typeA w)) (y l) i = if l * e + i < m * k then v (l * e + i) else 0) ∧
                let at_ (i : Nat) : Prop := l * e ≤ i ∧ i < (l + 1) * e ∧ i < m * k
                ((all l).nv = true ↔ ∃ i, at_ i ∧ (fl i).nv = true) ∧ ((all l).ovf = true ↔ ∃ i, at_ i ∧ (fl i).ovf = true) ∧
                ((all l).sat = true ↔ ∃ i, at_ i ∧ (fl i).sat = true))) ∧
  (∀ (s : State) (p : Nat) (c : Ctx) (q : QEntry) (h : Ex) (r a : Reg) (dir : BitVec 2), Starts s p 2 c q →
    let tag : U32 := q.scal.1.setWidth 32
    let mask (n : Nat) : BitVec 64 := if moving (c.cell n) h = true then activeBytes (c.cell n) h else 0#64
    let gives (d : Ctx) (n : Nat) (y : Line) (m : BitVec 64) : Prop :=
      (⟨q.ord, .q2, c.now + 1, c.trap.tctx, .v n r y m, .zero⟩ : Landing) ∈ d.landings
    let fault (code sub : BitVec 8) (x : U64) : Prop := exec (.queueEntryStart p 2) s = goesTo s (faulted c 2 code sub x)
    let hold (code : Nat) : Prop :=
      exec (.queueEntryStart p 2) s = goesTo s { c with time := { c.time with heldQ := c.time.heldQ ++ [(2, code)] } }
    let on (n : Nat) : Prop := n < 16 ∧ moving (c.cell n) h = true
    (∀ eg tg, q.instr = .vshift h dir r a eg tg → ∃ d, Begins s p 2 c d q ∧ d.landings.length = c.landings.length + 16 ∧
      (∀ n, n < 16 → (∀ k, giver dir n = some k → gives d n ((c.cell k).rv a) (mask n)) ∧
        (giver dir n = none → gives d n 0#512 (if eg = 1#2 then mask n else 0#64))) ∧
      d.outbox = c.outbox ++ (if eg = 2#2 then (nextPanel c dir).toList.flatMap fun t =>
        ((List.range 16).filter fun n => atEdge dir n && moving (c.cell n) h).map fun n =>
          Outbox.border ⟨t.1, t.2, (dir + 2#2).toNat, if dir = 0#2 ∨ dir = 2#2 then n % 4 else n / 4, (c.cell n).rv a, tag⟩
        else [])) ∧
    (∀ tg, q.instr = .vxsend h r a tg →
      let word (n : Nat) : U32 := BitVec.ofNat 32 (lane 32 ((c.cell n).rv r) 0)
      let bad (n : Nat) : Prop := on n ∧ WordBad (c.width * c.height) (word n)
      let own := placeOf c.id.panel
      let uses := c.linkUses ((List.range 16).filter fun n => moving (c.cell n) h) r s.gcyc
      let jammed : Prop := ∃ u ∈ uses, ∃ x ∈ s.net, x.1 = u.1 ∧ 2500 * u.2 < x.2
      (∀ n, bad n → (∀ k, k < n → ¬ bad k) → fault 0x01#8 0x08#8 ((word n).setWidth 64)) ∧
      ((∀ n, ¬ bad n) → (∃ n, on n ∧ 4 ≤ (c.cell n).send.length) ∨ jammed → hold 5) ∧
      ((∀ n, ¬ bad n) → (∀ n, on n → (c.cell n).send.length < 4) → ¬ jammed → c.id.panel < 256 → c.tx ≤ own.2 → c.ty ≤ own.1 →
        own.2 + c.width ≤ 16 + c.tx → own.1 + c.height ≤ 16 + c.ty →
        ∃ d, exec (.queueEntryStart p 2) s = .next (s.putCtx d) ∧ Taken c d 2 q ∧ d.landings = c.landings ∧ d.towerOps = c.towerOps ∧
          d.raised = c.raised ∧ d.outbox = c.outbox ++ (if uses = [] then [] else [.express uses]) ∧ ∀ n, n < 16 → d.cell n =
            if moving (c.cell n) h = true then
              let k := (word n).toNat % 2 ^ 8
              let col := own.2 + k % c.width - c.tx
              let row := own.1 + k / c.width - c.ty
              { c.cell n with send := (c.cell n).send ++ [⟨(c.cell n).rv a, tag, word n,
                s.gcyc + 6 + 2 * (hops own.2 col + hops own.1 row) + 20 * (bridges own.2 col + bridges own.1 row)⟩] }
            else c.cell n)) ∧
    (∀ tg, q.instr = .vxrecv h dir r tg →
      let port (n : Nat) : Option PortMsg := vget none (c.cell n).ports dir.toNat
      let wrong (n : Nat) : Prop := on n ∧ ∃ x, port n = some x ∧ x.tag ≠ tag
      (∀ n x, wrong n → (∀ k, k < n → ¬ wrong k) → port n = some x →
        fault 0x06#8 0#8 (BitVec.ofNat 64 (x.tag.toNat * 2 ^ 32 + tag.toNat))) ∧
      ((∀ n, ¬ wrong n) → (∃ n, on n ∧ port n = none) → hold 1) ∧
      ((∀ n, on n → ∃ x, port n = some x ∧ x.tag = tag) → ∃ d, Begins s p 2 c d q ∧
        ∀ n, on n → gives d n (((port n).map (·.data)).getD 0#512) (activeBytes (c.cell n) h) ∧
          (⟨q.ord, .q2, c.now, c.trap.tctx, .portEmpty n dir.toNat, .zero⟩ : Landing) ∈ d.landings)) ∧
    (∀ tg, q.instr = .vbord h dir r tg →
      let entry (n : Nat) : Border :=
        vget {} (vget (Vector.replicate 4 {}) c.borders dir.toNat) (if dir = 0#2 ∨ dir = 2#2 then n % 4 else n / 4)
      let wrong (n : Nat) : Prop := on n ∧ (entry n).tag ≠ tag ∧ (entry n).tag ≠ tag - 1#32
      (∀ n, wrong n → (∀ k, k < n → ¬ wrong k) →
        fault 0x06#8 0#8 (BitVec.ofNat 64 ((entry n).tag.toNat * 2 ^ 32 + tag.toNat))) ∧
      ((∀ n, ¬ wrong n) → (∃ n, on n ∧ (entry n).tag ≠ tag) → hold 1) ∧
      ((∀ n, on n → (entry n).tag = tag) → ∃ d, Begins s p 2 c d q ∧ d.borders = c.borders ∧
        ∀ n, n < 16 → gives d n (entry n).data (mask n))) ∧
    (q.instr = .vjoin h dir r a → ∃ d v, Begins s p 2 c d q ∧
      d.landings = c.landings ++ [⟨q.ord, .q2, c.now + 7, c.trap.tctx, .s r v, .zero⟩] ∧
      Joins dir (((List.range 16).filter fun n => moving (c.cell n) h).map fun n =>
        (lane 32 ((c.cell n).rv a) 0, lane 32 ((c.cell n).rv a) 1)) v)) ∧
  (∀ (s : State) (p : Nat) (c : Ctx) (q : QEntry) (h : ExM) (cd : BitVec 6) (r a b x y : Reg) (ep : Bool), Starts s p 0 c q →
    q.instr = .mot h cd r a b ep x y →
    let slot : Slot := match vget none c.motif.bind cd.toNat with | some k => vget .empty c.motif.slots k.toNat | none => .empty
    let fault (code sub : BitVec 8) : Prop := exec (.queueEntryStart p 0) s = goesTo s (faulted c 0 code sub (wordsOf q.instr))
    ((∀ m, slot ≠ .loaded m) → fault 0x0B#8 0#8) ∧
    ∀ m, slot = .loaded m →
      let barred : Prop := m.ein ≠ ep ∨ ep = true ∧ m.nout = 2 ∧ r = 31#5
      (barred → fault 0x01#8 0x08#8) ∧
      (¬ barred → (∀ u ∈ m.units, UnitOk u) → ∃ d, Begins s p 0 c d q ∧ ∀ n, n < 16 →
        ∃ (z0 z1 : Nat → Nat) (fl : Nat → Flags),
          (∀ l, l < 16 → ∃ rs,
            let ins := [lane 32 ((c.cell n).rv a) l, lane 32 ((c.cell n).rv b) l, lane 32 ((c.cell n).rv x) l, q.scal.1.toNat % 2 ^ 32]
            Evaluates q.ftz ins m.units rs (fl l) ∧ z0 l = sourceOf ins 0 rs m.y0 ∧ z1 l = sourceOf ins 0 rs m.y1) ∧
          let he : Ex := ⟨h.e, h.start, h.p, h.ps, 0#5⟩
          Delivers c d q .q0 (c.now + m.lat - 1) n he r 32 (fun i z g => z = z0 i ∧ g = fl i) ∧
          (m.nout = 2 → Delivers c d q .q0 (c.now + m.lat - 1) n he (if ep = true then r + 1#5 else y) 32
            (fun i z g => z = z1 i ∧ g = none_))))

/-! Events of a panel (R40 to R54, R67, R75 to R77, R223, R226, R258, R277, R285 to R288). -/

namespace Sys2Proof.Claims

/-- A fence that has issued between two accesses orders them (R85). -/
def Fenced (c : Ctx) (b a : GAccess) : Prop :=
  ∃ f ∈ c.glob.fences, b.ord < f.ord ∧ f.ord < a.ord ∧
    (b.kind.loads = true ∧ a.kind.loads = true ∧ f.kinds.getLsbD 0 = true ∨ b.kind.loads = true ∧ a.kind.writes = true ∧ f.kinds.getLsbD 1 = true ∨
      b.kind.writes = true ∧ a.kind.writes = true ∧ f.kinds.getLsbD 2 = true ∨ b.kind.writes = true ∧ a.kind.loads = true ∧ f.kinds.getLsbD 3 = true)

/-- An access that is still to be performed comes before another at a physical address (R84, R85, R154): an acquire, or before a release,
two stores, accesses that may share a byte, or accesses with a fence between them. One that waits for the return from a handler holds no
later one up. -/
def Precedes (c : Ctx) (b a : GAccess) (host : Bool) (pa : Nat) : Prop :=
  b.ord < a.ord ∧ b.performed = false ∧ ¬ Stands c b ∧
    (b.acquire = true ∨ a.release = true ∨ (b.kind = .store ∧ a.kind = .store) ∨ Fenced c b a ∨
      (b.kind.memory = true ∧ ∀ pb h y, b.walk = .done pb h y → h = host ∧ pb < pa + a.width ∧ pa < pb + b.width))

/-- R155: what an atomic writes over an old value of w bits. -/
def atomicOver (op w old x expect : Nat) : Option Nat :=
  let least (most signed : Bool) : Nat :=
    let v (y : Nat) : Int := if signed = true then signedOf w y else y
    if most = true then (if v old < v x then x else old) else (if v x < v old then x else old)
  match op with
  | 0 => some ((old + x) % 2 ^ w)
  | 1 => some (old &&& x)
  | 2 => some (old ||| x)
  | 3 => some (old ^^^ x)
  | 4 => some (least false true)
  | 5 => some (least true true)
  | 6 => some (least false false)
  | 7 => some (least true false)
  | 8 => some x
  | _ => if old = expect then some x else none

/-- The memories of t are those of s with n bytes of x at a physical address, and no other byte changed. -/
def Stored (s t : State) (host : Bool) (pa n x : Nat) : Prop :=
  ∀ h b, t.homeNum h b 1 = if h = host ∧ pa ≤ b ∧ b < pa + n then x / 256 ^ (b - pa) % 256 else s.homeNum h b 1

/-- Some bits of a doubleword. -/
def slice (x : U64) (lo n : Nat) : Nat := x.toNat / 2 ^ lo % 2 ^ n

/-- R343: the cycle at which the value that a source code names is ready, for a naming unit of index u, or an output with u the number of
units; own says that IMM may be named. -/
inductive ReadyAt (nin : Nat) (ein : Bool) (ready : Nat → Nat) (u : Nat) (own : Bool) : Nat → Nat → Prop
  | unit (k : Nat) : k < u → k < 0x30 → ReadyAt nin ein ready u own k (ready k)
  | input (k : Nat) : k < nin → k < 3 → ReadyAt nin ein ready u own (0x40 + k) 0
  | scalar : ein = true → ReadyAt nin ein ready u own 0x43 0
  | imm : own = true → ReadyAt nin ein ready u own 0x44 0
  | zero : ReadyAt nin ein ready u own 0x45 0

/-- R344: operands and latency of an operation in a variant that it lists. -/
def unitShape (op sub : Nat) : Option (Nat × Nat) :=
  match op with
  | 0 | 1 => if sub = 0 then some (2, 1) else none
  | 2 => if sub < 2 then some (2, 2) else none
  | 3 | 4 => if sub = 0 then some (3, 3) else none
  | 5 | 6 => if sub < 3 then some (2, 1) else none
  | 7 => some (3, 1)
  | 8 => if sub < 4 then some (2, 1) else none
  | 9 => if sub = 0 then some (3, 1) else none
  | 10 => if sub < 24 ∧ (sub % 8 < 6 ∨ sub = 22) then some (2, 1) else none
  | 11 => if sub = 0 then some (1, 1) else none
  | _ => none

/-- R341, R342: the unit record of unit k of an image. -/
def unitAt (dw : Nat → U64) (k : Nat) : MotifUnit :=
  let w := dw (2 + 2 * k)
  { op := slice w 0 8, sub := slice w 40 8, ready := slice w 32 6, src := (slice w 8 8, slice w 16 8, slice w 24 8), imm := dw (3 + 2 * k) }

/-- R341 to R345: an image of doublewords dw passes validation. -/
def ImageOk (dw : Nat → U64) : Prop :=
  let n := slice (dw 0) 18 6
  let nin := slice (dw 0) 8 2
  let ein := (dw 0).getLsbD 10
  let nout := slice (dw 0) 11 2
  let y0 := slice (dw 1) 0 8
  let y1 := slice (dw 1) 8 8
  let ready (k : Nat) : Nat := (unitAt dw k).ready
  let names (u : MotifUnit) : List Nat := [u.src.1, u.src.2.1, u.src.2.2]
  slice (dw 0) 0 8 = 1 ∧ slice (dw 0) 24 40 = 0 ∧ 1 ≤ n ∧ n ≤ 48 ∧ (nout = 1 ∨ nout = 2) ∧ slice (dw 1) 16 48 = 0 ∧ (nout = 1 → y1 = 0x45) ∧
    (∀ k, k < n → let u := unitAt dw k
      slice (dw (2 + 2 * k)) 48 16 = 0 ∧ slice (dw (2 + 2 * k)) 38 2 = 0 ∧ (u.op ≠ 11 → slice u.imm 32 32 = 0) ∧ u.ready ≤ 32 ∧
      ∃ (ops lat top : Nat) (t : Nat → Nat), unitShape u.op u.sub = some (ops, lat) ∧ (∀ j, ops ≤ j → j < 3 → (names u).getD j 0 = 0x45) ∧
        (∀ j, j < ops → ReadyAt nin ein ready k (decide (u.op ≠ 11)) ((names u).getD j 0) (t j) ∧ t j ≤ top) ∧ (∃ j, j < ops ∧ t j = top) ∧
        u.ready = top + lat) ∧
    (∀ y, y = y0 ∨ y = y1 → ∃ t, ReadyAt nin ein ready n false y t ∧ t ≤ slice (dw 0) 13 5 + 1) ∧
    ∀ k, k < n → (((List.range n).flatMap fun j => names (unitAt dw j)) ++ [y0, y1]).count k ≤ 4

/-- A context whose queues, engines and results have drained (R51, R286): every queue is empty, no result, tower access or product is under
way, no access has a result to return or a ring to configure, and no column job runs. -/
def Drained (c : Ctx) : Prop :=
  (∀ k, k < 4 → vget [] c.eng.q k = []) ∧ c.landings = [] ∧ c.towerOps = [] ∧ c.flights = [] ∧ c.jobs = 0 ∧
    ∀ a ∈ c.glob.queue, (a.dest = none ∨ a.returned = true) ∧ ∀ x, a.kind ≠ .rcfg x

/-- A gang may be saved (R287): its slot is SAVING, each of its contexts has finished or has stopped, with no access or landing of its own
under way, and no border write or column job is on its way for its panels. -/
def GangStill (s : State) (k : Nat) : Prop :=
  (s.slot k).state = 3 ∧
    (∀ x ∈ s.ctxs, x.id.slot = k → (x.finished = true ∨ x.preempt.stop = .quiet) ∧ x.glob.queue = [] ∧
      ∀ y ∈ x.cells.toList, ∀ r ∈ y.rings.toList, r.fills = []) ∧
    (∀ x ∈ s.borderFlight, ∀ y ∈ s.ctxs, y.id.slot = k → x.2.1 ≠ y.id.panel) ∧
    ∀ x ∈ s.sheets.toList, ∀ j ∈ x.jobs, ∀ y ∈ s.ctxs, y.id.slot = k → j.panel ≠ some y.id.panel

end Sys2Proof.Claims

/-- R40, R43, R44, R54, R65, R66, R73, R84, R92, R153, R155, R241, R258, R267, R269, R277, R341 to R345: the events that let a panel go on. A hold of more than HOLDMAX counted cycles raises SCHEDULE
with the lowest counting code as subcode and the count in TVAL; the 16 wall cycles of a trap or return end; a wait whose condition is
true wakes issue 13 cycles on; a pass of a loop begins with its stage conditions, and after the last pass issue goes on behind the
body; a motif image that has come becomes a LOADED motif when it is valid and else a FAILED slot; a load's data returns and its line
stands in the sheet cache, and a store takes its place in the coherence order of its bytes and of no other byte, and neither before the
accesses that it must follow. An atomic gives the old value and writes the new one; a flag operation acts on its flag alone; a LAUNCH
gives its status and enqueues its packet with the sequence field of its entry; a descriptor word that has been read configures its ring in
every cell. (The model's: log entries 16 and 20 on the cycles of a descriptor and of an image's reads, 21 on a wait's end, 24 on the count
of a hold, 27 on atomics, 56 and 80 on the test of a flag, 58 and 74 on what stands during a handler, 79 on program order, 95 on the
cache.) -/
def Obligations.HoldsWaitsPassesAndReturns : Prop :=
  ∀ (s : State) (p : Nat) (c : Ctx), s.ctx? p = some c →
    let wakes (d : Ctx) : Prop := d.issue.wait = .wake (c.now + 13) ∧ d.issue.pc = c.issue.pc ∧ d.norm = c.norm ∧ d.cells = c.cells
    (∀ k : Nat, k ∈ [1, 2, 3, 5] → bit c.time.holding k = true → (∀ j, j ∈ [1, 2, 3, 5] → j < k → bit c.time.holding j = false) →
      c.trap.tctx = false → c.time.holdmax.toNat < c.time.held →
      ∃ d : Ctx, exec (.holdTimeout p) s = goesTo s d ∧ d.trap.tctx = true ∧
        d.trap.cause.setWidth 16 = BitVec.ofNat 16 (256 * k + 6) ∧ d.trap.tval = BitVec.ofNat 64 c.time.held) ∧
    (c.time.held ≤ c.time.holdmax.toNat → exec (.holdTimeout p) s = goesTo s c) ∧
    (∀ t, c.issue.wait = .until t → exec (.handlerFirstPacket p) s =
      goesTo s (if t ≤ s.gcyc then { c with issue := { c.issue with wait := .none } } else c)) ∧
    (∀ v : BitVec 4, c.issue.wait = .waitev v → c.latch.bits &&& v = 0#4 → exec (.waitComplete p) s = .next s) ∧
    (∀ v : BitVec 4, c.issue.wait = .waitev v → c.latch.bits &&& v ≠ 0#4 →
      ∃ d : Ctx, exec (.waitComplete p) s = goesTo s d ∧ wakes d ∧ d.latch.bits = c.latch.bits &&& ~~~v) ∧
    (∀ m n, c.issue.wait = .waitf m n → (∀ k, k < 16 → n ≤ ((c.cell k).ring m).filled) →
      ∃ d : Ctx, exec (.waitComplete p) s = goesTo s d ∧ wakes d ∧ d.latch = c.latch) ∧
    (∀ m n, c.issue.wait = .waite m n → (∀ k, k < 16 → n ≤ ((c.cell k).ring m).free) →
      ∃ d : Ctx, exec (.waitComplete p) s = goesTo s d ∧ wakes d ∧ d.latch = c.latch) ∧
    (∀ f x sc b, c.issue.wait = .flag f x sc b → ∀ w : GAccess, w.kind = .fwait f → w.trap = c.trap.tctx → lowHalf w.data = x →
      (c.glob.queue = [] ∨ c.glob.queue = [w] → (s.flag c f - x).toNat < 2 ^ 31 ∨ (c.glob.queue = [w] ∧ w.performed = true) →
        ∃ d : Ctx, exec (.waitComplete p) s = goesTo s d ∧ wakes d ∧ d.glob.queue = [] ∧
          d.trap.barw = (c.trap.barw && !(b && !c.trap.tctx))) ∧
      (c.glob.queue = [] ∨ (c.glob.queue = [w] ∧ w.performed = false) → 2 ^ 31 ≤ (s.flag c f - x).toNat →
        exec (.waitComplete p) s = .next s) ∧
      (∀ a : GAccess, c.glob.queue = [a, w] → w.performed = false → a.performed = false → ¬ Stands c a → a.ord < w.ord →
        a.acquire = true ∨ w.release = true ∨ a.kind = .finc f ∨ a.kind = .fset f ∨ a.kind = .fread f →
        exec (.waitComplete p) s = .next s)) ∧
    (∀ t, c.issue.wait = .wake t → exec (.waitComplete p) s =
      if t ≤ c.now then goesTo s { c with issue := { c.issue with wait := .none } } else .next s) ∧
    (∀ t, c.issue.wait = .twait t → exec (.waitComplete p) s =
      if t ≤ (c.tcyc : Int) then goesTo s { c with issue := { c.issue with wait := .none } } else .next s) ∧
    (∀ l : LoopState, c.loop = some l → l.pending = true → c.trap.tctx = false → c.preempt.req = false → l.pass < l.passes →
      l.stages ≤ 7 → ∃ d : Ctx, exec (.loopPass p) s = goesTo s d ∧ d.issue.pc = l.body ∧ d.time.anchor = c.time.ptime ∧
        d.loop = some { l with pending := false } ∧ d.norm.s = c.norm.s ∧ d.norm.b = c.norm.b ∧
        ∀ k, k < 8 → bit d.norm.c k = if 1 ≤ k ∧ k ≤ l.stages then decide (l.first + k ≤ l.pass + 1 ∧ l.pass + 1 < l.total + k)
          else bit c.norm.c k) ∧
    (∀ l : LoopState, c.loop = some l → l.pending = true → c.trap.tctx = false → l.draining = false → l.passes ≤ l.pass →
      exec (.loopPass p) s =
        goesTo s { c with loop := none, issue := { c.issue with pc := l.body + BitVec.ofNat 64 (4 * l.len) } }) ∧
    (∀ l : Loading, c.motif.load = some l → l.left = 0 → l.slot < 8 → l.asked ≤ l.got.length ∨ l.failed = true →
      ∃ (d : Ctx) (x : Slot), exec (.motifLoadEnd p) s = goesTo s d ∧ d.motif.load = none ∧ d.cells = c.cells ∧
        d.norm = c.norm ∧ d.motif.bind = c.motif.bind ∧
        (∀ k, k < 8 → vget .empty d.motif.slots k = if k = l.slot then x else vget .empty c.motif.slots k) ∧
        (l.failed = true → x = .failed 1) ∧
        (let dw (k : Nat) : U64 := ((l.got.find? fun y => y.1 == k).map (·.2)).getD 0#64
         l.failed = false →
          (ImageOk dw → ∃ m, x = .loaded m ∧ m.nin = slice (dw 0) 8 2 ∧ m.ein = (dw 0).getLsbD 10 ∧ m.nout = slice (dw 0) 11 2 ∧
            m.lat = slice (dw 0) 13 5 + 1 ∧ m.y0 = slice (dw 1) 0 8 ∧ m.y1 = slice (dw 1) 8 8 ∧
            m.units = (List.range (slice (dw 0) 18 6)).map (unitAt dw)) ∧
          (¬ ImageOk dw → x = .failed 2)) ∧
        (l.failed = false → ∀ w : U64, l.got.find? (fun y => y.1 == 0) = some (0, w) →
          w.toNat / 2 ^ 24 ≠ 0 ∨ w.toNat / 2 ^ 18 % 64 = 0 ∨ 48 < w.toNat / 2 ^ 18 % 64 → x = .failed 2)) ∧
    (∀ (k : Nat) (a : GAccess) (pa : Nat) (host sy : Bool), s.access? p k = some a → a.performed = false → a.ready ≤ s.gcyc →
      a.walk = .done pa host sy → s.corrupt host pa a.width = false →
      a.kind = .store ∨ (∃ sg, a.kind = .load sg) →
      ((∃ b ∈ c.glob.queue, Precedes c b a host pa) → exec (.scalarDataReturn p k) s = .next s) ∧
      ((∀ b ∈ c.glob.queue, ¬ Precedes c b a host pa) →
      (∀ sg r, a.kind = .load sg → a.dest = some r → p < 256 → ∃ (t : State) (d : Ctx), exec (.scalarDataReturn p k) s = .next t ∧
        t.ctx? p = some d ∧ (host, pa / 64) ∈ (t.sheet (p / 32)).lines ∧ t.hbm = s.hbm ∧ t.hostMem = s.hostMem ∧ t.writes = s.writes ∧
        d.landings = c.landings ++ [⟨a.ord, .seq, a.due, a.trap,
          .s r (loadValue a.width sg (s.readNum (p / 64) c.agent host pa a.width)), .zero⟩] ∧
        d.glob.queue = c.glob.queue.filter (fun b => b.id != a.id) ∧ d.norm = c.norm ∧ d.cells = c.cells) ∧
      (a.kind = .store → a.release = false ∨ s.writes = [] → Store.wf s.hbm = true → Store.wf s.hostMem = true →
        ∃ t d, exec (.scalarDataReturn p k) s = .next t ∧ t.ctx? p = some d ∧
          d.glob.queue = c.glob.queue.filter (fun b => b.id != a.id) ∧ d.landings = c.landings ∧ d.norm = c.norm ∧
          d.cells = c.cells ∧ d.scratch = c.scratch ∧ Stored s t host pa a.width a.data.toNat))) ∧
    (∀ (k : Nat) (a : GAccess), s.access? p k = some a → c.glob.queue = [a] → a.performed = false → a.ready ≤ s.gcyc →
      Store.wf s.hbm = true → Store.wf s.hostMem = true → Store.wf (s.sheet c.flagHome).flags = true → c.flagHome < 8 → p < 256 →
      ∀ (pa : Nat) (host sy : Bool), a.walk = .done pa host sy →
      let gives (t : State) (d : Ctx) (x : U64) : Prop := exec (.scalarDataReturn p k) s = .next t ∧ t.ctx? p = some d ∧ d.glob.queue = [] ∧
        d.norm = c.norm ∧ d.cells = c.cells ∧ d.scratch = c.scratch ∧
        d.landings = c.landings ++ (match a.dest with | some r => [⟨a.ord, .seq, a.due, a.trap, .s r x, .zero⟩] | none => [])
      (∀ op, a.kind = .atomic op → a.release = false ∨ s.writes = [] → s.corrupt host pa a.width = false →
        let old := s.homeNum host pa a.width
        let new := atomicOver op (8 * a.width) old (a.data.toNat % 256 ^ a.width) (a.expect.toNat % 256 ^ a.width)
        ∃ t d, gives t d (BitVec.ofNat 64 old) ∧ (new = none → Stored s t host pa 0 0) ∧ (∀ x, new = some x → Stored s t host pa a.width x)) ∧
      (∀ f, a.kind = .finc f ∨ a.kind = .fset f → a.release = false ∨ s.writes = [] → a.dest = none →
        ∃ t d, gives t d 0#64 ∧ t.hbm = s.hbm ∧ t.hostMem = s.hostMem ∧ t.writes = s.writes ∧
          ∀ g, t.flag d g = if g ≠ f then s.flag c g else if a.kind = .fset f then lowHalf a.data else s.flag c f + lowHalf a.data) ∧
      (∀ f, a.kind = .fread f → a.release = false ∨ s.writes = [] → ∃ t d, gives t d ((s.flag c f).setWidth 64) ∧ ∀ g, t.flag d g = s.flag c g) ∧
      (∀ f, a.kind = .fwait f → exec (.scalarDataReturn p k) s =
        if (s.flag c f - lowHalf a.data).toNat < 2 ^ 31 then
          goesTo s { c with glob := { c.glob with queue := [{ a with performed := true, value := some 0#64 }] } }
        else .next s) ∧
      (∀ m, a.kind = .rcfg m → s.corrupt host pa a.width = false → ∃ t d, exec (.scalarDataReturn p k) s = .next t ∧ t.ctx? p = some d ∧
        d.landings = c.landings ∧ d.cells = c.cells ∧ d.glob.queue = [{ a with
          performed := true, value := some (loadValue a.width false (s.readNum (p / 64) c.agent host pa a.width)) }]) ∧
      (∀ l : Loading, a.kind = .image → c.motif.load = some l → l.ord = a.ord → c.imageWatched a = false →
        ∃ t d l', exec (.scalarDataReturn p k) s = .next t ∧ t.ctx? p = some d ∧ d.motif.load = some l' ∧ d.landings = c.landings ∧
          d.motif.slots = c.motif.slots ∧ l'.slot = l.slot ∧ l'.left = l.left ∧
          (s.corrupt host pa 8 = true → l'.failed = true) ∧
          (s.corrupt host pa 8 = false → l'.failed = l.failed ∧
            l'.got = l.got ++ [(a.expect.toNat, BitVec.ofNat 64 (s.readNum (p / 64) c.agent host pa 8))] ∧
            ∀ h, l'.got.find? (fun y => y.1 == 0) = some (0, h) →
              l'.asked = if l.asked = 2 ∧ l'.got.length = 2 ∧ 1 ≤ slice h 18 6 ∧ slice h 18 6 ≤ 48 then 2 + 2 * slice h 18 6 else l.asked)) ∧
      (∀ q, a.kind = .launch q → q < 64 → a.data ≠ 1#64 →
        let h := s.queue q
        let size := 2 ^ (slice h.ctl 4 4 + 4)
        let place := h.base.toNat + 64 * (h.tail.toNat % size)
        let on : Prop := h.ctl.getLsbD 0 = true ∧ h.ctl.getLsbD 2 = true
        let room : Prop := (h.tail - h.head).toNat < size
        let refused (d : Ctx) : Prop := ∃ g : GAccess, d.glob.queue = [g] ∧ g.id = a.id ∧ g.walk = .refused 0x05#8 ∧ g.va = BitVec.ofNat 64 place
        (¬ on → ∃ t d, gives t d 2#64 ∧ t.queues = s.queues ∧ Stored s t host pa 0 0) ∧
        (on → ¬ room → ∃ t d, gives t d 1#64 ∧ t.queues = s.queues ∧ Stored s t host pa 0 0) ∧
        (on → room → c.committed = true → ∃ d, exec (.scalarDataReturn p k) s = goesTo s d ∧ refused d) ∧
        (∀ e : TlbEntry, on → room → c.committed = false → s.corrupt host pa 64 = false →
          tlbFind (s.sheet (p / 32)).tlb false place = some e →
          (e.leaf.getLsbD 2 = false → ∃ t d, exec (.scalarDataReturn p k) s = .next t ∧ t.ctx? p = some d ∧ refused d ∧ t.queues = s.queues) ∧
          (e.leaf.getLsbD 2 = true → s.writes = [] → ∃ t d, gives t d 0#64 ∧
            (t.queue q).tail = h.tail + 1#32 ∧ (t.queue q).head = h.head ∧ (t.queue q).ctl = h.ctl ∧ (t.queue q).base = h.base ∧
            (t.queue q).launchers = h.launchers ++ [(h.tail, c.id.taskId)] ∧ (∀ j, j ≠ q → t.queue j = s.queue j) ∧
            Stored s t (e.leaf.getLsbD 4) (e.pa + (place - e.va)) 64
              (h.tail.toNat % 2 ^ 16 + (s.readNum (p / 64) c.agent host pa 64 / 2 ^ 16 * 2 ^ 16)))))) ∧
    (∀ (a : GAccess) (m : Nat) (x : U64), Idle { c with glob := { c.glob with queue := [] } } → c.raised = [] → c.issue.leaving = false →
      c.glob.queue = [a] → a.kind = .rcfg m → m < 8 → a.performed = true → a.value = some x → a.trap = c.trap.tctx → a.due < c.now →
      ∃ t d, exec (.resultWriteback p) s = .next t ∧ t.ctx? p = some d ∧ d.glob.queue = [] ∧ d.norm = c.norm ∧ ∀ n, n < 16 →
        (d.cell n).tower = (c.cell n).tower ∧ (∀ j, j ≠ m → (d.cell n).ring j = (c.cell n).ring j) ∧
        let r := (d.cell n).ring m
        let count := slice x 32 8 + 1
        r.conf = true ∧ r.base = slice x 0 23 ∧ r.size = slice x 24 8 + 1 ∧ r.count = count ∧ r.explicit = x.getLsbD 23 ∧
          r.head = 0#32 ∧ r.tail = 0#32 ∧ r.ttail = 0#32 ∧ r.claimed = 0#32 ∧ r.nexttag = 0#32 ∧ r.hslot = 0 ∧ r.fslot = 0 ∧
          r.phase = false ∧ r.spec = false ∧ r.opened = 0 ∧ r.tags.length = count ∧
          (∀ k, k < count → r.tag k = BitVec.ofNat 32 k - BitVec.ofNat 32 count) ∧
          ∀ f ∈ r.fills, f.discarded = true ∧ { f with discarded := false } ∈ ((c.cell n).ring m).fills.map fun y => { y with discarded := false })

/-- R67, R76, R77, R223, R226, R285 to R288, R51: what lands in a panel, refresh, and stops. A ring's fill writes its line in a free
bank cycle, and its tag and counts are published in the cycle after; a message enters its express port and a border write its entry;
the sweep refreshes the oldest line of every bank that is idle, and records a corrupt line that it finds; a line at its force age holds
the panel for 32 cycles; a grace window that ends stops the context at once; a drained context has stopped, and so has one that waits
with every queue drained; a saved gang leaves its panels; and a context finishes once it has exited and drained and its accesses are
performed, the last one completing the task, whose record is then to be written. (The model's: log entry 22 on the grace window's end and
on a stop at a wait, 36 on what a saved gang keeps beside its area, 94 on what the sweep records, 101 on the accesses before a finish.) -/
def Obligations.LandingsRefreshAndStops : Prop :=
  ∀ (s : State) (p : Nat) (c : Ctx), s.ctx? p = some c →
    let island := s.island (16 * (p / 64) + 4 * ((4 * (p / 32 % 2) + p / 8 % 4) / 2) + p % 8 / 2)
    let force : Nat := 1048576 * island.fbase.toNat + 1024 * Nat.min c.sys.deferlim.toNat island.margin.toNat
    (∀ (n m off : Nat) (f : Fill) (x : Line), n < 16 → m < 8 → ((c.cell n).ring m).fills = [f] → f.ord = none → f.written = none →
      f.lines = [(off, x)] → off % 64 = 0 → off < 2 ^ 23 → Store.wf (c.cell n).tower = true →
      (n, off / 131072) ∉ c.time.taken → (n, off / 131072) ∉ c.time.landed →
      2 * (s.gcyc - ((c.cell n).ages.getD (off / 131072) {}).oldest.2) ≤ force →
      c.time.refreshUntil ≤ s.gcyc ∨ (n, off / 131072) ∉ c.time.refreshing →
      ∃ d : Ctx, exec (.ringFill p n m) s = goesTo s d ∧
        ((d.cell n).ring m).fills = [{ f with lines := [], written := some s.gcyc }] ∧
        ((d.cell n).ring m).tail = ((c.cell n).ring m).tail ∧ Store.line (d.cell n).tower off = x ∧
        (∀ a, a < off ∨ off + 64 ≤ a → Store.get (d.cell n).tower a = Store.get (c.cell n).tower a) ∧
        (∀ k, k < 16 → k ≠ n → d.cell k = c.cell k)) ∧
    (∀ (n m w : Nat) (f : Fill), n < 16 → m < 8 → ((c.cell n).ring m).fills = [f] → f.ord = none → f.written = some w → w < s.gcyc →
      f.discarded = false → ((c.cell n).ring m).explicit = false → ((c.cell n).ring m).spec = false →
      f.slot < ((c.cell n).ring m).tags.length →
      ∃ d : Ctx, exec (.ringFill p n m) s = goesTo s d ∧ ((d.cell n).ring m).fills = [] ∧
        ((d.cell n).ring m).tag f.slot = f.tag ∧ ((d.cell n).ring m).ttail = f.tag + 1#32 ∧
        ((d.cell n).ring m).tail = f.tag + 1#32 ∧ (d.cell n).tower = (c.cell n).tower ∧ d.latch.ring = true) ∧
    (∀ (n : Nat) (m : SendMsg), n < 16 → (c.cell n).send = [m] → m.arrive ≤ s.gcyc → s.mate c (m.dest.toNat % 256) = some c →
      c.preempt.stop = .none → bit m.dest 15 = false →
      let k := m.dest.toNat / 256 % 16
      let port := m.dest.toNat / 65536 % 4
      ∃ (t : State) (d : Ctx), exec (.expressArrival p n) s = .next t ∧ t.ctx? p = some d ∧
        (vget none (c.cell k).ports port = none → (d.cell n).send = [] ∧ d.latch.xport = true ∧
          vget none (d.cell k).ports port = some ⟨m.data, m.tag⟩ ∧ (d.cell n).tower = (c.cell n).tower) ∧
        (vget none (c.cell k).ports port ≠ none → (d.cell n).send = [m] ∧ (d.cell k).ports = (c.cell k).ports ∧ d.latch = c.latch)) ∧
    (∀ (g : Nat) (m : BorderMsg), s.borderFlight = [(g, p, m)] → g ≤ s.gcyc → m.side < 4 → m.entry < 4 →
      ∃ (t : State) (d : Ctx), exec (.borderLanding p) s = .next t ∧ t.ctx? p = some d ∧ t.borderFlight = [] ∧
        d.cells = c.cells ∧ d.norm = c.norm ∧ ∀ i j, i < 4 → j < 4 →
          vget {} (vget (Vector.replicate 4 {}) d.borders i) j =
            if i = m.side ∧ j = m.entry then ⟨m.data, m.tag⟩ else vget {} (vget (Vector.replicate 4 {}) c.borders i) j) ∧
    (let swept (n k : Nat) : Prop := (n, k) ∉ c.time.landed ∧ (c.time.ran = false ∨ (n, k) ∉ c.time.taken)
     let found (n off : Nat) : Prop := off ∈ (c.cell n).badLines ∧ off ∉ (c.cell n).poisoned ∧
      ∃ k, k < 64 ∧ swept n k ∧ off = 131072 * k + 64 * ((c.cell n).ages.getD k {}).oldest.1
     ∃ (t : State) (d : Ctx), exec (.refreshSweep p) s = .next t ∧ t.ctx? p = some d ∧ d.time = c.time ∧ d.norm = c.norm ∧
      ((∀ n, (c.cell n).badLines = []) → t = s.putCtx d) ∧ ∀ n, n < 16 →
      d.cell n = { (c.cell n) with ages := (d.cell n).ages, poisoned := (d.cell n).poisoned } ∧
      (∀ off, off ∈ (d.cell n).poisoned ↔ off ∈ (c.cell n).poisoned ∨ found n off) ∧
      (∀ off, found n off → ∃ e, (s.gcyc, e) ∈ t.fleet.log ∧ e.cls = 4 ∧ e.cell = n ∧ e.panel = p % 32) ∧
      ∀ (k : Nat) (x y : BankAge), (c.cell n).ages[k]? = some x → (d.cell n).ages[k]? = some y →
        (swept n k → x.next < 2048 ∨ x.young ≠ [] → (x.oldest.1, s.gcyc) ∈ y.young) ∧ (¬ swept n k → y = x)) ∧
    (let old (n k : Nat) : Prop := n < 16 ∧ k < 64 ∧ force ≤ s.gcyc - ((c.cell n).ages.getD k {}).oldest.2
     (c.time.refreshUntil ≤ s.gcyc → (∃ n k, old n k) → ∃ banks, (∀ n k, (n, k) ∈ banks ↔ old n k) ∧
      exec (.forcedRefresh p) s = goesTo s
        { c with time := { c.time with refreshUntil := s.gcyc + 32, refreshing := banks },
                 sys := { c.sys with forced := c.sys.forced + 1#32 } }) ∧
     ((∀ n k, ¬ old n k) ∨ s.gcyc < c.time.refreshUntil → exec (.forcedRefresh p) s = goesTo s c)) ∧
    (exec (.forcedRefreshEnd p) s =
      goesTo s (if c.time.refreshUntil ≤ s.gcyc then { c with time := { c.time with refreshUntil := 0, refreshing := [] } } else c)) ∧
    (∀ g, c.preempt.deadline = some g → s.gcyc < g → exec (.graceWindowExpiry p) s = goesTo s c) ∧
    (∀ g, c.preempt.deadline = some g → g ≤ s.gcyc → c.finished = false → c.trap.halted = none →
      c.preempt.stop = .none ∨ c.preempt.stop = .draining →
      ∃ d : Ctx, exec (.graceWindowExpiry p) s = goesTo s d ∧ d.preempt.stop = .forced ∧ d.preempt.deadline = none ∧
        d.eng.q = c.eng.q) ∧
    (c.preempt.stop = .draining → c.trap.tctx = false → Drained c →
      ∃ d : Ctx, exec (.drainComplete p) s = goesTo s d ∧ d.preempt.stop = .quiet ∧ d.preempt.lastf = false ∧ d.norm = c.norm ∧
        d.cells = c.cells) ∧
    (c.preempt.stop = .draining → ¬ Drained c → exec (.drainComplete p) s = goesTo s c) ∧
    (c.preempt.stop = .forced → c.jobs = 0 → c.glob.queue = [] →
      exec (.drainComplete p) s = goesTo s { c with preempt := { c.preempt with stop := .quiet, lastf := true } }) ∧
    (∀ v, c.preempt.stop = .none → c.preempt.req = true → c.preempt.notify = false → c.trap.tctx = false → Drained c →
      c.issue.exited = false → c.issue.wait = .waitev v → bit v 3 = false → ∃ d : Ctx, exec (.drainComplete p) s = goesTo s d ∧ d.preempt.stop = .quiet ∧
        d.preempt.lastf = false ∧ d.issue.wait = .none ∧ d.issue.pc = c.issue.waitPc ∧ d.norm = c.norm ∧ d.cells = c.cells) ∧
    (∀ (t : Task) (ps : List Nat) (w : State), c.id.slot < 64 → (s.slot c.id.slot).task = some t → t.ending = none →
      GangStill s c.id.slot → s.savePages t.record = (some ps, w) → ∃ (u : State) (v : Saved), exec (.gangSave c.id.slot) s = .next u ∧
        (u.slot c.id.slot).state = 4 ∧ (u.slot c.id.slot).task.bind (·.saved) = some v ∧ v.ctxs = s.gang c.id.slot ∧
        (∀ x ∈ u.ctxs, x.id.slot ≠ c.id.slot) ∧ (∀ x ∈ s.ctxs, x.id.slot ≠ c.id.slot → x ∈ u.ctxs)) ∧
    (c.issue.exited = true → c.trap.tctx = false → Drained c → (∀ a ∈ c.glob.queue, a.kind = .image ∨ ∃ f, a.kind = .fwait f) →
      (∀ x ∈ s.ctxs, x.id.slot = c.id.slot → x.id.panel ≠ p → x.finished = false →
        exec (.contextFinish p) s = goesTo s { c with finished := true }) ∧
      (∀ t : Task, c.id.slot < 64 → (s.slot c.id.slot).task = some t → t.saved = none → t.ending = none →
        (∀ x ∈ s.ctxs, x.id.slot = c.id.slot → x.id.panel = p ∨ x.finished = true) →
        ∃ u : State, exec (.contextFinish p) s = .next u ∧ (u.slot c.id.slot).task.bind (·.ending) = some 5 ∧
          (u.slot c.id.slot).state = (s.slot c.id.slot).state ∧ u.ctxs.map (·.id) = s.ctxs.map (·.id) ∧
          ∀ q, t.packet.bind s.packet? = some q → q.result = none → ∃ y, u.packet? q.id = some y ∧
            y.result = some (0, 0, 0, (t.bind.getD 1 0#64).toNat))) ∧
    (¬ Drained c ∨ (∃ a ∈ c.glob.queue, a.kind ≠ .image ∧ ∀ f, a.kind ≠ .fwait f) → exec (.contextFinish p) s = .next s)

/-! Column jobs, views and translation (R86, R229 to R239, R387 to R397). -/

namespace Sys2Proof.Claims

/-- The translation unit of a sheet holds the page of an address, in the main or the span table. -/
def Cached (s : State) (sheet : Nat) (span : Bool) (va pa : Nat) (leaf : U64) : Prop :=
  ∃ e, tlbFind (s.sheet sheet).tlb span va = some e ∧ pa = e.pa + (va - e.va) ∧ leaf = e.leaf

/-- No entry of the translation unit of a sheet covers an address. -/
def Missed (s : State) (sheet : Nat) (va : Nat) : Prop := ∀ e ∈ (s.sheet sheet).tlb, e.span = false → va < e.va ∨ e.va + e.size ≤ va

/-- Where the entry of an address stands in the table of a level that begins at t (R387). -/
def entryPlace (va level t : Nat) : Nat := t + 8 * (va / 2 ^ (46 - 10 * level) % 1024)

/-- The entry of a table at a physical address, as the unit of a sheet reads it through its die's view. -/
def entryAt (s : State) (sheet a : Nat) : U64 := BitVec.ofNat 64 (s.readNum (sheet / 2) .steward false a 8)

/-- A valid entry that names the next table (R388). -/
def NamesTable (x : U64) (next : Nat) : Prop :=
  x.extractLsb' 0 2 = 3#2 ∧ x.extractLsb' 2 11 = 0#11 ∧ x.extractLsb' 56 8 = 0#8 ∧
    next = (x.extractLsb' 13 43).toNat * 2 ^ 13 ∧ next < 2 ^ 39

/-- A valid leaf at a level: the size of its page, and the physical address of the page (R389, R390). -/
def NamesPage (x : U64) (level size pa : Nat) : Prop :=
  let oa := (x.extractLsb' 16 40).toNat * 2 ^ 16
  x.extractLsb' 0 2 = 1#2 ∧ x.extractLsb' 12 4 = 0#4 ∧ x.extractLsb' 56 8 = 0#8 ∧ x.getLsbD 5 = false ∧
    (x.getLsbD 4 = false → oa < 2 ^ 39) ∧ pa = oa / size * size ∧
    ((level = 2 ∧ x.getLsbD 9 = true ∧ x.getLsbD 8 = false ∧ size = 2 ^ 30) ∨
      (level = 3 ∧ x.getLsbD 9 = false ∧ size = if x.getLsbD 8 then 2 ^ 21 else 2 ^ 16))

/-- The walk of an address in the main table comes to a table of a level: from the root at 0, each entry on the way names the next. -/
inductive Reaches (s : State) (sheet va : Nat) : Nat → Nat → Prop
  | root : Reaches s sheet va 0 0
  | next {level t u : Nat} : Reaches s sheet va level t → level < 3 → NamesTable (entryAt s sheet (entryPlace va level t)) u →
      Reaches s sheet va (level + 1) u

/-- The walk of an address ends at a leaf: its page, and its bits. -/
def Finds (s : State) (sheet va size pa : Nat) (leaf : U64) : Prop :=
  ∃ level t, Reaches s sheet va level t ∧ leaf = entryAt s sheet (entryPlace va level t) ∧ NamesPage leaf level size pa

/-- The walk of an address ends at an entry that is not present. -/
def Absent (s : State) (sheet va level : Nat) : Prop :=
  ∃ t, Reaches s sheet va level t ∧ (entryAt s sheet (entryPlace va level t)).getLsbD 0 = false

/-- The walk of an address ends at an invalid entry: its level and its physical address. -/
def Invalid (s : State) (sheet va level place : Nat) : Prop :=
  ∃ t, Reaches s sheet va level t ∧ place = entryPlace va level t ∧ (entryAt s sheet place).getLsbD 0 = true ∧
    (∀ u, level < 3 → ¬ NamesTable (entryAt s sheet place) u) ∧ ∀ size pa, ¬ NamesPage (entryAt s sheet place) level size pa

/-- What the leaf of its page makes of an access at a physical address (R92, R392). -/
def Decides (a : GAccess) (pa : Nat) (leaf : U64) (w : Walk) : Prop :=
  (PageRefuses leaf a.kind → w = .refused 0x05#8) ∧ (¬ PageRefuses leaf a.kind → w = .done pa (bit leaf 4) (bit leaf 6))

/-- The panel holds under code 0x03, the access is one of the context that runs, and each earlier one of it has been translated or
refused, but for those that wait for the return from a handler (R397). (Log entry 89.) -/
def Serves (c : Ctx) (a : GAccess) : Prop :=
  bit c.time.holding 3 = true ∧ a.trap = c.trap.tctx ∧ ∀ b ∈ c.glob.queue, b.ord < a.ord → b.trap = c.trap.tctx → ¬ Stands c b →
    (∃ pa h y, b.walk = .done pa h y) ∨ ∃ code, b.walk = .refused code

/-- Both memories have their canonical form. -/
def Sane (s : State) : Prop := Store.wf s.hbm = true ∧ Store.wf s.hostMem = true

/-- At the homes, some bytes stand from an address of one of the memories on, and every other byte is what it was. -/
def Stores (s t : State) (host : Bool) (a : Nat) (xs : List Byte) : Prop :=
  ∀ h b, t.homeNum h b 1 = if h = host ∧ a ≤ b ∧ b < a + xs.length then (xs.getD (b - a) 0#8).toNat else s.homeNum h b 1

/-- An access of a context that a column job must wait for (R90): it came before the job, it is not performed, and it has not been refused; after
a forced stop, one that is still to be performed and does not wait for the return from a handler. (Log entry 71.) -/
def HoldsJob (c : Ctx) (j : Job) (a : GAccess) : Prop :=
  a.ord < j.ord ∧ a.performed = false ∧
    (c.preempt.stop ≠ .forced → ∀ code, a.walk ≠ .refused code) ∧
    (c.preempt.stop = .forced → (a.walk = .walking ∨ ∃ pa h y, a.walk = .done pa h y) ∧ (∀ x, a.kind ≠ .fwait x) ∧ ¬ Stands c a)

/-- A job of the engine of a sheet with its number, and the context that issued it. -/
def Engaged (s : State) (p : Nat) (j : Job) (c : Ctx) : Prop :=
  s.job? (p / 32) j.id = some j ∧ j.panel = some p ∧ s.ctx? p = some c

/-- R91: two regions share a byte, and one of them may be written. -/
def Conflict (x y : Region) : Prop := x.start < y.start + y.len ∧ y.start < x.start + x.len ∧ (x.rights ≠ 1 ∨ y.rights ≠ 1)
def Conflicts (i j : Job) : Prop := ∃ x ∈ i.foot, ∃ y ∈ j.foot, Conflict x y

/-- The bytes of the two memories, by home and address. -/
abbrev Memories := Bool → Nat → Nat

/-- The memories as they stand once the bytes that a job has written, and that wait in pieces, have left (R82; log entry 86). -/
def standing (s : State) (run : List OutPiece) : Memories := fun h a =>
  match run.findSome? fun x => x.at? h a with
  | some b => b.toNat
  | none => s.homeNum h a 1

/-- The pieces of a job: aligned, of 16 bytes, or of 8 in host memory, no two of one place, and none of them full. -/
def PiecesOk (run : List OutPiece) : Prop :=
  (run.map fun x => (x.host, x.base)).Nodup ∧
    ∀ x ∈ run, x.bytes.length = (if x.host = true then 8 else 16) ∧ x.base % x.bytes.length = 0 ∧ none ∈ x.bytes

/-- A number in some bytes of the memories, and the memories with one stored. -/
def numberAt (m : Memories) (h : Bool) (a : Nat) : Nat → Nat
  | 0 => 0
  | n + 1 => m h a + 2 ^ 8 * numberAt m h (a + 1) n
def storedAt (m : Memories) (h : Bool) (a n x : Nat) : Memories :=
  fun g b => if g = h ∧ a ≤ b ∧ b < a + n then x / 2 ^ (8 * (b - a)) % 2 ^ 8 else m g b

/-- R92, R255, R392: the leaf of a page grants an access of a job. -/
def JobRight (a : JobAccess) (leaf : U64) : Prop :=
  (a ≠ .read → leaf.getLsbD 2 = true) ∧ (a = .reduce ∨ a = .shadow → leaf.getLsbD 4 = false) ∧ (a = .shadow → leaf.getLsbD 7 = true)

/-- R238: a job may make an access of n bytes: its address is in the map, aligned and not in the local window, its page stands in the sheet's
unit and grants the access, and no uncorrectable error is met where it reads. -/
def Granted (s : State) (p : Nat) (a : JobAccess) (va : U64) (n pa : Nat) (host : Bool) : Prop :=
  va.toNat < 2 ^ 56 ∧ va.toNat % n = 0 ∧ isLocal va = false ∧ (∃ leaf, Cached s (p / 32) false va.toNat pa leaf ∧ host = leaf.getLsbD 4 ∧
    JobRight a leaf) ∧ (a ≠ .write → s.corrupt host pa n = false)

/-- R238: it may not, and faults with a code. (Which of two goes first: log entry 81.) -/
def Denied (s : State) (p : Nat) (a : JobAccess) (va : U64) (n : Nat) (code : BitVec 8) : Prop :=
  if 2 ^ 56 ≤ va.toNat then code = 0x05#8
  else if va.toNat % n ≠ 0 then code = 0x03#8
  else if isLocal va = true then code = 0x05#8
  else ∃ pa leaf, Cached s (p / 32) false va.toNat pa leaf ∧
    ((¬ JobRight a leaf ∧ code = 0x05#8) ∨ (JobRight a leaf ∧ a ≠ .write ∧ s.corrupt (leaf.getLsbD 4) pa n = true ∧ code = 0x10#8))

/-- An element of w bits at its place: read, and written; an element of 4 bits shares its byte (R233). -/
def ElementIs (s : State) (p : Nat) (m : Memories) (x : Spot) (w y : Nat) : Prop :=
  ∃ pa host, Granted s p .read x.va ((w + 7) / 8) pa host ∧
    y = if w = 4 then numberAt m host pa 1 / 2 ^ (if x.high = true then 4 else 0) % 2 ^ 4 else numberAt m host pa (w / 8)
def ElementSet (s : State) (p : Nat) (m : Memories) (x : Spot) (w y : Nat) (m' : Memories) : Prop :=
  ∃ pa host, Granted s p .write x.va ((w + 7) / 8) pa host ∧
    let old := numberAt m host pa 1
    m' = storedAt m host pa ((w + 7) / 8)
      (if w = 4 then (if x.high = true then old % 2 ^ 4 + 2 ^ 4 * (y % 2 ^ 4) else old / 2 ^ 4 * 2 ^ 4 + y % 2 ^ 4) else y)

/-- The type codes of a card, its rounding and its FTZ bit (R231). -/
def globalType (j : Job) : BitVec 4 := BitVec.ofNat 4 (j.num 0 8)
def towerType (j : Job) : BitVec 4 := BitVec.ofNat 4 (j.num 0 8 / 2 ^ 4)
def jobRound (j : Job) : RMode := match j.num 0 8 / 2 ^ 8 % 2 ^ 3 with | 1 => .rtz | 2 => .rdn | 3 => .rup | _ => .rne
def jobFtz (j : Job) : Bool := (j.num 0 8).testBit 11

/-- R106, R234: a job's conversion between two types: none between equal ones. -/
def Converted (j : Job) (src dst : BitVec 4) (x y : Nat) : Prop :=
  src.toNat < 14 ∧ dst.toNat < 14 ∧ j.num 0 8 / 2 ^ 8 % 2 ^ 3 < 4 ∧
    if src = dst then y = x
    else ∃ fl, (∀ t, intType4 dst = some t → ToInteger t (jobRound j) 0 (value src (jobFtz j) x) 0 y fl) ∧
      (∀ f, form dst = some f → f.Encodes (jobRound j) 0 (jobFtz j) (value src (jobFtz j) x) y fl)

/-- R236: one F32 operation, rounded with RNE. -/
def Once (z : Bool) (f : Quantity → Quantity → Quantity × Bool) (a b y : Nat) : Prop :=
  ∃ fl, f32.Gives .rne 0 z (f (f32.read z a) (f32.read z b)) y fl
def Difference (a b : Quantity) : Quantity × Bool := plus .rne a (minus b)

/-- R236: the square root, correctly rounded: twice the midpoints to the neighbours of y enclose twice the root. -/
def Root (z : Bool) (x y : Nat) : Prop :=
  let mids (k : Nat) : Rat := f32.size k + f32.size (k + 1)
  match f32.read z x with
  | .nan | .inf true => y = 0x7FC00000
  | .inf false => y = 0x7F800000
  | .real v neg =>
    (v = 0 → y = if neg = true then 2 ^ 31 else 0) ∧ (v < 0 → y = 0x7FC00000) ∧
      (0 < v → 1 ≤ y ∧ y < 0x7F800000 ∧ mids (y - 1) * mids (y - 1) < 4 * v ∧ 4 * v < mids y * mids y)

/-- R236: θ after a step of LR along a direction with weight decay; and θ, m and v after an update with the gradient g. -/
def Descent (j : Job) (dir th th' : Nat) : Prop :=
  let z := jobFtz j
  ∃ a b c, Once z times (j.num 224 4) th a ∧ Once z (plus .rne) dir a b ∧ Once z times (j.num 208 4) b c ∧ Once z Difference th c th'
def Updated (j : Job) (g th m v th' m' v' : Nat) : Prop :=
  let z := jobFtz j
  let b1 := j.num 212 4
  let b2 := j.num 216 4
  let mul := Once z times
  let add := Once z (plus .rne)
  let sub := Once z Difference
  match j.num 228 4 % 2 ^ 3 with
  | 0 => m' = m ∧ v' = v ∧ Descent j g th th'
  | 1 => v' = v ∧ (∃ a, mul b1 m a ∧ add a g m') ∧ Descent j m' th th'
  | 2 => (∃ a b c, mul b1 m a ∧ sub 0x3F800000 b1 b ∧ mul b g c ∧ add a c m') ∧
      (∃ a b c d, mul b2 v a ∧ sub 0x3F800000 b2 b ∧ mul g g c ∧ mul b c d ∧ add a d v') ∧
      ∃ r q k, Root z v' r ∧ add r (j.num 220 4) q ∧ Once z quotient m' q k ∧ Descent j k th th'
  | _ => False

/-- R235: the new value of an element of 4 bytes under a reduction with x. -/
def Reduced (j : Job) (old x z : Nat) : Prop :=
  let op := j.num 0 8 / 2 ^ 15 % 2 ^ 3
  let ftz := jobFtz j
  op < 3 ∧
  match intType4 (globalType j) with
  | some t => t.1 = 32 ∧ (op = 0 → z = (old + x) % 2 ^ 32) ∧
      (op ≠ 0 → (asInt t old < asInt t x ↔ op = 1) → z = old) ∧ (op ≠ 0 → (asInt t x < asInt t old ↔ op = 1) → z = x)
  | none => globalType j = 8#4 ∧ (op = 0 → Once ftz (plus .rne) old x z) ∧
      (op ≠ 0 → ∃ v fl, Extreme (decide (op = 2)) (f32.read ftz old) (f32.read ftz x) v ∧ f32.Encodes .rne 0 ftz v z fl)

/-- R234 to R236: what element n of a job, of value x in the tower or in the source of a copy, does to the memories. -/
def Leaves (s : State) (p : Nat) (j : Job) (x : Nat → Nat) (n : Nat) (m m' : Memories) : Prop :=
  let w := bitsOf (globalType j)
  let set (at_ : Spot) (y : Nat) (a b : Memories) : Prop := ElementSet s p a at_ w y b
  if j.form = 5 then
    ∃ y z pa, Converted j (towerType j) (globalType j) (x n) y ∧ Granted s p .reduce (j.spot n 32).va 4 pa false ∧
      Reduced j (numberAt m false pa 4) y z ∧ m' = storedAt m false pa 4 z
  else if j.form = 4 then
    ∃ y z, ElementIs s p m (j.spot n w) w y ∧ Converted j (globalType j) (towerType j) y z ∧
      ElementSet s p m (j.spot2 n (bitsOf (towerType j))) (bitsOf (towerType j)) z m'
  else if (j.num 0 8).testBit 18 = true then
    let op := j.num 228 4 % 2 ^ 3
    ∃ (g t0 th mo v th' mo' v' t1 : Nat) (m1 m2 : Memories) (f f' : Flags),
      f32.Encodes .rne 0 false (value (towerType j) false (x n)) g f ∧ ElementIs s p m (j.spot n w) w t0 ∧
      f32.Encodes .rne 0 false (value (globalType j) false t0) th f' ∧
      (op ≠ 0 → ElementIs s p m (j.spot2 n 32) 32 mo) ∧ (op = 2 → ElementIs s p m (j.spot3 n 32) 32 v) ∧
      Updated j g th mo v th' mo' v' ∧ Converted j 8#4 (globalType j) th' t1 ∧ set (j.spot n w) t1 m m1 ∧
      (if op = 0 then m2 = m1 else ElementSet s p m1 (j.spot2 n 32) 32 mo' m2) ∧
      (if op = 2 then ElementSet s p m2 (j.spot3 n 32) 32 v' m' else m' = m2)
  else
    ∃ (y : Nat) (m1 : Memories), Converted j (towerType j) (globalType j) (x n) y ∧ set (j.spot n w) y m m1 ∧
      (if j.form = 2 then set (j.spot2 n w) y m1 m' else m' = m1)

/-- Elements in order, k of them from n on. -/
inductive InOrder (r : Nat → Memories → Memories → Prop) : Nat → Nat → Memories → Memories → Prop
  | none (n : Nat) (m : Memories) : InOrder r n 0 m m
  | next (n k : Nat) (m m1 m2 : Memories) : r n m m1 → InOrder r (n + 1) k m1 m2 → InOrder r n (k + 1) m m2

/-- Every write that the view of a sheet's die has not applied is the job's own. -/
def Current (s : State) (p : Nat) (j : Job) : Prop := ∀ w ∈ s.writes, w.agent = s.jobAgent j ∨ w.isIn (p / 64) = true

/-- R233: offset of element n of a walk, in elements: index k of the vector is n ÷ (E0 × ... × E(k-1)) mod Ek. -/
def before (e : Nat → Nat) (k : Nat) : Nat := (List.range k).foldl (fun x i => x * e i) 1
def offsetOf (e : Nat → Nat) (str : Nat → Int) (d n : Nat) : Int := ((List.range d).map fun k => ((n / before e k % e k : Nat) : Int) * str k).sum
def bitPlace (base : Nat) (off : Int) (w : Nat) : Spot :=
  ⟨BitVec.ofInt 64 ((8 * base + off * w) / 8), decide ((8 * base + off * w) % 8 = 4)⟩

/-- The tower bytes of a cell after some lines have been written. -/
def linesOver (t : Nat → Byte) : List (Nat × Line × BitVec 64) → Nat → Byte
  | [] => t
  | y :: ys => linesOver (fun a => if y.1 ≤ a ∧ a < y.1 + 64 ∧ y.2.2.getLsbD (a - y.1) = true then y.2.1.extractLsb' (8 * (a - y.1)) 8 else t a) ys

/-- The dimensions of a card's walk, and its extents and strides (R230, R231); the bytes and the elements of a chunk, and the
elements of the chunk in hand. -/
def dims (j : Job) : Nat := j.num 0 8 / 2 ^ 12 % 2 ^ 3 + 1
def ext (j : Job) (k : Nat) : Nat := j.num (32 + 4 * k) 4
def strideOf (j : Job) (at_ k : Nat) : Int := (BitVec.ofNat 64 (j.num (at_ + 8 * k) 8)).toInt
def chunkSize (j : Job) : Nat := 64 * (j.num 16 8 / 2 ^ 44 % 2 ^ 12 + 1)
def perChunk (j : Job) : Nat := chunkSize j * 8 / bitsOf (towerType j)
def chunkNow (j : Job) : Nat := min (perChunk j) (before (ext j) (dims j) - j.pos)

/-- A job of panel p's sheet that takes a step now; it is no COPY packet's and writes to no other package. -/
def Steps (s : State) (p : Nat) (j : Job) (c : Ctx) : Prop :=
  Engaged s p j c ∧ j.packet = none ∧ j.phase = .running ∧ j.fault = none ∧ j.ready ≤ s.gcyc ∧ j.walk = .walking ∧ j.pos < j.total ∧
    (towerType j).toNat < 14 ∧ (globalType j).toNat < 14 ∧ (j.num 0 8).testBit 19 = false ∧ Sane s ∧ PiecesOk j.run

/-- A step of the job leaves the package t, the job k, the context d, of whose cells only the one in hand may differ, and the memories m. At
its end its last bytes leave. -/
def StepTo (s : State) (p : Nat) (j : Job) (c : Ctx) (t : State) (k : Job) (d : Ctx) (m : Memories) : Prop :=
  exec (.columnChunk p j.id) s = .next t ∧ t.job? (p / 32) j.id = some k ∧ t.ctx? p = some d ∧ k.fault = none ∧ k.card = j.card ∧
    k.form = j.form ∧ k.foot = j.foot ∧ d.norm = c.norm ∧ d.scratch = c.scratch ∧ d.landings = c.landings ∧ d.sys = c.sys ∧
    (∀ n, n ≠ j.cell → d.cell n = c.cell n) ∧ PiecesOk k.run ∧ (k.phase = .draining → k.run = []) ∧ ∀ h a, standing t k.run h a = m h a

/-- A step of the job ends in a fault, with a code, a subcode and TVAL; what it has written remains (R238). -/
def StepFaults (s : State) (p : Nat) (j : Job) (code sub : BitVec 8) (x : U64) : Prop :=
  ∃ t k, exec (.columnChunk p j.id) s = .next t ∧ t.job? (p / 32) j.id = some k ∧ k.fault = some (code, sub, x) ∧
    t.agenda = .ev (.columnJobFault p j.id) :: s.agenda ∧ t.ctx? p = s.ctx? p ∧ ∀ h a, t.homeNum h a 1 = standing s j.run h a

/-- The job has nothing more to do, this step, than to wait: neither it nor the cells change. -/
def StepWaits (s : State) (p : Nat) (j : Job) (c : Ctx) : Prop :=
  ∃ t k, StepTo s p j c t k c (standing s j.run) ∧ ∃ g, k = { j with ready := g }

/-- R233: the job goes on to the next cell of its chunk, or to its next chunk; after the last it drains. -/
def Turned (j k : Job) : Prop :=
  k.placed = false ∧ k.lines = [] ∧ k.got = [] ∧ k.ringAt = none ∧ k.sub = 0 ∧
    if j.part + 1 < j.owners.length then k.part = j.part + 1 ∧ k.pos = j.pos ∧ k.chunk = j.chunk ∧ k.phase = .running
    else k.part = 0 ∧ k.pos = j.pos + perChunk j ∧ k.chunk = [] ∧ k.phase = if k.pos < j.total then .running else .draining

/-- What a job reads of the memories (R86), and the first global region of its context that holds an address (R255). -/
def seenBy (s : State) (p : Nat) (j : Job) : Memories := fun h a => (s.readByte (p / 64) (s.jobAgent j) h a).toNat
def globalRegion (c : Ctx) (va : Nat) : Option DRegion :=
  c.adj.regions.find? fun d => d.global && decide (d.base ≤ va) && decide (va < d.base + d.len)

/-- R234: where CGATH's index for element n stands, and the global element that a fill takes as its element n. -/
def indexSpot (j : Job) (n : Nat) : Spot := ⟨BitVec.ofNat 64 (j.num 128 8 + 4 * (n / before (ext j) (dims j - 1))), false⟩
def SourceIs (s : State) (p : Nat) (j : Job) (n : Nat) (x : Spot) : Prop :=
  let w := bitsOf (globalType j)
  if j.form = 0 then x = j.spot n w
  else ∃ i : Nat, ElementIs s p (seenBy s p j) (indexSpot j n) 32 i ∧ (i : Int) < strideOf j 136 0 ∧
    x = bitPlace (j.num 24 8) (offsetOf (ext j) (strideOf j 64) (dims j - 1) n + i * strideOf j 64 (dims j - 1)) w

/-- R234, R255: what a fill takes as its element n: nothing inside a global region of a REV context, which must be of the region's type. -/
def Fetches (s : State) (p : Nat) (j : Job) (c : Ctx) (n : Nat) (y : Option Nat) : Prop :=
  ∃ x, SourceIs s p j n x ∧
    match (if j.rev = true ∧ j.form = 0 then globalRegion c x.va.toNat else none) with
    | some d => y = none ∧ globalType j = adjCode d.ew
    | none => ∃ u v, ElementIs s p (seenBy s p j) x (bitsOf (globalType j)) u ∧ Converted j (globalType j) (towerType j) u v ∧ y = some v

/-- R234, R238, R255: it cannot be taken, and the job faults. -/
def FetchFails (s : State) (p : Nat) (j : Job) (c : Ctx) (n : Nat) (code sub : BitVec 8) (v : U64) : Prop :=
  (j.form = 3 ∧ sub = 0#8 ∧ v = (indexSpot j n).va ∧ Denied s p .read v 4 code) ∨
  (j.form = 3 ∧ (∃ i : Nat, ElementIs s p (seenBy s p j) (indexSpot j n) 32 i ∧ strideOf j 136 0 ≤ (i : Int)) ∧ code = 0x01#8 ∧ sub = 0x08#8 ∧
    v = BitVec.ofNat 64 (n / before (ext j) (dims j - 1))) ∨
  ∃ x, SourceIs s p j n x ∧
    match (if j.rev = true ∧ j.form = 0 then globalRegion c x.va.toNat else none) with
    | some d => globalType j ≠ adjCode d.ew ∧ code = 0x01#8 ∧ sub = 0x09#8 ∧ v = j.cardAddr
    | none => sub = 0#8 ∧ v = x.va ∧ Denied s p .read v ((bitsOf (globalType j) + 7) / 8) code

/-- R19, R233: the lines of the chunk in hand, from a place on: its elements packed, padded with zeros; no byte of elements that were not
taken is written. -/
def Packed (j : Job) (at_ : Nat → Nat) (ys : List (Nat × Line × BitVec 64)) : Prop :=
  let w := bitsOf (towerType j)
  ys.length = chunkSize j / 64 ∧ ∀ l, l < ys.length →
    let y := ys.getD l (0, 0#512, 0#64)
    y.1 = at_ l ∧ (∀ b, b < 512 → y.2.1.getLsbD b =
        (((j.chunk.getD ((512 * l + b) / w) (some 0)).getD 0).testBit ((512 * l + b) % w))) ∧
      ∀ q, q < 64 → (y.2.2.getLsbD q = true ↔ ∃ b, b < 8 ∧ j.chunk.getD ((512 * l + 8 * q + b) / w) (some 0) ≠ none)

/-- R239: a job lets a later one of its sheet start. -/
def Lets (i j : Job) : Prop :=
  match i.phase with
  | .action => True
  | .running | .draining => ¬ Conflicts i j
  | .matched => i.stream ≠ j.stream ∧ ¬ Conflicts i j
  | .waiting | .card => False

end Sys2Proof.Claims

/-- R90, R92, R229, R233 to R239, R255: a job begins after the accesses of its context that came before it; it starts when no earlier job of
its sheet is left that conflicts with it or stands before it in its stream. Its elements lie where the walks of its card say. A fill reads
its elements, converts and packs them and writes the lines to its cells, or to the next slot of a ring, which it waits for; CGATH takes the
rows that its list names. A drain reads its lines in free bank cycles, of a ring once its position is published and has arrived, which it
then pops; the elements are stored (twice by CPAIR), reduced into memory, or given to the update stage. CCOPY reads and stores. In REV mode
a CFILL adds the adjoints of the elements of a global region to the region's shadow and clears them. A job that has drained retires, sets the
JOB latch, and its completion action adds to the flag that its card names and to no other; a job's fault abandons it and traps its
context with queue 3 in CAUSE, is deferred in trap context, or ends its COPY packet with status 8.
The model's own: the order of jobs by their footprints and what a job must wait for (log entry 71), one element after another (29), which
fault goes first (81), the wait at an unconfigured ring (82), lines without a byte (83), pieces that leave when they are full (86), two
lines a cycle for a column (87), what a job's reads leave in the sheet cache (95), the moments that UPD.op does not use (108), slots of
another size under a drain (109), and that every time between two steps is free (7). -/
def Obligations.ColumnJobsRunAndEnd : Prop :=
  (∀ (s : State) (p : Nat) (j : Job) (c : Ctx), Engaged s p j c →
    (j.phase = .waiting → (∃ a ∈ c.glob.queue, HoldsJob c j a) → exec (.columnJobStart p j.id) s = .next s) ∧
    (j.phase = .waiting → (∀ a ∈ c.glob.queue, ¬ HoldsJob c j a) → exec (.columnJobStart p j.id) s =
      .next (s.putJob (p / 32) { j with phase := .card })) ∧
    (∀ xs ys, j.phase = .matched → (s.sheet (p / 32)).jobs = xs ++ j :: ys → (∀ i ∈ xs, i.id ≠ j.id) →
      ((∀ i ∈ xs, Lets i j) → exec (.columnJobStart p j.id) s = .next (s.putJob (p / 32) { j with phase := .running, ready := s.gcyc + 1 })) ∧
      ((∃ i ∈ xs, ¬ Lets i j) → exec (.columnJobStart p j.id) s = .next s)) ∧
    (j.phase = .draining → j.acks ≠ 0 → exec (.columnJobRetire p j.id) s = .next s) ∧
    (j.phase = .draining → j.acks = 0 → ∃ (t : State) (d : Ctx), exec (.columnJobRetire p j.id) s = .next t ∧
      t.ctx? p = some d ∧ d.jobs = c.jobs - 1 ∧ d.revJobs = (if j.rev = true then c.revJobs - 1 else c.revJobs) ∧
      d.trapJobs = (if j.trap = true then c.trapJobs - 1 else c.trapJobs) ∧ d.latch = { c.latch with job := true } ∧ d.cells = c.cells ∧
      d.norm = c.norm ∧
      (j.acts = false → t.job? (p / 32) j.id = none) ∧
      (j.acts = true → ∃ k, t.job? (p / 32) j.id = some k ∧ k.phase = .action)) ∧
    (j.phase = .action → j.ready ≤ s.gcyc → Store.wf (s.sheet c.flagHome).flags = true → ∃ t : State,
      exec (.columnJobRetire p j.id) s = .next t ∧ t.job? (p / 32) j.id = none ∧ t.ctxs = s.ctxs ∧
      ∀ f, t.flag c f = if f = j.done 0 8 then s.flag c f + BitVec.ofNat 32 (j.done 32 32) else s.flag c f) ∧
    (∀ (code sub : BitVec 8) (x : U64), j.fault = some (code, sub, x) → code ≠ 0x10#8 → c.outbox = [] →
      let cause := 2 ^ 20 + 3 * 2 ^ 16 + 256 * sub.toNat + code.toNat
      let leaves (r : Ctx → Prop) : Prop := ∃ (t : State) (d : Ctx), exec (.columnJobFault p j.id) s = .next t ∧
        t.job? (p / 32) j.id = none ∧ t.ctx? p = some d ∧ d.jobs = c.jobs - 1 ∧ r d
      (c.trap.tctx = false → c.preempt.stop = .none → leaves fun d => d.trap.tctx = true ∧ d.trap.cause.toNat = cause ∧ d.trap.tval = x) ∧
      (c.trap.tctx = true → c.trap.deferred = none → leaves fun d => ∃ e, d.trap.deferred = some e ∧ e.cause.toNat = cause ∧ e.tval = x ∧
        d.trap.cause = c.trap.cause ∧ d.issue = c.issue)) ∧
    (j.fault = none → exec (.columnJobFault p j.id) s = .next s)) ∧
  (∀ (s : State) (p : Nat) (j : Job) (q : Packet), s.job? (p / 32) j.id = some j → j.panel = none → j.packet = some q.id →
    s.packet? q.id = some q → q.result = none →
    (∀ (code sub : BitVec 8) (x : U64), j.fault = some (code, sub, x) →
      ∃ (t : State) (y : Packet), exec (.columnJobFault p j.id) s = .next t ∧ t.job? (p / 32) j.id = none ∧
        t.packet? q.id = some y ∧ y.result = some (8, code.toNat, 0, 0)) ∧
    (j.phase = .draining → j.acks = 0 → ∃ (t : State) (y : Packet), exec (.columnJobRetire p j.id) s = .next t ∧ t.job? (p / 32) j.id = none ∧
      t.packet? q.id = some y ∧ y.result = some (0, 0, 0, 0))) ∧
  (∀ j : Job, j.packet = none → (towerType j).toNat < 14 →
    (∀ n w, j.spot n w = bitPlace (j.num 24 8) (offsetOf (ext j) (strideOf j 64) (dims j) n) w ∧
      j.spot2 n w = bitPlace (j.num 128 8) (offsetOf (ext j) (strideOf j 136) (dims j) n) w ∧
      j.spot3 n w = bitPlace (j.num 200 8) (offsetOf (ext j) (strideOf j 136) (dims j) n) w) ∧ j.total = before (ext j) (dims j) ∧
    let cells := (List.range 16).filter fun n => (j.num 16 8).testBit n
    let offset := j.num 16 8 / 2 ^ 21 % 2 ^ 23
    let n := j.pos / perChunk j
    j.cell = j.owners.getD j.part 0 ∧
    ((j.num 16 8).testBit 16 = true → cells ≠ [] →
      j.owners = [cells.getD (n % cells.length) 0] ∧ j.towerAt = (offset + n / cells.length * chunkSize j) % 2 ^ 23) ∧
    ((j.num 16 8).testBit 16 = false → j.owners = cells ∧ j.towerAt = (offset + n * chunkSize j) % 2 ^ 23)) ∧
  (∀ (s : State) (p : Nat) (j : Job) (c : Ctx), Steps s p j c →
    let here := standing s j.run
    let len := j.chunk.length
    let x := c.cell j.cell
    let r := x.ring j.ringNo
    let w := bitsOf (towerType j)
    let wg := bitsOf (globalType j)
    let tower (a : Nat) : Byte := Store.get x.tower a
    let free (a : Nat) : Prop := c.transferFree (s.env p) j.cell a = true
    let fills : Prop := j.form = 0 ∨ j.form = 3
    let drains : Prop := j.form = 1 ∨ j.form = 2 ∨ j.form = 5
    -- R234: a fill reads elements of its chunk
    (∀ (y : Nat → Option Nat) (m : Nat), fills → j.run = [] → len ≤ m → (∀ i, len ≤ i → i < m → Fetches s p j c (j.pos + i) (y i)) →
      (len < m → m = chunkNow j → ∃ t k, StepTo s p j c t k c here ∧ k.pos = j.pos ∧ k.part = j.part ∧ k.sub = 0 ∧ k.placed = j.placed ∧
        k.phase = .running ∧ k.chunk = j.chunk ++ (List.range (m - len)).map fun i => y (len + i)) ∧
      (m < chunkNow j → ∀ code sub v, FetchFails s p j c (j.pos + m) code sub v → StepFaults s p j code sub v)) ∧
    -- R233: its chunk is packed, for a tower offset or for the next slot of a ring
    (fills → len = chunkNow j → j.placed = false → (∀ y ∈ j.chunk, y ≠ none) ∨ len ≤ j.sub →
      let takes (d : Ctx) (at_ : Nat → Nat) : Prop := ∃ t k, StepTo s p j c t k d here ∧ Packed j at_ k.lines ∧
        ∃ g, k = { j with placed := true, lines := k.lines, ready := g }
      (j.toRing = false → takes c fun l => (j.towerAt + 64 * l) % 2 ^ 23) ∧
      (j.toRing = true → r.conf = false ∨ r.count ≤ (r.nexttag - r.head).toNat → StepWaits s p j c) ∧
      (j.toRing = true → r.conf = true → (r.nexttag - r.head).toNat < r.count →
        (chunkSize j ≠ 64 * r.size → StepFaults s p j 0x01#8 0x08#8 j.cardAddr) ∧
        (chunkSize j = 64 * r.size → ∃ d : Ctx, takes d (fun l => (r.base + 64 * r.size * r.fslot + 64 * l) % 2 ^ 23) ∧
          d.cell j.cell = x.setRing j.ringNo { r with
            claimed := if r.nexttag = r.claimed then r.claimed + 1#32 else r.claimed
            nexttag := r.nexttag + 1#32
            fslot := (r.fslot + 1) % max 1 r.count
            fills := r.fills ++ [⟨r.nexttag, r.fslot, some j.fillOrd, [], none, false⟩] }))) ∧
    -- R63, R233: its lines go to the tower; the fill of a ring is complete with the last
    (fills → len = chunkNow j → j.placed = true → j.run = [] → Store.wf x.tower = true → (∀ y ∈ j.lines, y.1 % 64 = 0 ∧ y.1 < 2 ^ 23) →
      ∃ (t : State) (k : Job) (d : Ctx) (n : Nat), StepTo s p j c t k d here ∧ n ≤ j.lines.length ∧
        (∀ a, Store.get (d.cell j.cell).tower a = linesOver tower (j.lines.take n) a) ∧
        (∀ y, j.lines.head? = some y → free y.1 → 0 < n) ∧
        (n < j.lines.length → (∀ m, (d.cell j.cell).ring m = x.ring m) ∧ ∃ g, k = { j with lines := j.lines.drop n, ready := g }) ∧
        (n = j.lines.length → Turned j k ∧ ∀ m, (d.cell j.cell).ring m = if j.toRing = true ∧ m = j.ringNo then
          { r with fills := r.fills.map fun f => if f.ord = some j.fillOrd then { f with written := some s.gcyc, lines := [] } else f }
          else x.ring m)) ∧
    -- R255: the adjoints of the elements inside global regions are added there, and cleared
    (j.form = 0 → j.rev = true → len = chunkNow j → j.placed = false → j.sub < len → none ∈ j.chunk → j.run = [] →
      let va := (j.spot (j.pos + j.sub) wg).va
      let o := (j.towerAt + j.sub * w / 8) % 2 ^ 23
      let counted (k : Job) : Prop := ∃ g, k = { j with sub := j.sub + 1, walk := k.walk, again := k.again, ready := g }
      (j.chunk.getD j.sub (some 0) ≠ none → ∃ t k, StepTo s p j c t k c here ∧ counted k) ∧
      (j.chunk.getD j.sub (some 0) = none → ∀ e, globalRegion c va.toNat = some e →
        (regionAt c o = none → StepFaults s p j 0x01#8 0x09#8 j.cardAddr) ∧
        (∀ q, regionAt c o = some q →
          let a := shadowOf q o
          let g : U64 := BitVec.ofInt 64 (e.shadow + (((va.toNat - e.base) * 4 / e.ew : Nat) : Int))
          (¬ free a → StepWaits s p j c) ∧
          (free a → a % 4 = 0 → x.badLines = [] → Store.wf x.tower = true →
            (∀ code, Denied s p .shadow g 4 code → StepFaults s p j code 0#8 g) ∧
            (∀ z pa, Granted s p .shadow g 4 pa false →
              Once (jobFtz j) (plus .rne) (numberAt here false pa 4) (numberAt (fun _ b => (tower b).toNat) false a 4) z →
              ∃ (t : State) (k : Job) (d : Ctx), StepTo s p j c t k d (storedAt here false pa 4 z) ∧ counted k ∧
                ∀ b, Store.get (d.cell j.cell).tower b = if a ≤ b ∧ b < a + 4 then 0#8 else tower b))))) ∧
    -- R68, R233: a drain takes the position of its ring
    (drains → j.got.length < chunkSize j → j.toRing = true → j.ringAt = none →
      let slot := r.hslot % max 1 r.count
      let tag := r.tags.getD slot 0#32
      (r.conf = false ∨ r.tail = r.head → StepWaits s p j c) ∧
      (r.conf = true → r.tail ≠ r.head →
        (tag = r.head → ∃ t k, StepTo s p j c t k c here ∧ ∃ g, k = { j with ringAt := some (r.head, slot), ready := g }) ∧
        (tag ≠ r.head → tag = r.head - BitVec.ofNat 32 r.count → StepWaits s p j c) ∧
        (tag ≠ r.head → tag ≠ r.head - BitVec.ofNat 32 r.count → StepFaults s p j 0x06#8 0#8 (tag ++ r.head)))) ∧
    -- R63, R233: it reads up to two lines
    (∀ q, drains → j.got.length < chunkSize j → j.got.length % 64 = 0 → (j.toRing = true → j.ringAt = some q) →
      let at_ (l : Nat) : Nat := (if j.toRing = true then r.base + 64 * r.size * q.2 + 64 * l else j.towerAt + 64 * l) % 2 ^ 23
      let l := j.got.length / 64
      (x.badLines = [] → ∃ (t : State) (k : Job) (d : Ctx) (n : Nat), StepTo s p j c t k d here ∧ d.cells = c.cells ∧ n ≤ 2 ∧
        (∃ g, k = { j with got := k.got, ready := g }) ∧ k.got.length = j.got.length + 64 * n ∧ k.got.length ≤ chunkSize j ∧
        (∀ i, i < j.got.length → k.got.getD i 0#8 = j.got.getD i 0#8) ∧
        (∀ i, j.got.length ≤ i → i < k.got.length → k.got.getD i 0#8 = tower ((at_ (i / 64) + i % 64) % 2 ^ 23)) ∧ (free (at_ l) → 0 < n)) ∧
      (free (at_ l) → at_ l % 64 = 0 → at_ l ∈ x.badLines →
        StepFaults s p j 0x10#8 0#8 (BitVec.ofNat 64 (2 ^ 62 + j.cell * 2 ^ 56 + at_ l)))) ∧
    -- R233, R243: it pops the position
    (drains → chunkSize j ≤ j.got.length → j.toRing = true → j.ringAt ≠ none →
      (r.tail ≠ r.head → ∃ (t : State) (k : Job) (d : Ctx), StepTo s p j c t k d here ∧ (∃ g, k = { j with ringAt := none, ready := g }) ∧
        (d.cell j.cell).tower = x.tower ∧ (∀ m, m ≠ j.ringNo → (d.cell j.cell).ring m = x.ring m) ∧
        let y := (d.cell j.cell).ring j.ringNo
        y.head = r.head + 1#32 ∧ y.hslot = (r.hslot + 1) % max 1 r.count ∧ y.tail = r.tail ∧ y.tags = r.tags ∧ y.claimed = r.claimed ∧
          y.nexttag = r.nexttag) ∧
      (r.tail = r.head → r.popAt ≠ s.gcyc → StepFaults s p j 0x06#8 0#8 1#64)) ∧
    -- R92, R234 to R236: its elements leave
    (drains → chunkSize j ≤ j.got.length → j.toRing = false ∨ j.ringAt = none →
      let value (n : Nat) : Nat := natOfBytes j.got / 2 ^ (w * (n - j.pos)) % 2 ^ w
      let at_ := (j.spot (j.pos + j.sub) wg).va
      (j.sub < chunkNow j → (j.form = 5 → j.run = []) → Current s p j → ∀ m,
        InOrder (Leaves s p j value) (j.pos + j.sub) (chunkNow j - j.sub) here m → ∃ t k, StepTo s p j c t k c m ∧ k.sub = chunkNow j ∧
          k.pos = j.pos ∧ k.part = j.part ∧ k.got = j.got ∧ k.ringAt = j.ringAt ∧ k.phase = .running) ∧
      (j.sub < chunkNow j → j.form ≠ 5 → (j.num 0 8).testBit 18 = false → ∀ code, Denied s p .write at_ ((wg + 7) / 8) code →
        StepFaults s p j code 0#8 at_) ∧
      (j.sub < chunkNow j → j.form = 5 → ∀ code, Denied s p .reduce at_ 4 code → StepFaults s p j code 0#8 at_) ∧
      (chunkNow j ≤ j.sub → ∃ t k, StepTo s p j c t k c here ∧ Turned j k)) ∧
    -- R234: a copy
    (j.form = 4 → j.sub < chunkNow j →
      (∀ m, Current s p j → InOrder (Leaves s p j fun _ => 0) (j.pos + j.sub) (chunkNow j - j.sub) here m → ∃ t k, StepTo s p j c t k c m ∧
        k.sub = 0 ∧ k.pos = j.pos + perChunk j ∧ k.phase = if k.pos < j.total then .running else .draining) ∧
      (∀ code, Denied s p .read (j.spot (j.pos + j.sub) wg).va ((wg + 7) / 8) code →
        StepFaults s p j code 0#8 (j.spot (j.pos + j.sub) wg).va)))

/-- R86, R387 to R392, R394 to R397: a write applied to a view is read there by every agent, and the homes do not change. A walk goes
from the root down through the entries in HBM; a leaf that it finds, cached or read, translates the access or refuses it with PROTECTION,
and a leaf that was read stays in the sheet's unit; an invalid entry refuses the access with TRANSLATION, and its level and address are
recorded; at an entry that is not present a panel that holds under code 0x03 posts a notice to the driver, and one that does not hold
waits; a job stalls. The driver's reply 1 makes the steward walk again, where an entry still not present is a refusal; another reply, or
none within FAULTLIM, refuses the access, or the column job, with TRANSLATION. An invalidation drops the entries of its table, all or those
of its range; an invalid KIND, START or LENGTH drops all of the table and is recorded; and DONESEQ follows.
The model's own: an entry with TABLE at level 3 is invalid (log entry 25), how the recorded place of an invalid entry is packed (111), the
class of the record of an invalid request (67), the order in which misses are served (89), and what an invalidation spreads (90). -/
def Obligations.ViewsAndTranslation : Prop :=
  (∀ (s : State) (x : GWrite) (v : Nat), Sane s → s.writes = [x] → v < 5 → x.views.getLsbD v = false →
    ∃ t : State, exec (.writeAppliedToView x.id v) s = .next t ∧ t.ctxs = s.ctxs ∧ (∀ h b, t.homeNum h b 1 = s.homeNum h b 1) ∧
      ∀ me h b, t.readByte v me h b =
        if h = x.onHost ∧ x.addr ≤ b ∧ b < x.addr + x.data.length then x.data.getD (b - x.addr) 0#8 else s.readByte v me h b) ∧
  (∀ (s : State) (p k pa : Nat) (c : Ctx) (a : GAccess) (leaf : U64), s.ctx? p = some c → s.access? p k = some a →
    (a.walk = .walking ∨ a.walk = .posting) → Cached s (p / 32) false a.va.toNat pa leaf → ∃ d : Ctx, exec (.pageWalk p k) s = goesTo s d ∧
      d.norm = c.norm ∧ d.cells = c.cells ∧ d.landings = c.landings ∧ ∀ b ∈ d.glob.queue, b.id = a.id → Decides a pa leaf b.walk) ∧
  (∀ (s : State) (p k : Nat) (c : Ctx) (a : GAccess), s.ctx? p = some c → s.access? p k = some a →
    (a.walk = .walking ∨ a.walk = .posting) → Missed s (p / 32) a.va.toNat → p < 256 →
    let va := a.va.toNat
    let walks (t : State) (d : Ctx) (w : Walk → Prop) : Prop := exec (.pageWalk p k) s = .next t ∧ t.ctx? p = some d ∧
      d.norm = c.norm ∧ d.cells = c.cells ∧ d.landings = c.landings ∧ ∀ b ∈ d.glob.queue, b.id = a.id → w b.walk
    (∀ size pa leaf, Finds s (p / 32) va size pa leaf → ∃ (t : State) (d : Ctx), walks t d (Decides a (pa + va % size) leaf) ∧
      t.hbm = s.hbm ∧ t.writes = s.writes ∧ t.fleet = s.fleet ∧ (⟨false, va / size * size, size, pa, leaf⟩ : TlbEntry) ∈ (t.sheet (p / 32)).tlb) ∧
    (∀ level place, Invalid s (p / 32) va level place → ∃ (t : State) (d : Ctx), walks t d (· = .refused 0x04#8) ∧
      t.fleet.notices = s.fleet.notices ∧ t.sheets = s.sheets ∧ t.fleet.log = s.fleet.log ++
        [(s.gcyc, { cls := 8, scope := 1, sheet := p / 32, detail := BitVec.ofNat 64 (level * 2 ^ 56 + place), place := p / 32 * 2 ^ 24 })]) ∧
    (∀ level, Absent s (p / 32) va level → ¬ Serves c a → ∃ d, exec (.pageWalk p k) s = goesTo s d ∧ d.norm = c.norm ∧
      ∀ b ∈ d.glob.queue, b.id = a.id → b.walk = .posting) ∧
    (∀ level, Absent s (p / 32) va level → Serves c a → s.fleet.notices = [] →
      ∃ (t : State) (d : Ctx) (n : Notice), walks t d (· = .notice s.fleet.ntail) ∧ t.fleet.notices = [n] ∧
        t.fleet.ntail = s.fleet.ntail + 1 ∧ t.outputs = s.outputs ++ [.msix 64] ∧ n.number = s.fleet.ntail ∧ n.va = a.va ∧
        (∀ sg, a.kind = .load sg → n.access = 0) ∧ (a.kind = .store → n.access = 1) ∧ (∀ op, a.kind = .atomic op → n.access = 2) ∧
        n.panel = p % 32 ∧ n.sheet = p / 32 ∧ n.level = level ∧ n.posted = true ∧ n.expired = false ∧
        n.deadline = s.gcyc + s.settings.faultlim)) ∧
  (∀ (s : State) (n : Notice) (c : Ctx) (a : GAccess), s.fleet.notices = [n] → n.posted = true → n.expired = false → s.ctxs = [c] →
    c.glob.queue = [a] → a.walk = .notice n.number →
    let reply := s.stewardRead (0x2100 + 32 * (n.number % 64) + 24) 8
    let answered (t : State) (w : Walk) : Prop := ∃ d, t.ctxs = [d] ∧ d.glob.queue = [{ a with walk := w }] ∧ d.norm = c.norm
    (reply = 0 → exec (.noticeReply n.number) s = .next s) ∧
    (2 ≤ reply → ∃ t : State, exec (.noticeReply n.number) s = .next t ∧ t.fleet.notices = [] ∧ answered t (.refused 0x04#8)) ∧
    (reply = 1 → ∀ pa leaf, Cached s (c.id.panel / 32) false a.va.toNat pa leaf → ∃ (t : State) (w : Walk),
      exec (.noticeReply n.number) s = .next t ∧ t.fleet.notices = [] ∧ Decides a pa leaf w ∧ answered t w) ∧
    (reply = 1 → ∀ size pa leaf, Missed s (c.id.panel / 32) a.va.toNat → Finds s (c.id.panel / 32) a.va.toNat size pa leaf →
      ∃ (t : State) (w : Walk), exec (.noticeReply n.number) s = .next t ∧ t.fleet.notices = [] ∧
        Decides a (pa + a.va.toNat % size) leaf w ∧ answered t w) ∧
    (reply = 1 → ∀ level, Missed s (c.id.panel / 32) a.va.toNat → Absent s (c.id.panel / 32) a.va.toNat level →
      ∃ t : State, exec (.noticeReply n.number) s = .next t ∧ t.fleet.notices = [] ∧ answered t (.refused 0x04#8)) ∧
    (s.gcyc < n.deadline → exec (.faultlimExpiry n.number) s = .next s) ∧
    (n.deadline ≤ s.gcyc → ∃ t : State, exec (.faultlimExpiry n.number) s = .next t ∧ answered t (.refused 0x04#8) ∧
      t.fleet.notices = [{ n with expired := true }])) ∧
  (∀ (s : State) (n : Notice) (sh : Nat) (j : Job), s.fleet.notices = [n] → n.posted = true → n.expired = false → sh < 8 →
    j ∈ (s.sheet sh).jobs → j.walk = .notice n.number →
    let reply := s.stewardRead (0x2100 + 32 * (n.number % 64) + 24) 8
    (reply = 1 → ∃ t : State, exec (.noticeReply n.number) s = .next t ∧
      { j with walk := .walking, again := true } ∈ (t.sheet sh).jobs) ∧
    (2 ≤ reply → ∃ t : State, exec (.noticeReply n.number) s = .next t ∧
      { j with walk := .refused 0x04#8, again := false } ∈ (t.sheet sh).jobs) ∧
    (n.deadline ≤ s.gcyc → ∃ t : State, exec (.faultlimExpiry n.number) s = .next t ∧
      { j with walk := .refused 0x04#8, again := false } ∈ (t.sheet sh).jobs)) ∧
  (∀ (s : State) (p k : Nat) (j : Job), s.job? (p / 32) j.id = some j → j.walk = .notice k →
    exec (.columnChunk p j.id) s = .next s ∧ (j.phase = .card → exec (.columnJobStart p j.id) s = .next s)) ∧
  (∀ (s : State) (p : Nat) (j : Job), s.job? (p / 32) j.id = some j → j.phase = .card → j.ready ≤ s.gcyc → j.card = [] →
    j.cardAddr.toNat < 2 ^ 56 → isLocal j.cardAddr = false → j.walk = .refused 0x04#8 →
    j.asked.toNat / 65536 = j.cardAddr.toNat / 65536 → j.fault = none →
    ∃ (t : State) (k : Job), exec (.columnJobStart p j.id) s = .next t ∧ t.job? (p / 32) j.id = some k ∧
      k.fault = some (0x04#8, 0#8, j.cardAddr) ∧ t.agenda = .ev (.columnJobFault p j.id) :: s.agenda) ∧
  (∀ s : State, Sane s → s.fleet.inval = none → s.stewardRead 0x2000 8 ≠ s.fleet.doneSeq.toNat →
    (∀ k, k < 8 → ∀ j ∈ (s.sheet k).jobs, j.run = []) →
    let kind := s.stewardRead 0x2010 8
    let start := s.stewardRead 0x2018 8
    let len := s.stewardRead 0x2020 8
    let drops (kept : TlbEntry → Bool) (log : List (Nat × ErrorEvent) → Prop) : Prop :=
      ∃ t : State, exec .tlbInvalidation s = .next t ∧ (∃ ids, t.fleet.inval = some (BitVec.ofNat 64 (s.stewardRead 0x2000 8), ids)) ∧
        t.ctxs = s.ctxs ∧ (∀ h b, t.homeNum h b 1 = s.homeNum h b 1) ∧ log t.fleet.log ∧
        ∀ k, k < 8 → (t.sheet k).tlb = (s.sheet k).tlb.filter kept
    let other (e : TlbEntry) : Bool := e.span != kind.testBit 2
    let range : Prop := start % 65536 = 0 ∧ len % 65536 = 0 ∧ 0 < len ∧ start + len ≤ 2 ^ 56
    (kind = 0 ∨ kind = 4 → drops other (· = s.fleet.log)) ∧
    (kind = 1 ∨ kind = 5 → range →
      drops (fun e => other e || decide (e.va + e.size ≤ start) || decide (start + len ≤ e.va)) (· = s.fleet.log)) ∧
    ((kind = 1 ∨ kind = 5) ∧ ¬ range ∨ kind = 2 ∨ kind = 3 ∨ 6 ≤ kind → drops other fun l => ∃ cls, cls < 11 ∧
      l = s.fleet.log ++ [(s.gcyc, { cls := cls, scope := 0, detail := BitVec.ofNat 64 kind })])) ∧
  (∀ s : State, s.fleet.inval = none → s.stewardRead 0x2000 8 = s.fleet.doneSeq.toNat → exec .tlbInvalidation s = .next s) ∧
  (∀ (s : State) (x : U64), Sane s → s.fleet.inval = some (x, []) → ∃ t : State, exec .tlbInvalidation s = .next t ∧
    t.fleet.inval = none ∧ t.fleet.doneSeq = x ∧ t.sheets = s.sheets ∧ Stores s t false 0x2008 (bytesOfNat 8 x.toNat))

/-! The host interface (R355 to R370). -/

/-- R355, R356, R359, R363, R372: registers and queues. A BAR0 access of a width other than 8, or to a place that is none, changes
nothing; HWIN and QBASE take what is written, QBASE while its queue is disabled; a kick moves QTAIL forward, and one of a disabled or
device-fed queue or beyond the queue's size is refused in QSTAT; EN is set when the features are offered and nothing is under way and
else FEATERR; clearing it stops the readers that have begun no packet; RESET unbinds every task and begins a boot; QCTL.EN is refused with
CFGERR or begins at counts of 0; QSTAT's bits clear by writing ones; SPANCFG takes a table's address, and with APPLY = 1 asks for the table.
The model's own: that RESET keeps the contents of HBM, of host memory and of the flash (log entry 69). -/
def Obligations.HostRegistersAndQueues : Prop :=
  (∀ (s : State) (off size : Nat) (v : U64), size ≠ 8 ∨ off % 8 ≠ 0 ∨ (0x110 ≤ off ∧ off < 0x10000) ∨ 0x11000 ≤ off →
    exec (.hostRegisterWrite off size v) s = .next s) ∧
  (∀ (s : State) (v : U64), exec (.hostRegisterWrite 0x108 8 v) s = .next
    (if v.toNat < 2 ^ 56 ∧ v.toNat % 2 ^ 16 = 0 ∧ v.toNat % 2 ^ s.bar0.bar2Log = 0 then { s with bar0 := { s.bar0 with hwin := v } } else s)) ∧
  (∀ (s : State) (k : Nat) (v : U64), k < 64 → exec (.hostRegisterWrite (0x10000 + 64 * k) 8 v) s =
    .next (if bit (s.queue k).ctl 0 then s else s.putQueue k { (s.queue k) with base := v })) ∧
  (∀ (s : State) (k : Nat) (v : U32), k < 64 → ∃ t : State, exec (.kick k v) s = .next t ∧ t.ctxs = s.ctxs ∧
    let q := s.queue k
    let r := t.queue k
    (bit q.ctl 0 = false → r = { q with stat := q.stat ||| 2#4 }) ∧
    (bit q.ctl 0 = true → bit q.ctl 2 = true → r = { q with stat := q.stat ||| 8#4 }) ∧
    (bit q.ctl 0 = true → bit q.ctl 2 = false → 2 ^ (q.ctl.toNat / 16 % 16 + 4) < (v - q.head).toNat →
      r = { q with stat := q.stat ||| 2#4 }) ∧
    (bit q.ctl 0 = true → bit q.ctl 2 = false → (v - q.head).toNat ≤ 2 ^ (q.ctl.toNat / 16 % 16 + 4) →
      r.tail = (if 0 < (v - q.tail).toNat ∧ (v - q.tail).toNat < 2 ^ 31 then v else q.tail) ∧ r.head = q.head ∧ r.stat = q.stat ∧
      (s.bar0.en = true → r.head ≠ r.tail → r.reader ≠ .asleep))) ∧
  (∀ s : State, s.bar0.en = false → ∃ t : State, exec .deviceEnable s = .next t ∧ t.packets = s.packets ∧ t.ctxs = s.ctxs ∧
    (s.bar0.ready = true → s.bar0.featacc0.toNat < 128 → s.bar0.featacc1 = 0#64 → s.packets = [] →
      t.bar0 = { s.bar0 with en := true, featerr := false, feats := s.bar0.featacc0 }) ∧
    (s.bar0.ready = false ∨ 128 ≤ s.bar0.featacc0.toNat ∨ s.bar0.featacc1 ≠ 0#64 ∨ s.packets ≠ [] →
      t.bar0 = { s.bar0 with featerr := true })) ∧
  (∀ s : State, ∃ t : State, exec .deviceDisable s = .next t ∧ t.bar0 = { s.bar0 with en := false } ∧ t.ctxs = s.ctxs ∧
    t.packets = s.packets ∧ ∀ k g, k < 64 → (s.queue k).reader = .reading 0 g →
      ((s.queue k).matched = none → (s.queue k).asked = none → (t.queue k).reader = .asleep) ∧
      ((s.queue k).matched ≠ none ∨ (s.queue k).asked ≠ none → t.queue k = s.queue k)) ∧
  (∀ s : State, Sane s → ∃ t : State, exec .packageReset s = .next t ∧ t.ctxs = [] ∧ t.packets = [] ∧ t.images = [] ∧
    t.bar0.en = false ∧ t.bar0.ready = false ∧ t.flash = s.flash ∧ t.boot.bootno = s.boot.bootno + 1 ∧ t.writes = [] ∧
    (∀ k, k < 64 → t.queue k = {}) ∧ (∀ h b, t.homeNum h b 1 = s.homeNum h b 1)) ∧
  (∀ (s : State) (k : Nat) (v : U64) (pa : Nat) (leaf : U64), k < 64 → bit (s.queue k).ctl 0 = false →
    Cached s 0 false (s.queue k).base.toNat pa leaf →
    let good : Prop := v.toNat < 256 ∧ v.toNat / 16 < 12 ∧ bit v 3 = false ∧ (s.queue k).base.toNat % 64 = 0 ∧
      (bit v 2 = true → bit s.bar0.featacc0 2 = true ∧ bit leaf 4 = false) ∧ (bit leaf 4 = true ∨ bit s.bar0.featacc0 1 = true)
    ∃ t : State, exec (.queueEnable k v) s = .next t ∧
      (good → t.queue k = { (s.queue k) with
        ctl := v ||| 1#64, head := 0#32, tail := 0#32, reader := .asleep, asked := none, matched := none, launchers := [] }) ∧
      (¬ good → bit (t.queue k).ctl 0 = false ∧ (t.queue k).stat = (s.queue k).stat ||| 4#4 ∧ (t.queue k).base = (s.queue k).base)) ∧
  (∀ (s : State) (k : Nat) (v : U64), k < 64 → bit (s.queue k).ctl 0 = true → exec (.queueEnable k v) s = .next s ∧
    ∃ t : State, exec (.queueDisable k v) s = .next t ∧ (t.queue k).ctl = (s.queue k).ctl &&& ~~~1#64 ∧
      (t.queue k).head = (s.queue k).head ∧
      (∀ g, (s.queue k).reader = .reading 0 g → (t.queue k).reader =
        if (s.queue k).matched = none ∧ (s.queue k).asked = none then .asleep else .reading 0 g) ∧
      (∀ n g, (s.queue k).reader = .reading (n + 1) g → (t.queue k).reader = .reading (n + 1) g)) ∧
  (∀ (s : State) (k : Nat) (v : U64), k < 64 → ∃ t : State, exec (.qstatClear k v) s = .next t ∧
    t.queue k = { (s.queue k) with stat := (s.queue k).stat &&& ~~~(v.setWidth 4) } ∧
    ∀ j, j < 64 → j ≠ k → t.queue j = s.queue j) ∧
  (∀ (s : State) (v : U64),
    let taken (on : Bool) : State :=
      if v.toNat < 2 ^ 56 ∧ v.toNat % 64 ≤ 1 then { s with bar0 := { s.bar0 with spanTable := v &&& ~~~1#64, applying := on } } else s
    exec (.hostRegisterWrite 0x100 8 v) s = .next (taken (s.bar0.applying || bit v 0)) ∧
      (bit v 0 = true → exec (.spancfgApply v) s = .next (taken true)))

namespace Sys2Proof.Claims

/-- The mailbox request that is under way: the one whose work waits for a page, or else the one that stands in the mailbox and has not
been answered (R421). -/
def Requested (s : State) (r : MailRequest) : Prop :=
  let field (k : Nat) : Nat := s.stewardRead (s.fleet.page + 0xC000 + k) 8
  s.fleet.mail = some r ∨
    (s.fleet.mail = none ∧ r = { seq := field 0x18, op := field 0, arg0 := field 8, arg1 := field 0x10 } ∧ r.seq ≠ field 0x20)

/-- A request is answered with a status, and DONESEQ is its number. -/
def Answers (s t : State) (r : MailRequest) (status : Nat) : Prop :=
  t.homeNum false (s.fleet.page + 0xC028) 8 = status ∧ t.homeNum false (s.fleet.page + 0xC020) 8 = r.seq % 2 ^ 64 ∧
    t.fleet.mail = none ∧ t.ctxs = s.ctxs

end Sys2Proof.Claims

/-- R357, R372, R378, R421: BAR2 and the mailbox. An access beyond the window is Unsupported Request; inside it a read returns what the
host's view holds, a write places its bytes and no other byte, and an AtomicOp returns the old value and places the new one; a valid span
table is applied, one with a field out of its range never, and none while remote traffic is under way; an undefined mailbox
operation answers with status 1 and DONESEQ = SEQ; an undefined doorbell is refused with REASON 5. -/
def Obligations.WindowSpanTableAndMailbox : Prop :=
  (∀ (s : State) (off n : Nat) (xs : List Byte) (w op : Nat) (x y : U64), 2 ^ s.bar0.bar2Log < off + n → 2 ^ s.bar0.bar2Log < off + xs.length →
    2 ^ s.bar0.bar2Log < off + w / 8 →
    exec (.bar2Read off n) s = .next { s with outputs := s.outputs ++ [.unsupported off] } ∧
    exec (.bar2Write off xs) s = .next s ∧
    exec (.bar2Atomic off w op x y) s = .next { s with outputs := s.outputs ++ [.unsupported off] }) ∧
  (∀ (s : State) (off pa : Nat) (leaf : U64), Sane s → let va := s.bar0.hwin.toNat + off
    va < 2 ^ 56 → va / 2 ^ 48 ≠ 0xFF → Cached s 0 false va pa leaf →
    (∀ n, 0 < n → off + n ≤ 2 ^ s.bar0.bar2Log → va % 65536 + n ≤ 65536 → exec (.bar2Read off n) s =
      .next { s with outputs := s.outputs ++ [.bar2Data off (s.readBytes 4 .host (bit leaf 4) pa n)] }) ∧
    (∀ xs : List Byte, xs ≠ [] → off + xs.length ≤ 2 ^ s.bar0.bar2Log → va % 65536 + xs.length ≤ 65536 → bit leaf 2 = true →
      ∃ t : State, exec (.bar2Write off xs) s = .next t ∧ t.outputs = s.outputs ∧ t.ctxs = s.ctxs ∧ Stores s t (bit leaf 4) pa xs) ∧
    (∀ (w op : Nat) (x y : U64), w = 32 ∨ w = 64 → op < 3 → bit s.bar0.feats 0 = true → off + w / 8 ≤ 2 ^ s.bar0.bar2Log →
      va % (w / 8) = 0 → bit leaf 2 = true → bit leaf 4 = false → bit leaf 6 = true →
      let old := s.homeNum false pa (w / 8)
      let new := match op with
        | 0 => (old + x.toNat) % 2 ^ w
        | 1 => x.toNat % 2 ^ w
        | _ => if old = x.toNat % 2 ^ w then y.toNat % 2 ^ w else old
      ∃ t : State, exec (.bar2Atomic off w op x y) s = .next t ∧ t.outputs = s.outputs ++ [.bar2Data off (bytesOfNat (w / 8) old)] ∧
        Stores s t false pa (bytesOfNat (w / 8) new))) ∧
  (∀ s : State, s.bar0.applying = true → s.remoteBusy = true → exec .spanTableApplied s = .next s) ∧
  (∀ s : State, s.bar0.applying = true → s.remoteBusy = false → ∃ t : State, exec .spanTableApplied s = .next t ∧
    t.bar0 = { s.bar0 with applying := false } ∧ ∀ x : SpanTable, t.spanTable = some x → s.spanTable = some x ∨
      (x.self < 4096 ∧ x.route.getD x.self 0 = 255 ∧ x.route.length = 4096 ∧ ∀ r ∈ x.route, r < 18 ∨ r = 255)) ∧
  (∀ (s : State) (pa : Nat) (leaf : U64), s.bar0.applying = true → s.remoteBusy = false →
    let va := s.bar0.spanTable.toNat
    let b (k : Nat) : Nat := s.readNum 0 .steward false (pa + k) 1
    let self := s.readNum 0 .steward false pa 8
    va < 2 ^ 56 → va / 2 ^ 48 ≠ 0xFF → va % 65536 + 36928 ≤ 65536 → Cached s 0 false va pa leaf → bit leaf 4 = false →
    self < 4096 → (∀ k, 8 ≤ k → k < 64 → b k = 0) → (∀ k, k < 4096 → b (64 + k) < 18 ∨ b (64 + k) = 255) → b (64 + self) = 255 →
    (∀ g, g < 64 → b (4160 + 512 * g + self / 8) / 2 ^ (self % 8) % 2 = 0) →
    ∃ (t : State) (x : SpanTable), exec .spanTableApplied s = .next t ∧ t.spanTable = some x ∧ x.self = self ∧
      (∀ k, k < 4096 → x.route.getD k 0 = b (64 + k)) ∧ ∀ k, k < 32768 → x.member.getD k 0 = b (4160 + k)) ∧
  (∀ (s : State) (r : MailRequest), Sane s → Requested s r → r.op = 0 ∨ 5 ≤ r.op → ∃ t : State, exec .mailboxBadop s = .next t ∧
    Answers s t r 1 ∧ t.flash = s.flash) ∧
  (∀ (s : State) (k : Nat), k < 64 → (s.slot k).op ∈ [0, 6, 7] → ∃ t : State, exec (.doorbellInvalidOp k) s = .next t ∧
    fieldOf ((t.slot k).word 0) 8 8 = 5 ∧ (t.slot k).state = (s.slot k).state ∧ (t.slot k).task = (s.slot k).task ∧ t.ctxs = s.ctxs ∧
    ∀ j, j < 64 → j ≠ k → t.slot j = s.slot j)

namespace Sys2Proof.Claims

/-- A packet may start (R365): every earlier packet of its queue is complete, or its own CONC lets it start behind those that have
started; behind a WAITVAL it waits until that is complete (R368). -/
def MayStart (s : State) (p : Packet) : Prop :=
  p.phase = .accepted ∧ p.ready ≤ s.gcyc ∧ p.result = none ∧ ∀ x ∈ s.packets, x.queue = p.queue → x.id < p.id →
    (p.conc = true ∨ x.phase = .started ∨ x.result ≠ none) ∧ (x.kind = 7 → x.result ≠ none)

/-- The packet at count k of queue q, in a package where no other packet of the kind there may start. -/
def TurnOf (s : State) (kind q k : Nat) (p : Packet) : Prop :=
  s.packet? p.id = some p ∧ p.queue = q ∧ p.count.toNat = k ∧ p.kind = kind ∧ MayStart s p ∧
    (∀ x ∈ s.packets, x.queue = q → x.count.toNat = k → x.kind = kind → MayStart s x → x = p) ∧
    (kind = 1 → ∀ x ∈ s.packets, x.queue = q → x.count.toNat = k → x.phase ≠ .object)

/-- A WAITVAL that polls, at count k of queue q. -/
def Polling (s : State) (q k : Nat) (p : Packet) : Prop :=
  let polls (x : Packet) : Prop := x.queue = q ∧ x.count.toNat = k ∧ x.kind = 7 ∧ x.phase = .started ∧ x.result = none
  s.packet? p.id = some p ∧ polls p ∧ ∀ x ∈ s.packets, polls x → x = p

/-- The matcher has room: of its 1,024 entries some are free (R376). -/
def MatcherRoom (s : State) : Prop := (s.packets.filter fun x => x.arrival.isSome && !x.retired).length < 1024

/-- An earlier entry of the matcher conflicts with a packet: they share a byte that one of them writes or reduces (R91, R377). -/
def Blocked (s : State) (p : Packet) : Prop :=
  ∃ x ∈ s.packets, ∃ a b, x.arrival = some a ∧ p.arrival = some b ∧ a < b ∧ x.retired = false ∧
    ∃ u ∈ x.foot, ∃ v ∈ p.foot, u.start < v.start + v.len ∧ v.start < u.start + u.len ∧ (u.rights ≠ 1 ∨ v.rights ≠ 1)

/-- R368, R385: the steward's pool has room for n pages of 64 KiB and for the tables that lead to them: it is made of whole pages of HBM, no two of
which are the same. -/
def Ample (s : State) (n : Nat) : Prop :=
  4 * n ≤ (s.pool.map fun r => r.2 / 65536).sum ∧ s.pool.Pairwise (fun x y => x.1 + x.2 ≤ y.1 ∨ y.1 + y.2 ≤ x.1) ∧
    ∀ r ∈ s.pool, r.1 % 65536 = 0 ∧ r.1 + r.2 ≤ 2 ^ 39

/-- The packet's effect is complete with a status, a code and a detail, and nothing else of the memories or contexts has changed. -/
def Completes (s t : State) (p : Packet) (status code detail : Nat) : Prop :=
  ∃ x, t.packet? p.id = some x ∧ x.result = some (status, code, detail, 0) ∧ t.ctxs = s.ctxs ∧ t.queues = s.queues

end Sys2Proof.Claims

/-- R358 to R361, R364: the readers. A reader makes its header read when its time has come; a header whose sequence field is not the
count's gives another read 125 ns on, and after 64 the queue is STALE and its reader sleeps; a reader that has begun no packet stops with
its queue or the package, and none reads while the matcher is full or its queue is empty; a packet whose header matches is accepted,
QHEAD moves by one, and one with a bad kind completes with BADPACKET at its field; a LAUNCH of a dead handle, or at an offset that is no
kernel's, with BADLAUNCH there, and one in order names its image. -/
def Obligations.QueueReadersAcceptPackets : Prop :=
  ∀ (s : State) (k n g : Nat), k < 64 → (s.queue k).reader = .reading n g →
    (s.gcyc < g → exec (.queueHeaderRead k) s = .next s) ∧
    (¬ MatcherRoom s ∨ (s.queue k).head = (s.queue k).tail → exec (.queueHeaderRead k) s = .next s) ∧
    (n = 0 → s.bar0.en = false ∨ bit (s.queue k).ctl 0 = false → (s.queue k).matched = none → (s.queue k).asked = none →
      exec (.queueHeaderRead k) s = .next s) ∧
    (g ≤ s.gcyc → s.bar0.en = true → bit (s.queue k).ctl 0 = true → MatcherRoom s → (s.queue k).head ≠ (s.queue k).tail →
      (s.queue k).matched = none →
      (64 ≤ n → ∃ t : State, exec (.queueHeaderRead k) s = .next t ∧ t.queue k = { (s.queue k) with
        reader := .asleep, stat := (s.queue k).stat ||| 1#4,
        stalecnt := BitVec.ofNat 32 (Nat.min ((s.queue k).stalecnt.toNat + 1) (2 ^ 32 - 1)) }) ∧
      (n < 64 → ∀ (pa : Nat) (leaf : U64),
        let va := (s.queue k).base.toNat + 64 * ((s.queue k).head.toNat % 2 ^ ((s.queue k).ctl.toNat / 16 % 16 + 4))
        va < 2 ^ 56 → va / 2 ^ 48 ≠ 0xFF → Cached s 0 false va pa leaf → (s.queue k).asked = none →
        let xs := s.readBytes 0 .steward (bit leaf 4) pa 64
        let head := natOfBytes (xs.take 2)
        (head ≠ (s.queue k).head.toNat % 65536 → ∃ t : State, exec (.queueHeaderRead k) s = .next t ∧ t.packets = s.packets ∧
          t.queue k = { (s.queue k) with reader := .reading (n + 1) (g + (525 * (n + 1) / 4 - 525 * n / 4)) }) ∧
        (head = (s.queue k).head.toNat % 65536 → xs.getD 2 0#8 ≠ 1#8 → ∃ (t : State) (p : Packet),
          exec (.queueHeaderRead k) s = .next t ∧ t.packets = s.packets ++ [p] ∧ p.queue = k ∧ p.count = (s.queue k).head ∧
          p.bytes = xs ∧ p.phase = .accepted ∧ (t.queue k).head = (s.queue k).head + 1#32 ∧ (t.queue k).tail = (s.queue k).tail ∧
          ((s.queue k).head + 1#32 = (s.queue k).tail → (t.queue k).reader = .asleep) ∧
          t.ctxs = s.ctxs ∧ t.hbm = s.hbm ∧ (xs.getD 2 0#8 = 0#8 ∨ 8#8 ≤ xs.getD 2 0#8 → p.result = some (1, 0, 2, 0))) ∧
        (let num (lo n : Nat) : Nat := natOfBytes ((xs.drop lo).take n)
         head = (s.queue k).head.toNat % 65536 → num 2 1 = 1 → num 3 1 < 4 → num 8 8 % 32 = 0 → num 32 8 = 0 → num 42 1 = 0 →
         (∀ x ∈ s.packets, x.kind = 2 → x.num 40 4 ≠ num 16 4) →
         ∃ (t : State) (p : Packet), exec (.queueHeaderRead k) s = .next t ∧ t.packets = s.packets ++ [p] ∧ p.bytes = xs ∧
           (t.queue k).head = (s.queue k).head + 1#32 ∧
           (s.image? (num 16 4) = none → p.result = some (2, 0, 16, 0)) ∧
           ∀ i, s.image? (num 16 4) = some i →
             (num 20 4 ∉ i.kernels → p.result = some (2, 0, 20, 0)) ∧
             (num 20 4 ∈ i.kernels → num 24 8 % 64 ≠ 0 ∨ 2 ^ 56 ≤ num 24 8 → p.result = some (2, 0, 24, 0)) ∧
             (num 20 4 ∈ i.kernels → num 24 8 % 64 = 0 → num 24 8 < 2 ^ 56 → s.fits (num 40 1 % 16 + 1) (num 40 1 / 16 + 1) = true →
               num 43 1 < 4 → num 48 16 = 0 → p.result = none ∧ p.phase = .accepted ∧ p.image = some i.base))))

/-- R333, R365, R366, R368, R376, R377: the packets. A LAUNCH or COPY whose turn has come enters the matcher in arrival order while it has
room, a copy with a read and a write region, and when no earlier entry conflicts its notice is posted in the eligible ring; a LAUNCH that
waited for its object's LOAD is judged when that has ended. A LOAD of a live handle by reference counts one more; a LOAD of a new object
fails with BADOBJECT, with MAPPED or with NOMEM, or leaves an image at its base under its handle; an UNLOAD waits for the earlier
launches of its queue and counts one less, and at zero the image goes; a BARRIER waits for the earlier packets of its queues; a SIGNAL
waits for those of its own and places its value, or adds it; a WAITVAL polls every microsecond until its condition holds or its time has
passed, which is TIMEOUT. With room in the steward's pool a new object is loaded: its pages are mapped with the rights of their sections and
hold its bytes.
The model's own: what a SIGNAL's release orders (log entry 32), where a LOAD takes its pages (66), and what a WAITVAL acquires (103). -/
def Obligations.PacketsTakeEffect : Prop :=
  ∀ (s : State) (q k : Nat) (p : Packet),
    (TurnOf s 1 q k p → MatcherRoom s → ∃ (t : State) (x : Packet), exec (.launchPacket q k) s = .next t ∧ t.packet? p.id = some x ∧
      x.phase = .started ∧ x.arrival = some s.arrivals ∧ x.foot = p.foot ∧ t.arrivals = s.arrivals + 1 ∧ t.ctxs = s.ctxs) ∧
    (TurnOf s 1 q k p → ¬ MatcherRoom s → exec (.launchPacket q k) s = .next s) ∧
    (s.packet? p.id = some p → p.queue = q → p.count.toNat = k → p.kind = 1 → p.phase = .object → p.result = none →
      (∀ x ∈ s.packets, x.queue = q → x.count.toNat = k → x = p) →
      (∀ x ∈ s.packets, x.id < p.id → x.kind = 2 → x.num 40 4 ≠ p.num 16 4) →
      (s.image? (p.num 16 4) = none → ∃ (t : State) (x : Packet), exec (.launchPacket q k) s = .next t ∧ t.packet? p.id = some x ∧
        x.result = some (2, 0, 16, 0)) ∧
      (∀ i, s.image? (p.num 16 4) = some i → s.launchBad p false false = none → exec (.launchPacket q k) s =
        .next (s.putPacket { p with phase := .accepted, image := some i.base }))) ∧
    (TurnOf s 5 q k p → MatcherRoom s → ∃ (t : State) (x : Packet), exec (.copyPacket q k) s = .next t ∧ t.packet? p.id = some x ∧
      x.phase = .started ∧ x.arrival = some s.arrivals ∧ t.arrivals = s.arrivals + 1 ∧
      x.foot = [⟨1, p.num 16 8, p.num 32 8⟩, ⟨2, p.num 24 8, p.num 32 8⟩]) ∧
    (s.packet? p.id = some p → p.arrival ≠ none → p.posted = false → p.result = none →
      (Blocked s p ∨ 256 ≤ s.ring.length → exec (.matcherEligible p.id) s = .next s) ∧
      (¬ Blocked s p → s.ring.length < 256 → ∃ n : RingNotice,
        exec (.matcherEligible p.id) s = .next { (s.putPacket { p with posted := true }) with ring := s.ring ++ [n] } ∧
        n.packet = p.id ∧ n.queue = p.queue ∧ n.count = p.count ∧
        (p.kind = 1 → n.prio = p.num 43 1 % 4 ∧ n.shape = p.num 40 1 ∧ n.budget = p.num 44 4) ∧
        (p.kind = 5 → n.prio = 0 ∧ n.shape = 0 ∧ n.budget = 0))) ∧
    (TurnOf s 2 q k p → p.num 44 1 = 0 →
      (∀ i, s.image? (p.num 40 4) = some i → ∃ t : State, exec (.loadPacket q k) s = .next t ∧ Completes s t p 6 0 (p.num 40 4) ∧
        t.images = s.images) ∧
      (s.image? (p.num 40 4) = none → p.asked = none → 0 < p.num 24 8 →
        (2 ^ 56 ≤ p.num 16 8 → ∃ t : State, exec (.loadPacket q k) s = .next t ∧ Completes s t p 8 4 0 ∧ t.images = s.images) ∧
        (∀ pa leaf, p.num 16 8 < 2 ^ 56 → p.num 16 8 / 2 ^ 48 ≠ 0xFF → p.num 16 8 % 65536 + p.num 24 8 ≤ 65536 →
          Cached s 0 false (p.num 16 8) pa leaf →
          let file := s.readBytes 0 .steward (bit leaf 4) pa (p.num 24 8)
          (∀ code detail, loadObject file (p.num 32 8) = .error (code, detail) → ∃ t : State, exec (.loadPacket q k) s = .next t ∧
            Completes s t p 3 code detail ∧ t.images = s.images ∧ t.hbm = s.hbm) ∧
          (∀ (l : Loaded) (n : Nat), loadObject file (p.num 32 8) = .ok l → n = l.size / 65536 →
            (0 < n → ∀ size u leaf, Finds s 0 (p.num 32 8) size u leaf → ∃ t : State, exec (.loadPacket q k) s = .next t ∧
              Completes s t p 4 0 0 ∧ t.images = s.images) ∧
            ((∀ j, j < n → ∃ level, Absent s 0 (p.num 32 8 + 65536 * j) level) →
              (0 < n → s.pool = [] → ∃ t : State, exec (.loadPacket q k) s = .next t ∧ Completes s t p 5 0 0 ∧ t.images = s.images) ∧
              (Sane s → Ample s n → (∀ r ∈ s.pool, ∀ j level u, j < n → Reaches s 0 (p.num 32 8 + 65536 * j) level u →
                  u + 8192 ≤ r.1 ∨ r.1 + r.2 ≤ u) →
                ∃ (t : State) (i : Image), exec (.loadPacket q k) s = .next t ∧ Completes s t p 0 0 0 ∧ t.images = s.images ++ [i] ∧
                  i.handle = BitVec.ofNat 32 (p.num 40 4) ∧ ∀ j, j < n → ∃ leaf : U64,
                    let pa := i.pages.getD j 0
                    let x := l.page (65536 * j)
                    Finds t 0 (p.num 32 8 + 65536 * j) (2 ^ 16) pa leaf ∧ bit leaf 2 = x.2.1 ∧ bit leaf 3 = x.2.2 ∧
                      ∀ b, b < 65536 → t.readNum 0 .steward false (pa + b) 1 = (x.1.getD b 0#8).toNat) ∧
              ∃ t : State, exec (.loadPacket q k) s = .next t ∧ ((Completes s t p 5 0 0 ∧ t.images = s.images) ∨
                (Completes s t p 0 0 0 ∧ ∃ i, t.images = s.images ++ [i] ∧ i.handle = BitVec.ofNat 32 (p.num 40 4) ∧
                  i.base = BitVec.ofNat 64 (p.num 32 8) ∧ i.size = l.size ∧ i.refs = 1 ∧ i.kernels = l.kernels ∧
                  i.pages.length = n))))))) ∧
    (TurnOf s 2 q k p → p.num 44 1 = 1 →
      (∀ i, s.image? (p.num 40 4) = some i → ∃ t : State, exec (.loadPacket q k) s = .next t ∧ Completes s t p 0 0 0 ∧
        ∀ j ∈ t.images, j.base = i.base → j.refs = i.refs + 1) ∧
      (s.image? (p.num 40 4) = none → ∃ t : State, exec (.loadPacket q k) s = .next t ∧ Completes s t p 6 0 (p.num 40 4) ∧
        t.images = s.images)) ∧
    (TurnOf s 3 q k p → (∃ x ∈ s.packets, x.queue = q ∧ x.id < p.id ∧ x.kind = 1) → exec (.unloadPacket q k) s = .next s) ∧
    (TurnOf s 3 q k p → (∀ x ∈ s.packets, x.queue = q → x.id < p.id → x.kind ≠ 1) →
      (∀ i, s.image? (p.num 16 4) = some i → i.refs = 1 → (∀ x ∈ s.packets, x.image ≠ some i.base) → ∃ t : State,
        exec (.unloadPacket q k) s = .next t ∧ Completes s t p 0 0 0 ∧ ∀ j ∈ t.images, j.base ≠ i.base) ∧
      (∀ i, s.image? (p.num 16 4) = some i → 2 ≤ i.refs → (∀ j ∈ s.images, j.refs ≠ 0) → ∃ t : State,
        exec (.unloadPacket q k) s = .next t ∧ Completes s t p 0 0 0 ∧ ∀ j ∈ t.images, j.base = i.base → j.refs = i.refs - 1) ∧
      (s.image? (p.num 16 4) = none → ∃ t : State, exec (.unloadPacket q k) s = .next t ∧ Completes s t p 6 0 (p.num 16 4))) ∧
    (TurnOf s 4 q k p →
      ((∃ x ∈ s.packets, x.id < p.id ∧ (x.queue = q ∨ p.num 16 8 / 2 ^ x.queue % 2 = 1)) → exec (.barrierPacket q k) s = .next s) ∧
      ((∀ x ∈ s.packets, x.id < p.id → x.queue ≠ q ∧ p.num 16 8 / 2 ^ x.queue % 2 = 0) → ∃ t : State,
        exec (.barrierPacket q k) s = .next t ∧ Completes s t p 0 0 0 ∧ t.hbm = s.hbm)) ∧
    (TurnOf s 6 q k p → (∃ x ∈ s.packets, x.queue = q ∧ x.id < p.id) → exec (.signalPacket q k) s = .next s) ∧
    (TurnOf s 6 q k p → (∀ x ∈ s.packets, x.queue = q → p.id ≤ x.id) → p.asked = none → p.num 32 1 < 2 → p.num 16 8 < 2 ^ 56 →
      p.num 16 8 / 2 ^ 48 ≠ 0xFF → Sane s → ∀ pa leaf, Cached s 0 false (p.num 16 8) pa leaf →
      let x := if p.num 32 1 = 1 then (s.homeNum (bit leaf 4) pa 8 + p.num 24 8) % 2 ^ 64 else p.num 24 8
      let refused : Prop := bit leaf 2 = false ∨ (p.num 32 1 = 1 ∧ bit leaf 4 = true ∧ bit leaf 6 = false)
      ∃ t : State, exec (.signalPacket q k) s = .next t ∧
        (¬ refused → Completes s t p 0 0 0 ∧ Stores s t (bit leaf 4) pa (bytesOfNat 8 x)) ∧
        (refused → Completes s t p 8 5 0 ∧ t.hbm = s.hbm ∧ t.writes = s.writes)) ∧
    (TurnOf s 7 q k p → exec (.waitvalPacket q k) s = .next (s.putPacket { p with
      phase := .started, poll := s.gcyc, limit := if p.num 36 4 = 0 then none else some (s.gcyc + 1050 * p.num 36 4) })) ∧
    (Polling s q k p →
      (s.gcyc < p.poll → exec (.waitvalPoll q k) s = .next s) ∧
      (p.poll ≤ s.gcyc → p.asked = none → p.num 16 8 < 2 ^ 56 → p.num 16 8 / 2 ^ 48 ≠ 0xFF →
        ∀ pa leaf, Cached s 0 false (p.num 16 8) pa leaf →
        let x := s.readNum 0 .steward (bit leaf 4) pa 8
        let holds : Prop := (p.num 32 1 = 0 ∧ x = p.num 24 8) ∨ (p.num 32 1 = 1 ∧ p.num 24 8 ≤ x) ∨ (2 ≤ p.num 32 1 ∧ x ≠ p.num 24 8)
        ∃ t : State, exec (.waitvalPoll q k) s = .next t ∧ (holds → Completes s t p 0 0 0) ∧
          (¬ holds → t = s.putPacket { p with poll := p.poll + 1050 })) ∧
      (p.limit = none → exec (.waitvalTimeout q k) s = .next s) ∧
      (∀ l, p.limit = some l → s.gcyc < l → exec (.waitvalTimeout q k) s = .next s) ∧
      (∀ l, p.limit = some l → l ≤ s.gcyc → ∃ t : State, exec (.waitvalTimeout q k) s = .next t ∧ Completes s t p 9 0 0))

/-! Dispatch, power, span links and the steward (R371 to R384, R410 to R423). -/

namespace Sys2Proof.Claims

/-- Slot k holds a task, and its record's OP is a doorbell. -/
def Rung (s : State) (k op : Nat) : Prop := k < 64 ∧ (s.slot k).op = op

/-- A doorbell is refused: REASON says why, and nothing else changes. -/
def Refuses (s : State) (o : Host.Outcome State Fault Refusal) (k n : Nat) : Prop :=
  ∃ t : State, o = .next t ∧ fieldOf ((t.slot k).word 0) 8 8 = n ∧ (t.slot k).state = (s.slot k).state ∧
    (t.slot k).task = (s.slot k).task ∧ t.ctxs = s.ctxs ∧ t.hbm = s.hbm ∧ ∀ j, j < 64 → j ≠ k → t.slot j = s.slot j

/-- A field of a word of a bind record. -/
def recordField (b : BindSlot) (word lo n : Nat) : Nat := (b.words.toList.getD word 0#64).toNat / 2 ^ lo % 2 ^ n

/-- A reserved field of a bind record is not zero (R378). -/
def ReservedSet (b : BindSlot) : Prop :=
  ∃ f ∈ [(0, 3, 1), (0, 7, 1), (0, 18, 14), (1, 38, 26), (2, 0, 2), (2, 56, 8), (3, 0, 6), (4, 19, 5), (4, 40, 24), (7, 32, 32)],
    recordField b f.1 f.2.1 f.2.2 ≠ 0

/-- The panels of a record's rectangle in the order of TASKPANEL.INDEX: row by row of the 16 by 16 package grid (R22, R378). -/
def rectangle (b : BindSlot) : List Nat :=
  let w := recordField b 4 8 4 + 1
  (List.range (w * (recordField b 4 12 4 + 1))).map fun i => panelAt (recordField b 4 4 4 + i / w) (recordField b 4 0 4 + i % w)

/-- A slot other than k has a task x with panels: it loads, runs or is being saved. -/
def Elsewhere (s : State) (k : Nat) (x : Task) : Prop :=
  ∃ j, j < 64 ∧ j ≠ k ∧ ((s.slot j).state = 1 ∨ (s.slot j).state = 2 ∨ (s.slot j).state = 3) ∧ (s.slot j).task = some x

/-- The record of slot k leaves the grid. -/
def OffGrid (b : BindSlot) : Prop :=
  16 < recordField b 4 0 4 + recordField b 4 8 4 + 1 ∨ 16 < recordField b 4 4 4 + recordField b 4 12 4 + 1

/-- A panel of the record is not in service, or has a suspect cell (R382, R414). -/
def OutOfService (s : State) (b : BindSlot) : Prop :=
  ∃ p ∈ rectangle b, (vget {} s.fleet.survey p).state ≠ 0 ∨ (vget {} s.fleet.survey p).suspect ≠ 0#16

/-- A panel of the record is bound to another slot. -/
def Overlaps (s : State) (k : Nat) (b : BindSlot) : Prop := ∃ p ∈ rectangle b, ∃ x, Elsewhere s k x ∧ p ∈ x.panels

/-- The record's flag range leaves its sheet, or meets the partition of another slot, whose task has panels or is to be executed again
(log entry 102). -/
def FlagsMeet (s : State) (k : Nat) (b : BindSlot) : Prop :=
  let base := recordField b 4 24 8
  let size := recordField b 4 32 8 + 1
  256 < base + size ∨ ∃ x, (Elsewhere s k x ∨ ∃ j, j < 64 ∧ j ≠ k ∧ (s.slot j).task = some x ∧ x.saved = none) ∧
    let o : BindSlot := { words := ⟨#[x.bind.getD 0 0, x.bind.getD 1 0, x.bind.getD 2 0, x.bind.getD 3 0, x.bind.getD 4 0, 0, 0, 0], rfl⟩ }
    recordField o 4 16 3 = recordField b 4 16 3 ∧ base < recordField o 4 24 8 + recordField o 4 32 8 + 1 ∧
      recordField o 4 24 8 < base + size

/-- The REASON with which the placement of the record of slot k is refused, 0 when it is not (R378, R380). -/
def Placement (s : State) (k : Nat) (b : BindSlot) (n : Nat) : Prop :=
  (ReservedSet b → n = 7) ∧
  (¬ ReservedSet b → OffGrid b → n = 3) ∧
  (¬ ReservedSet b → ¬ OffGrid b → OutOfService s b → n = 1) ∧
  (¬ ReservedSet b → ¬ OffGrid b → ¬ OutOfService s b → Overlaps s k b → n = 2) ∧
  (¬ ReservedSet b → ¬ OffGrid b → ¬ OutOfService s b → ¬ Overlaps s k b → FlagsMeet s k b → n = 4) ∧
  (¬ ReservedSet b → ¬ OffGrid b → ¬ OutOfService s b → ¬ Overlaps s k b → ¬ FlagsMeet s k b → n = 0)

/-- The first address of a record's save area, and its 64 KiB pages (R400). -/
def areaStart (b : BindSlot) : Nat := recordField b 6 16 40 * 65536
def areaCount (b : BindSlot) : Nat := 1 + 0x884 * ((recordField b 4 8 4 + 1) * (recordField b 4 12 4 + 1))

/-- The pages of the save area that a record names are present in HBM and writable. -/
def AreaThere (s : State) (b : BindSlot) (ps : List Nat) : Prop :=
  ps.length = areaCount b ∧ ∀ i, i < areaCount b → ∃ leaf,
    Cached s 0 false (areaStart b + 65536 * i) (ps.getD i 0) leaf ∧ leaf.getLsbD 2 = true ∧ leaf.getLsbD 4 = false

/-- A page of the save area is not writable, or not HBM. -/
def AreaBad (s : State) (b : BindSlot) : Prop :=
  ∃ i, i < areaCount b ∧ (∀ j, j < i → ∃ pa leaf, Cached s 0 false (areaStart b + 65536 * j) pa leaf) ∧ ∃ pa leaf, Cached s 0 false (areaStart b + 65536 * i) pa leaf ∧ (leaf.getLsbD 2 = false ∨ leaf.getLsbD 4 = true)

/-- The end of a task is begun: its completion record is to carry a status, a code and a detail, its contexts stand still, and the slot
takes a STATE once the record is written (R379, R380). -/
def Ends (s t : State) (k : Nat) (x : Task) (status code detail state : Nat) : Prop :=
  (∃ y, (t.slot k).task = some y ∧ y.ending = some state ∧ y.panels = x.panels) ∧ (t.slot k).state = (s.slot k).state ∧
    (∀ d ∈ t.ctxs, d.id.slot = k → d.finished = true ∧ d.glob.queue = []) ∧ (∀ d ∈ t.ctxs, d.id.slot ≠ k → d ∈ s.ctxs) ∧
    ∀ id q, x.packet = some id → s.packet? id = some q → q.result = none →
      ∃ y, t.packet? id = some y ∧ y.result = some (status, code, detail, (x.bind.getD 1 0#64).toNat)

end Sys2Proof.Claims

/-- R285, R287, R289, R378 to R380, R383, R400: the doorbells of a slot. START begins a load when the record's placement passes its checks
and its save area is there, with the partition's flags at 0, and is refused with its REASON otherwise; of a node that is to be executed
again it writes the reserve back first. The end of the load binds a fresh context on every panel of the rectangle, not before START; RESTORE
takes a saved task whose area passes. PREEMPT asks every context of a running task, FORCE stops them, either abandons a load and leaves a
saved task as it is, and ABORT ends the task. A record with a reserved field set is refused with REASON 7, and a doorbell in another STATE
with REASON 5.
The model's own: which panels take a task (log entry 28), the page of a reduce region that cannot be kept (98), the order of the placement
checks (100), whose flags are live (102), and that a restored context comes back from the area with what the entry 36 names kept. -/
def Obligations.DoorbellsOfDispatch : Prop :=
  ∀ (s : State) (k : Nat), k < 64 →
    let b := s.slot k
    let live : Prop := ∀ x, b.task = some x → x.ending = none
    (∃ n, Placement s k b n ∧ s.placementReason k b = n) ∧
    (∀ ps, AreaThere s b ps → s.savePages b = (some ps, s)) ∧ (AreaBad s b → (s.savePages b).1 = none) ∧
    (Rung s k 1 → b.state ∈ [1, 2, 3, 4] → Refuses s (exec (.dispatchStart k) s) k 5) ∧
    (Rung s k 1 → b.state ∈ [0, 5, 6, 7] →
      (∀ n, Placement s k b n → n ≠ 0 → Refuses s (exec (.dispatchStart k) s) k n) ∧
      (Placement s k b 0 → (s.savePages b).1 = none → Refuses s (exec (.dispatchStart k) s) k 6) ∧
      (Placement s k b 0 → (s.savePages b).1 ≠ none → Store.wf (s.sheet b.home).flags = true → ∃ (t : State) (x : Task),
        exec (.dispatchStart k) s = .next t ∧ (t.slot k).state = 1 ∧ (t.slot k).task = some x ∧ x.panels = rectangle b ∧
        x.bind.getD 4 0#64 = b.word 4 ∧ x.loaded.isSome = true ∧ x.restoring = false ∧ t.ctxs = s.ctxs ∧
        (b.task = none → x.saved = none ∧ x.consumed = 0 ∧ x.packet = b.packet) ∧
        (∀ y, b.task = some y → x.saved = y.saved ∧ x.consumed = y.consumed ∧ x.reserve = y.reserve ∧ x.packet = y.packet ∧
          (∀ r, Sane s → y.reserve = some [r] → Stores s t (decide (2 ^ 56 ≤ r.1)) (r.1 % 2 ^ 56) r.2)) ∧
        (∀ f, Store.get (t.sheet b.home).flags f = if b.fbase ≤ f ∧ f < b.fbase + b.fsize then 0#32 else Store.get (s.sheet b.home).flags f))) ∧
    (Rung s k 2 → b.state ≠ 4 → Refuses s (exec (.dispatchRestore k) s) k 5) ∧
    (∀ x : Task, Rung s k 2 → b.state = 4 → b.task = some x → x.ending = none →
      (∀ n, Placement s k b n → n ≠ 0 → Refuses s (exec (.dispatchRestore k) s) k n) ∧
      (Placement s k b 0 → (s.savePages b).1 = none → Refuses s (exec (.dispatchRestore k) s) k 6) ∧
      (∀ ps, Placement s k b 0 → (s.savePages b).1 = some ps →
        (s.areaPasses b ps = false → Refuses s (exec (.dispatchRestore k) s) k 6) ∧
        (s.areaPasses b ps = true → ∃ (t : State) (y : Task), exec (.dispatchRestore k) s = .next t ∧ (t.slot k).state = 1 ∧
          (t.slot k).task = some y ∧ y.panels = rectangle b ∧ y.restoring = true ∧ y.saved = x.saved ∧ y.area = s.areaIn ps ∧
          t.ctxs = s.ctxs))) ∧
    (∀ op i, (op = 3 ∧ i = .dispatchPreempt k) ∨ (op = 4 ∧ i = .dispatchForce k) → Rung s k op →
      (b.state ∈ [0, 5, 6, 7] → Refuses s (exec i s) k 5) ∧
      (b.state ∈ [1, 2, 3, 4] → ReservedSet b → Refuses s (exec i s) k 7) ∧
      (b.state = 4 → ¬ ReservedSet b → Refuses s (exec i s) k 0) ∧
      (∀ x, b.state = 1 → ¬ ReservedSet b → b.task = some x → x.ending = none → ∃ t : State, exec i s = .next t ∧ t.ctxs = s.ctxs ∧
        (x.restoring = true → (t.slot k).state = 4 ∧ ∃ y, (t.slot k).task = some y ∧ y.panels = [] ∧ y.saved = x.saved) ∧
        (x.restoring = false → (t.slot k).state = 0 ∧ (b.reexecs = 0 → (t.slot k).task = none) ∧
          (b.reexecs ≠ 0 → ∃ y, (t.slot k).task = some y ∧ y.panels = [] ∧ y.consumed = x.consumed ∧ y.reserve = x.reserve)))) ∧
    (Rung s k 3 → b.state = 2 → ¬ ReservedSet b → live → ∃ t : State, exec (.dispatchPreempt k) s = .next t ∧ (t.slot k).state = 3 ∧
      t.ctxs.map (·.id) = s.ctxs.map (·.id) ∧
      (∀ d ∈ t.ctxs, d.id.slot = k → d.finished = false → d.preempt.req = true ∧ d.latch.preempt = true ∧
        d.preempt.deadline = some (s.gcyc + 1050 * b.grace)) ∧ ∀ d ∈ t.ctxs, d.id.slot ≠ k → d ∈ s.ctxs) ∧
    (Rung s k 3 → b.state = 3 → ¬ ReservedSet b → Refuses s (exec (.dispatchPreempt k) s) k 0) ∧
    (Rung s k 4 → b.state = 2 ∨ b.state = 3 → ¬ ReservedSet b → live → ∃ t : State, exec (.dispatchForce k) s = .next t ∧
      (t.slot k).state = 3 ∧
      (∀ d ∈ t.ctxs, d.id.slot = k → d.finished = true ∨ d.trap.halted ≠ none ∨ (d.preempt.stop ≠ .none ∧ d.preempt.stop ≠ .draining)) ∧
      ∀ d ∈ t.ctxs, d.id.slot ≠ k → d ∈ s.ctxs) ∧
    (∀ x : Task, Rung s k 5 → b.state ∈ [1, 2, 3, 4] → ¬ ReservedSet b → b.task = some x → x.ending = none → ∃ t : State,
      exec (.dispatchAbort k) s = .next t ∧ Ends s t k x 7 0 0 6) ∧
    (Rung s k 5 → b.state ∈ [1, 2, 3, 4] → ReservedSet b → Refuses s (exec (.dispatchAbort k) s) k 7) ∧
    (Rung s k 5 → b.state ∈ [0, 5, 6, 7] → Refuses s (exec (.dispatchAbort k) s) k 5) ∧
    (∀ (x : Task) (g : Nat), b.task = some x → x.loaded = some g → b.state = 1 → s.gcyc < g → exec (.bindComplete k) s = .next s) ∧
    (∀ (x : Task) (g : Nat), b.task = some x → x.loaded = some g → b.state = 1 → g ≤ s.gcyc → x.kept = true →
      s.gcyc + 1 < (x.bind.getD 5 0#64).toNat → exec (.bindComplete k) s = .next s) ∧
    (∀ (x : Task) (g : Nat) (i : Image) (pa : Nat) (leaf : U64), b.task = some x → x.loaded = some g → b.state = 1 → g ≤ s.gcyc →
      (x.bind.getD 5 0#64).toNat ≤ s.gcyc + 1 → x.kept = true → x.asked = none → s.boundImage x = some i → 0 < i.textSize →
      i.textSize ≤ 65536 → i.base.toNat < 2 ^ 56 → i.base.toNat / 2 ^ 48 ≠ 0xFF → i.base.toNat % 65536 = 0 →
      Cached s 0 false i.base.toNat pa leaf → ∃ (t : State) (new : List Ctx), exec (.bindComplete k) s = .next t ∧
        (t.slot k).state = 2 ∧ t.ctxs = s.ctxs ++ new ∧
        (∀ c ∈ new, c.id.slot = k ∧ c.code.base = i.base ∧ c.code.executable = bit leaf 3) ∧
        (x.saved = none → new.map (·.id.panel) = x.panels ∧ ∀ c ∈ new, c.norm = {} ∧ c.trapBank = {} ∧ c.time.ptime = 0 ∧
          c.issue.pc = x.bind.getD 2 0#64 ∧ c.id.taskId = x.bind.getD 1 0#64 ∧
          c.id.argPtr = x.bind.getD 3 0#64 &&& 0x00FFFFFFFFFFFFC0#64 ∧ c.landings = [] ∧ c.scratch = [] ∧
          ∀ n, n < 16 → (c.cell n).tower = [] ∧ (c.cell n).v = Vector.replicate 32 0#512) ∧
        (∀ v : Saved, x.saved = some v →
            (∀ c ∈ v.ctxs, c.index < (fieldOf (x.bind.getD 4 0#64) 8 4 + 1) * (fieldOf (x.bind.getD 4 0#64) 12 4 + 1)) →
          new.map (fun c => c.index) = v.ctxs.map (fun c => c.index) ∧
          (∀ c ∈ new, c.id.panel = x.panels.getD c.index 0) ∧
          let home := fieldOf (x.bind.getD 4 0#64) 16 3
          let base := fieldOf (x.bind.getD 4 0#64) 24 8
          let size := fieldOf (x.bind.getD 4 0#64) 32 8 + 1
          Store.wf (s.sheet home).flags = true → ∀ f, f < size →
            Store.get (t.sheet home).flags (base + f) = BitVec.ofNat 32 (Store.num x.area (0x100 + 4 * f) 4)))

/-- R74, R363, R371 to R375, R399: span links. A flit whose CRC fails is an event of class 5, and a good one acknowledges the oldest message
of its link; an increment for a grant that no task holds, or beyond its partition, is dropped and counted, and another adds to its
flag, or to the saved flag of a task that is saved, once every remote write that came before it is in every view; a remote write lands
through the span table in HBM, or is refused; a link trains while feature 4 is in force, and one that has been down for 100 ms is given
up with an event of class 6. That a good flit acknowledges the oldest message of its link is the model's own (log entry 34). -/
def Obligations.SpanTraffic : Prop :=
  (∀ (s : State) (l : Nat), l < 18 → (vget {} s.links l).up = false → ∀ b, exec (.spanFlitReceive l b) s = .next s) ∧
  (∀ (s : State) (l : Nat), l < 18 → (vget {} s.links l).up = true →
    (∃ t : State, exec (.spanFlitReceive l false) s = .next t ∧ t.remote = s.remote ∧
      vget 0 t.fleet.counters 5 = Nat.min (vget 0 s.fleet.counters 5 + 1) (2 ^ 64 - 1)) ∧
    (∀ (pkg grant f : Nat) (inc : U32) (ms : List SpanMsg), s.remote = .finc pkg grant f inc :: ms → s.linkTo pkg = some l →
      exec (.spanFlitReceive l true) s = .next { s with remote := ms }) ∧
    (∀ (pkg id sh : Nat) (a : U64) (xs : List Byte) (ms : List SpanMsg) (j : Job), s.remote = .write pkg false id a xs :: ms →
      s.linkTo pkg = some l → s.findJob id = some (sh, j) → ∃ t : State, exec (.spanFlitReceive l true) s = .next t ∧
        t.remote = ms ∧ t.job? sh id = some { j with acks := j.acks - 1 } ∧ t.ctxs = s.ctxs)) ∧
  (∀ (s : State) (grant f : Nat) (inc : U32),
    let seen (t : State) : Prop := (∀ w ∈ t.writes, w.agent = .span → w.views = 0x1F#5) ∧ t.ctxs = s.ctxs ∧
      (Sane s → ∀ h b, t.homeNum h b 1 = s.homeNum h b 1)
    let dropped : Prop := ∃ t : State, exec (.remoteFincArrival grant f inc) s = .next t ∧ seen t ∧ t.sheets = s.sheets ∧
      t.slots = s.slots ∧ t.bar0 = { s.bar0 with dropfinc := s.bar0.dropfinc + 1#32 }
    (s.granted grant = none → dropped) ∧
    (∀ (k : Nat) (x : Task), s.granted grant = some (k, x) →
      let part := BindSlot.partition x.bind
      (part.2.2 ≤ f → dropped) ∧
      (f < part.2.2 → x.saved = none → part.1 < 8 → Store.wf (s.sheet part.1).flags = true → ∃ t : State,
        exec (.remoteFincArrival grant f inc) s = .next t ∧ seen t ∧ ∀ n, Store.get (t.sheet part.1).flags n =
          if n = part.2.1 + f then Store.get (s.sheet part.1).flags n + inc else Store.get (s.sheet part.1).flags n) ∧
      (∀ v, f < part.2.2 → x.saved = some v → Store.wf v.flags = true → ∃ (t : State) (y : Task) (w : Saved),
        exec (.remoteFincArrival grant f inc) s = .next t ∧ t.ctxs = s.ctxs ∧ (t.slot k).task = some y ∧ y.saved = some w ∧
        w.ctxs = v.ctxs ∧ ∀ n, Store.get w.flags n = if n = f then Store.get v.flags n + inc else Store.get v.flags n))) ∧
  (∀ (s : State) (a : U64) (xs : List Byte), 2 ^ 56 ≤ a.toNat → exec (.spanWriteArrival a xs) s =
    .next { s with outputs := s.outputs ++ [.spanReply false a] }) ∧
  (∀ (s : State) (a : U64) (xs : List Byte) (pa : Nat) (leaf : U64), Sane s → Cached s 0 true a.toNat pa leaf →
    a.toNat < 2 ^ 56 → a.toNat / 2 ^ 48 ≠ 0xFF → a.toNat % 65536 + xs.length ≤ 65536 → ∃ t : State,
      exec (.spanWriteArrival a xs) s = .next t ∧
      (bit leaf 2 = true ∧ bit leaf 4 = false → t.outputs = s.outputs ++ [.spanReply true a] ∧ Stores s t false pa xs) ∧
      (bit leaf 2 = false ∨ bit leaf 4 = true → t = { s with outputs := s.outputs ++ [.spanReply false a] })) ∧
  (∀ (s : State) (l : Nat), l < 18 →
    (s.bar0.en = true → bit s.bar0.feats 4 = true → s.boot.noSpan = false → ∃ t : State, exec (.spanLinkTrained l) s = .next t ∧
      vget {} t.links l = { up := true }) ∧
    (s.bar0.en = false ∨ bit s.bar0.feats 4 = false ∨ s.boot.noSpan = true → exec (.spanLinkTrained l) s = .next s) ∧
    ((vget {} s.links l).up = true → ∃ t : State, exec (.spanLinkLost l) s = .next t ∧
      vget {} t.links l = { up := false, downSince := some s.gcyc, since := s.gcyc }) ∧
    ((vget {} s.links l).up = false → exec (.spanLinkLost l) s = .next s) ∧
    ((vget {} s.links l).downSince = none → exec (.spanLinkDown l) s = .next s) ∧
    (∀ g, (vget {} s.links l).downSince = some g → s.gcyc < g + 105000000 → exec (.spanLinkDown l) s = .next s) ∧
    (∀ g, (vget {} s.links l).downSince = some g → g + 105000000 ≤ s.gcyc → s.remote = [] → (∀ n, n < 8 → (s.sheet n).jobs = []) →
      ∃ t : State, exec (.spanLinkDown l) s = .next t ∧ vget {} t.links l = { (vget {} s.links l) with up := false, downSince := none } ∧
        vget 0 t.fleet.counters 6 = Nat.min (vget 0 s.fleet.counters 6 + 1) (2 ^ 64 - 1)))

/-- R384, R413 to R417, R420 to R423: the steward. A power check above 2,400 W cuts the island of greatest power for 1,024 cycles, and an
island in band 2 is cut slice after slice; a sample moves each island's band, with its FBASE, and at 110 degrees the package halts; a
suspect panel that is unbound is screened; the operator's requests wait for their panels, HOLD takes one out of service, RETURN brings it
back and SCREEN screens it; capture begins where its control is valid; the mailbox answers ATTEST and IDENTITY, writes a signed image to
the inactive slot and refuses one above 64 MiB, and CLEARALT names a step; a boot step begins with its entry in the journal, steps 4 and 5
are skipped as their alternate, and one that runs for 10 s starts the package again. -/
def Obligations.StewardPowerFleetAndBoot : Prop :=
  ∀ s : State,
    (s.gcyc < s.fleet.powerAt → exec .powerCheck s = .next s) ∧
    (s.fleet.powerAt ≤ s.gcyc → ∃ t : State, exec .powerCheck s = .next t ∧ t.fleet.powerAt = s.gcyc + 1050 ∧ t.ctxs = s.ctxs ∧
      (∀ k, k < 64 → (t.island k).load = BitVec.ofNat 8 (Config.forecast k s.fresh)) ∧
      let power (k : Nat) : Nat := Config.power k (if (s.island k).horizon = 0#8 then 8 else (s.island k).horizon.toNat) s.fresh
      (∀ k, k < 64 → (t.island k).horizon = 8#8) ∧
      (((List.range 64).map power).sum ≤ 2400000 → ∀ k, k < 64 → (t.island k).cutUntil = (s.island k).cutUntil) ∧
      (2400000 < ((List.range 64).map power).sum → ∃ k, k < 64 ∧ (t.island k).cutUntil = s.gcyc + 1024 ∧
        ∀ j, j < 64 → power j ≤ power k ∧ (j < k → power j < power k))) ∧
    (∀ k, k < 64 → ∃ t : State, exec (.supplyCutEnd k) s = .next t ∧
      (t.island k).cutUntil = if s.gcyc < (s.island k).cutUntil then (s.island k).cutUntil
        else if (s.island k).band = 2 then s.gcyc + 1024 else 0) ∧
    (s.gcyc < s.fleet.thermalAt → exec .thermalSample s = .next s) ∧
    (s.fleet.thermalAt ≤ s.gcyc → ∃ t : State, exec .thermalSample s = .next t ∧ t.fleet.thermalAt = s.gcyc + 10500 ∧
      ∀ k, k < 64 → (t.island k).temp = Config.temperature k s.fresh ∧
        let x := Config.temperature k s.fresh
        (1760 ≤ x → (t.island k).band = 3 ∧ t.bar0.halt = true) ∧
        (1680 < x → x < 1760 → (t.island k).band = 2 ∧ (t.island k).fbase = 187#16 ∧ (t.island k).margin = 16383#16 ∧
          (t.island k).cutUntil = if (s.island k).cutUntil = 0 then s.gcyc + 1023 else (s.island k).cutUntil) ∧
        (1648 < x → x ≤ 1680 → 2 ≤ (s.island k).band → (t.island k).band = 2) ∧
        (x ≤ 1648 → 2 ≤ (s.island k).band → (t.island k).band = 1) ∧
        (1280 < x → x ≤ 1680 → (s.island k).band < 2 → (t.island k).band = 1 ∧ (t.island k).fbase = 751#16 ∧
          (t.island k).margin = 65535#16) ∧
        (x ≤ 1280 → (s.island k).band = 1 → (t.island k).band =
          if x ≤ 1200 ∧ ∃ c, (s.island k).coolSince = some c ∧ c + 1050000000 ≤ s.gcyc then 0 else 1) ∧
        (x ≤ 1280 → (s.island k).band = 0 → (t.island k).band = 0 ∧ (t.island k).fbase = 3004#16)) ∧
    (∀ p, p < 256 → (s.survey p).state = 1 ∨ ((s.survey p).state = 0 ∧ (s.survey p).suspect ≠ 0#16) → s.unbound p = true → ∃ t : State, exec (.panelScreen p) s = .next t ∧
      (t.survey p).state = 2 ∧ s.gcyc < (t.survey p).screenEnd ∧ ∀ q, q < 256 → q ≠ p → t.survey q = s.survey q) ∧
    (∀ p, p < 256 → (s.survey p).state = 2 → (s.survey p).screenEnd ≤ s.gcyc → ∃ t : State, exec (.panelScreen p) s = .next t ∧
      ((t.survey p).state = 0 ∨ (t.survey p).state = 3)) ∧
    (∀ p a, s.stewardRead (s.fleet.page + 0x8048) 8 = s.fleet.operatorSeq → s.fleet.operatorWaits = [(p, a)] → p < 256 →
      (s.unbound p = false → exec .operatorRequest s = .next s) ∧
      (s.unbound p = true → (s.survey p).state ≠ 3 → ∃ t : State, exec .operatorRequest s = .next t ∧ t.fleet.operatorWaits = [] ∧
        (∀ q, q < 256 → q ≠ p → t.survey q = s.survey q) ∧ (a = 1 → (t.survey p).state = 4) ∧
        (a = 2 → (s.survey p).state = 4 → (t.survey p).state = 0) ∧ (a = 3 → (t.survey p).state = 2))) ∧
    (s.stewardRead (s.fleet.page + 0x8048) 8 ≠ s.fleet.operatorSeq →
      let p := s.stewardRead (s.fleet.page + 0x8040) 2
      s.unbound p = false → (∀ x ∈ s.fleet.operatorWaits, s.unbound x.1 = false) → ∃ t : State, exec .operatorRequest s = .next t ∧
        t.fleet.operatorSeq = s.stewardRead (s.fleet.page + 0x8048) 8 ∧
        t.fleet.operatorWaits = s.fleet.operatorWaits ++ [(p, s.stewardRead (s.fleet.page + 0x8042) 1)] ∧ t.fleet.survey = s.fleet.survey) ∧
    (s.stewardRead (s.fleet.page + 0x8000) 8 % 2 = 1 → s.fleet.captureEn = false → ∃ t : State,
      exec .captureControlPoll s = .next t ∧ t.fleet.captureEn = true ∧ t.fleet.captureUsed = 0 ∧ t.fleet.captureState =
        if bit s.bar0.feats 3 = true ∧ s.stewardRead (s.fleet.page + 0x8010) 8 % 64 = 0 ∧ s.stewardRead (s.fleet.page + 0x8018) 8 % 64 = 0
        then 1 else 3) ∧
    (∀ r : MailRequest, Sane s → Requested s r →
      let answers (t : State) (n : Nat) : Prop := Answers s t r n
      (r.op = 1 → ∃ t : State, exec .attest s = .next t ∧ answers t 0) ∧
      (r.op = 2 → 2 ^ 26 < r.arg1 → ∃ t : State, exec .stage s = .next t ∧ answers t 3 ∧ t.flash = s.flash) ∧
      (∀ (n pa : Nat) (leaf : U64), r.op = 2 → n = r.arg1 → 0 < n →
        let va := r.arg0
        va < 2 ^ 56 → va / 2 ^ 48 ≠ 0xFF → va % 65536 + n ≤ 65536 → Cached s 0 false va pa leaf → s.fleet.mailAsked = none →
        let xs := s.readBytes 0 .steward (bit leaf 4) pa n
        ∃ t : State, exec .stage s = .next t ∧ answers t (if Config.vendorSigned xs then 0 else 2) ∧ t.flash =
          if Config.vendorSigned xs = false then s.flash
          else if Config.isConfig xs then
            (if s.boot.configB then { s.flash with configA := xs, configPreferB := false }
              else { s.flash with configB := xs, configPreferB := true })
          else if s.boot.fromB then { s.flash with slotA := xs, preferB := false } else { s.flash with slotB := xs, preferB := true }) ∧
      (r.op = 3 → ∃ t : State, exec .identity s = .next t ∧ answers t 0 ∧ t.flash = s.flash) ∧
      (r.op = 4 → ∃ t : State, exec .clearalt s = .next t ∧ answers t 0 ∧ r.arg0 ∈ t.flash.cleared ∧
        ∀ n, n ∈ t.flash.cleared ↔ n ∈ s.flash.cleared ∨ n = r.arg0)) ∧
    (∀ (k g : Nat) (a : Bool), s.boot.step = some (k, a, g) →
      (s.boot.running = false → s.flash.alternate k = false → s.flash.journal.length < 4096 → ∃ t : State, exec .boot s = .next t ∧
        t.boot.running = true ∧ t.boot.step = some (k, false, s.gcyc) ∧
        t.flash.journal = s.flash.journal ++ [{ bootno := s.boot.bootno, step := k, kind := 1, code := 0, detail := 0 }]) ∧
      (s.boot.running = false → s.flash.alternate k = true → s.flash.journal.length < 4096 → ∃ t : State, exec .boot s = .next t ∧
        (k = 4 ∨ k = 5 → t.boot.step = some (k + 1, false, s.gcyc) ∧ t.boot.noSpan = (s.boot.noSpan || k == 5) ∧
          t.agenda = .ev .boot :: s.agenda ∧ t.flash.journal =
            s.flash.journal ++ [{ bootno := s.boot.bootno, step := k, kind := 5, code := 0, detail := 0 }]) ∧
        (k ≠ 4 → k ≠ 5 → t.boot.running = true ∧ t.boot.step = some (k, true, s.gcyc) ∧ t.flash.journal =
            s.flash.journal ++ [{ bootno := s.boot.bootno, step := k, kind := 4, code := 0, detail := 0 }])) ∧
      (s.boot.running = true → s.gcyc < g + 10500000000 → exec .bootWatchdog s = .next s) ∧
      (s.boot.running = true → g + 10500000000 ≤ s.gcyc → ∃ t : State, exec .bootWatchdog s = .next t ∧
        t.boot.bootno = s.boot.bootno + 1 ∧ t.ctxs = [] ∧ t.bar0.ready = false ∧ t.flash = s.flash))

/-! Reset, and what every step keeps. -/

/-- R289, R356, R363, R373, R378, R423: right after reset no context is bound, every slot is FREE, every queue is disabled with counts of 0,
EN, READY, HALT and the features are 0, no span link is up, no packet is accepted, boot stands before its first step; and both memories
have their canonical form. Where the spec gives no reset value the model chooses 0 (log entry 1), and memory that nothing has written
reads as 0 (log entry 2). -/
def Obligations.ResetState : Prop :=
  let s := State.reset
  Sane s ∧ s.ctxs = [] ∧ s.gcyc = 0 ∧ s.packets = [] ∧ s.images = [] ∧ s.writes = [] ∧ s.spanTable = none ∧
    s.bar0.en = false ∧ s.bar0.ready = false ∧ s.bar0.halt = false ∧ s.bar0.featacc0 = 0#64 ∧ s.bar0.dropfinc = 0#32 ∧
    (∀ k, k < 64 → (s.slot k).state = 0 ∧ (s.slot k).task = none ∧ (s.queue k).ctl = 0#64 ∧ (s.queue k).head = (s.queue k).tail) ∧
    (∀ l, l < 18 → (vget {} s.links l).up = false) ∧ (∀ k f, k < 8 → Store.get (s.sheet k).flags f = 0#32) ∧
    s.boot.step = some (0, false, 0) ∧ s.agenda = [.ev .boot] ∧ ∀ h b, s.homeNum h b 1 = 0

/-- The memories keep their canonical form: addresses strictly rising and no byte of the value that an unlisted address reads as, in HBM
and in host memory, over every step: every instruction, every event and every input. So equal contents are equal data. -/
def Obligations.MemoriesKeepTheirForm : Prop :=
  ∀ s t : State, Sane s → step s = .next t → Sane t
end

