-- ==== Sys2Proof/Laws/Memory.lean ====
section
/-!
SUPPORT. Stores: reading after a write, and the canonical form, which every operation on a store keeps.
-/

namespace Sys2Proof.Machine

/-! Above. -/

/-- Every address of a canonical store lies above a when its first does. -/
theorem Store.get_of_above {n : Nat} {m : Store n} {a : Nat} (hw : m.wf = true) (ha : m.above a = true) : m.get a = 0 := by
  induction m generalizing a with
  | nil => rfl
  | cons e m ih =>
    obtain ⟨k, x⟩ := e
    simp only [Store.above, decide_eq_true_eq] at ha
    simp only [Store.wf, Bool.and_eq_true] at hw
    rw [Store.get, if_neg (by omega)]
    apply ih hw.2
    cases m with
    | nil => rfl
    | cons e' m' =>
      obtain ⟨k', x'⟩ := e'
      simp only [Store.above, decide_eq_true_eq] at hw ⊢
      omega

theorem Store.above_push {n : Nat} {m : Store n} {k a : Nat} {x : BitVec n} (hk : k < a) (hm : m.above k = true) :
    (m.push a x).above k = true := by
  unfold Store.push; split
  · exact hm
  · simpa [Store.above] using hk

theorem Store.above_trans {n : Nat} {m : Store n} {j k : Nat} (hjk : j ≤ k) (hm : m.above k = true) : m.above j = true := by
  cases m with
  | nil => rfl
  | cons e m => simp only [Store.above, decide_eq_true_eq] at hm ⊢; omega

theorem Store.above_set {n : Nat} {m : Store n} {k a : Nat} {x : BitVec n} (hk : k < a) (hw : m.wf = true)
    (hm : m.above k = true) : (m.set a x).above k = true := by
  cases m with
  | nil => exact Store.above_push hk rfl
  | cons e m =>
    obtain ⟨j, y⟩ := e
    have hj : k < j := by simpa [Store.above] using hm
    simp only [Store.wf, Bool.and_eq_true] at hw
    simp only [Store.set]
    split
    · exact Store.above_push hk hm
    · split
      · exact Store.above_push hk (Store.above_trans (by omega) hw.1.2)
      · simpa [Store.above] using hj

theorem Store.wf_push {n : Nat} {m : Store n} {a : Nat} {x : BitVec n} (hw : m.wf = true) (ha : m.above a = true) :
    (m.push a x).wf = true := by
  unfold Store.push; split
  · exact hw
  · simp only [Store.wf, Bool.and_eq_true, decide_eq_true_eq]
    exact ⟨⟨‹_›, ha⟩, hw⟩

/-! The canonical form is kept. -/

/-- Writing one value keeps the canonical form. -/
theorem Store.wf_set {n : Nat} {m : Store n} {a : Nat} {x : BitVec n} (hw : m.wf = true) : (m.set a x).wf = true := by
  induction m with
  | nil => exact Store.wf_push rfl rfl
  | cons e m ih =>
    obtain ⟨k, y⟩ := e
    have h := hw
    simp only [Store.wf, Bool.and_eq_true, decide_eq_true_eq] at h
    simp only [Store.set]
    split
    · exact Store.wf_push hw (by simpa [Store.above])
    · split
      · subst a; exact Store.wf_push h.2 h.1.2
      · simp only [Store.wf, Bool.and_eq_true, decide_eq_true_eq]
        exact ⟨⟨h.1.1, Store.above_set (by omega) h.2 h.1.2⟩, ih h.2⟩

/-- Writing a list of values keeps the canonical form. -/
theorem Store.wf_setList {n : Nat} (xs : List (BitVec n)) {m : Store n} {a : Nat} (hw : m.wf = true) :
    (m.setList a xs).wf = true := by
  induction xs generalizing m a with
  | nil => exact hw
  | cons x xs ih => exact ih (Store.wf_set hw)

/-- Writing a number keeps the canonical form. -/
theorem Store.wf_setNum {m : Bytes} {a n x : Nat} (hw : m.wf = true) : (Store.setNum m a n x).wf = true :=
  Store.wf_setList _ hw

/-- Writing a list but for some of its places keeps the canonical form. -/
theorem Store.wf_setHoles {n : Nat} (xs : List (BitVec n)) {m : Store n} {a k : Nat} {hs : List Nat} (hw : m.wf = true) :
    (m.setHoles a xs hs k).wf = true := by
  induction xs generalizing m a k with
  | nil => exact hw
  | cons x xs ih =>
    simp only [Store.setHoles]
    split
    · exact ih hw
    · exact ih (Store.wf_set hw)

/-- Writing masked bytes keeps the canonical form. -/
theorem Store.wf_setMasked (xs : List Byte) {m : Bytes} {a mask : Nat} (hw : m.wf = true) :
    (Store.setMasked m a xs mask).wf = true := by
  induction xs generalizing m a mask with
  | nil => exact hw
  | cons x xs ih =>
    simp only [Store.setMasked]
    split
    · exact ih (Store.wf_set hw)
    · exact ih hw

/-- Writing masked bytes of a line keeps the canonical form. -/
theorem Store.wf_setLine {m : Bytes} {a : Nat} {x : Line} {mask : BitVec 64} (hw : m.wf = true) :
    (Store.setLine m a x mask).wf = true := Store.wf_setMasked _ hw

theorem Store.above_clear {n : Nat} {m : Store n} {j a k : Nat} (hw : m.wf = true) (hm : m.above j = true) :
    (m.clear a k).above j = true := by
  induction m generalizing j with
  | nil => rfl
  | cons e m ih =>
    obtain ⟨i, y⟩ := e
    simp only [Store.wf, Bool.and_eq_true] at hw
    simp only [Store.above, decide_eq_true_eq] at hm
    simp only [Store.clear]
    split
    · exact ih hw.2 (Store.above_trans (by omega) hw.1.2)
    · simpa [Store.above] using hm

/-- Clearing a range keeps the canonical form. -/
theorem Store.wf_clear {n : Nat} {m : Store n} {a k : Nat} (hw : m.wf = true) : (m.clear a k).wf = true := by
  induction m with
  | nil => rfl
  | cons e m ih =>
    obtain ⟨i, y⟩ := e
    simp only [Store.wf, Bool.and_eq_true] at hw
    simp only [Store.clear]
    split
    · exact ih hw.2
    · simp only [Store.wf, Bool.and_eq_true]
      exact ⟨⟨hw.1.1, Store.above_clear hw.2 hw.1.2⟩, ih hw.2⟩

/-! Reading after writing. -/

theorem Store.get_push {n : Nat} {m : Store n} {a b : Nat} {x : BitVec n} (hw : m.wf = true) (ha : m.above a = true) :
    (m.push a x).get b = if b = a then x else m.get b := by
  unfold Store.push
  split
  · split
    · subst b; rw [Store.get_of_above hw ha]; simp_all
    · rfl
  · simp only [Store.get, eq_comm]

/-- A read after a write: the value written at its address, and what was there elsewhere. -/
theorem Store.get_set {n : Nat} {m : Store n} {a b : Nat} {x : BitVec n} (hw : m.wf = true) :
    (m.set a x).get b = if b = a then x else m.get b := by
  induction m with
  | nil => exact Store.get_push rfl rfl
  | cons e m ih =>
    obtain ⟨k, y⟩ := e
    have h := hw
    simp only [Store.wf, Bool.and_eq_true, decide_eq_true_eq] at h
    simp only [Store.set]
    split
    · exact Store.get_push hw (by simpa [Store.above])
    · split
      · subst a
        rw [Store.get_push h.2 h.1.2]
        by_cases hb : b = k
        · simp [hb]
        · rw [if_neg hb, if_neg hb, Store.get, if_neg (by omega)]
      · simp only [Store.get]
        by_cases hk : k = b
        · rw [if_pos hk, if_neg (by omega), if_pos hk]
        · rw [if_neg hk, if_neg hk, ih h.2]

/-- A read after a list was written. -/
theorem Store.get_setList {n : Nat} (xs : List (BitVec n)) {m : Store n} {a b : Nat} (hw : m.wf = true) :
    (m.setList a xs).get b = if h : a ≤ b ∧ b - a < xs.length then xs[b - a] else m.get b := by
  induction xs generalizing m a with
  | nil => simp [Store.setList]
  | cons x xs ih =>
    simp only [Store.setList]
    rw [ih (Store.wf_set hw), Store.get_set hw]
    by_cases h0 : b = a
    · subst b
      rw [dif_neg (by omega), if_pos rfl, dif_pos ⟨by omega, by simp⟩]
      simp
    · by_cases h1 : a + 1 ≤ b ∧ b - (a + 1) < xs.length
      · rw [dif_pos h1, dif_pos ⟨by omega, by simp only [List.length_cons]; omega⟩]
        have : b - a = (b - (a + 1)) + 1 := by omega
        simp only [this, List.getElem_cons_succ]
      · rw [dif_neg h1, if_neg h0, dif_neg]
        simp only [List.length_cons]; omega

theorem length_bytesOfNat (n x : Nat) : (bytesOfNat n x).length = n := by
  induction n generalizing x with
  | zero => rfl
  | succ n ih => simp [bytesOfNat, ih]

/-- Outside the bytes written a number's write leaves every byte as it was. -/
theorem Store.get_setNum_of_not_mem {m : Bytes} {a n x b : Nat} (hw : m.wf = true) (h : b < a ∨ a + n ≤ b) :
    (Store.setNum m a n x).get b = m.get b := by
  rw [Store.setNum, Store.get_setList _ hw, dif_neg]
  rw [length_bytesOfNat]; omega

theorem Store.getList_set_of_lt {n : Nat} {m : Store n} {a b k : Nat} {x : BitVec n} (hw : m.wf = true) (h : a < b) :
    (m.set a x).getList b k = m.getList b k := by
  induction k generalizing b with
  | zero => rfl
  | succ k ih => rw [Store.getList, Store.getList, Store.get_set hw, if_neg (by omega), ih (by omega)]

/-- Writing a list and reading it back. -/
theorem Store.getList_setList {n : Nat} (xs : List (BitVec n)) {m : Store n} {a : Nat} (hw : m.wf = true) :
    (m.setList a xs).getList a xs.length = xs := by
  apply List.ext_getElem
  · clear hw
    generalize m.setList a xs = m'
    generalize xs.length = k
    induction k generalizing a with
    | zero => rfl
    | succ k ih => simp [Store.getList, ih]
  · intro i h1 h2
    have key : ∀ (m' : Store n) (k a i : Nat) (h : i < (m'.getList a k).length), (m'.getList a k)[i] = m'.get (a + i) := by
      intro m' k
      induction k with
      | zero => intro a i h; simp [Store.getList] at h
      | succ k ih =>
        intro a i h
        cases i with
        | zero => rfl
        | succ i =>
          simp only [Store.getList, List.getElem_cons_succ]
          rw [ih]; congr 1; omega
    rw [key, Store.get_setList xs hw, dif_pos ⟨by omega, by simpa using h2⟩]
    congr 1; omega

/-- The number in n bytes is the number written, modulo 256 to the n. -/
theorem natOfBytes_bytesOfNat (n x : Nat) : natOfBytes (bytesOfNat n x) = x % 256 ^ n := by
  induction n generalizing x with
  | zero => simp [bytesOfNat, natOfBytes, Nat.mod_one]
  | succ n ih =>
    simp only [bytesOfNat, natOfBytes, ih, BitVec.toNat_ofNat]
    rw [show (256 : Nat) ^ (n + 1) = 256 * 256 ^ n from Nat.pow_succ', Nat.mod_mul]

/-- A number written and read back at the same place. -/
theorem Store.num_setNum {m : Bytes} {a n x : Nat} (hw : m.wf = true) :
    Store.num (Store.setNum m a n x) a n = x % 256 ^ n := by
  rw [Store.num, Store.setNum]
  have h := Store.getList_setList (bytesOfNat n x) (m := m) (a := a) hw
  rw [length_bytesOfNat] at h
  rw [h, natOfBytes_bytesOfNat]

/-- Two canonical stores that read alike everywhere are the same data. -/
theorem Store.ext_of_wf {n : Nat} {m m' : Store n} (hw : m.wf = true) (hw' : m'.wf = true)
    (h : ∀ a, m.get a = m'.get a) : m = m' := by
  induction m generalizing m' with
  | nil =>
    cases m' with
    | nil => rfl
    | cons e r =>
      obtain ⟨k, x⟩ := e
      simp only [Store.wf, Bool.and_eq_true, decide_eq_true_eq] at hw'
      have := h k; simp [Store.get] at this; exact absurd this.symm hw'.1.1
  | cons e r ih =>
    obtain ⟨k, x⟩ := e
    have hwk := hw
    simp only [Store.wf, Bool.and_eq_true, decide_eq_true_eq] at hwk
    cases m' with
    | nil => have := h k; simp [Store.get] at this; exact absurd this hwk.1.1
    | cons e' r' =>
      obtain ⟨k', x'⟩ := e'
      have hwk' := hw'
      simp only [Store.wf, Bool.and_eq_true, decide_eq_true_eq] at hwk'
      have hk : k = k' := by
        rcases Nat.lt_trichotomy k k' with hlt | heq | hgt
        · have := h k
          rw [Store.get_of_above hw' (by simpa [Store.above])] at this
          simp [Store.get] at this; exact absurd this hwk.1.1
        · exact heq
        · have := h k'
          rw [Store.get_of_above hw (by simpa [Store.above])] at this
          simp [Store.get] at this; exact absurd this.symm hwk'.1.1
      subst k'
      have hx : x = x' := by have := h k; simpa [Store.get] using this
      subst x'
      congr 1
      apply ih hwk.2 hwk'.2
      intro a
      by_cases ha : a = k
      · subst a; rw [Store.get_of_above hwk.2 hwk.1.2, Store.get_of_above hwk'.2 hwk'.1.2]
      · have := h a
        rwa [Store.get, Store.get, if_neg (by omega), if_neg (by omega)] at this

end Sys2Proof.Machine
end

