-- ==== Sys2Proof/Laws/State.lean ====
section
/-!
SUPPORT. What each update of the package's state and of a panel context does to each field, one lemma per field and update.
-/

namespace Sys2Proof.Machine

/-! Reset. -/

/-- Both memories have their canonical form at reset: they list nothing. -/
theorem reset_memories_wf : Memory.wf State.reset.hbm = true ∧ Memory.wf State.reset.hostMem = true := ⟨rfl, rfl⟩

/-! A context replaced. -/

@[simp] theorem State.putCtx_gcyc (x : State) (c : Ctx) : (x.putCtx c).gcyc = x.gcyc := rfl
@[simp] theorem State.putCtx_agenda (x : State) (c : Ctx) : (x.putCtx c).agenda = x.agenda := rfl
@[simp] theorem State.putCtx_cur (x : State) (c : Ctx) : (x.putCtx c).cur = x.cur := rfl
@[simp] theorem State.putCtx_fresh (x : State) (c : Ctx) : (x.putCtx c).fresh = x.fresh := rfl
@[simp] theorem State.putCtx_ctxs (x : State) (c : Ctx) : (x.putCtx c).ctxs = x.ctxs.map (fun d => if d.id.panel == c.id.panel then c else d) := rfl
@[simp] theorem State.putCtx_hbm (x : State) (c : Ctx) : (x.putCtx c).hbm = x.hbm := rfl
@[simp] theorem State.putCtx_hostMem (x : State) (c : Ctx) : (x.putCtx c).hostMem = x.hostMem := rfl
@[simp] theorem State.putCtx_writes (x : State) (c : Ctx) : (x.putCtx c).writes = x.writes := rfl
@[simp] theorem State.putCtx_badHbm (x : State) (c : Ctx) : (x.putCtx c).badHbm = x.badHbm := rfl
@[simp] theorem State.putCtx_sheets (x : State) (c : Ctx) : (x.putCtx c).sheets = x.sheets := rfl
@[simp] theorem State.putCtx_bar0 (x : State) (c : Ctx) : (x.putCtx c).bar0 = x.bar0 := rfl
@[simp] theorem State.putCtx_queues (x : State) (c : Ctx) : (x.putCtx c).queues = x.queues := rfl
@[simp] theorem State.putCtx_packets (x : State) (c : Ctx) : (x.putCtx c).packets = x.packets := rfl
@[simp] theorem State.putCtx_ring (x : State) (c : Ctx) : (x.putCtx c).ring = x.ring := rfl
@[simp] theorem State.putCtx_accepted (x : State) (c : Ctx) : (x.putCtx c).accepted = x.accepted := rfl
@[simp] theorem State.putCtx_arrivals (x : State) (c : Ctx) : (x.putCtx c).arrivals = x.arrivals := rfl
@[simp] theorem State.putCtx_images (x : State) (c : Ctx) : (x.putCtx c).images = x.images := rfl
@[simp] theorem State.putCtx_slots (x : State) (c : Ctx) : (x.putCtx c).slots = x.slots := rfl
@[simp] theorem State.putCtx_policy (x : State) (c : Ctx) : (x.putCtx c).policy = x.policy := rfl
@[simp] theorem State.putCtx_settings (x : State) (c : Ctx) : (x.putCtx c).settings = x.settings := rfl
@[simp] theorem State.putCtx_islands (x : State) (c : Ctx) : (x.putCtx c).islands = x.islands := rfl
@[simp] theorem State.putCtx_pool (x : State) (c : Ctx) : (x.putCtx c).pool = x.pool := rfl
@[simp] theorem State.putCtx_links (x : State) (c : Ctx) : (x.putCtx c).links = x.links := rfl
@[simp] theorem State.putCtx_spanTable (x : State) (c : Ctx) : (x.putCtx c).spanTable = x.spanTable := rfl
@[simp] theorem State.putCtx_borderFlight (x : State) (c : Ctx) : (x.putCtx c).borderFlight = x.borderFlight := rfl
@[simp] theorem State.putCtx_net (x : State) (c : Ctx) : (x.putCtx c).net = x.net := rfl
@[simp] theorem State.putCtx_remote (x : State) (c : Ctx) : (x.putCtx c).remote = x.remote := rfl
@[simp] theorem State.putCtx_fleet (x : State) (c : Ctx) : (x.putCtx c).fleet = x.fleet := rfl
@[simp] theorem State.putCtx_flash (x : State) (c : Ctx) : (x.putCtx c).flash = x.flash := rfl
@[simp] theorem State.putCtx_boot (x : State) (c : Ctx) : (x.putCtx c).boot = x.boot := rfl
@[simp] theorem State.putCtx_inputs (x : State) (c : Ctx) : (x.putCtx c).inputs = x.inputs := rfl
@[simp] theorem State.putCtx_outputs (x : State) (c : Ctx) : (x.putCtx c).outputs = x.outputs := rfl

/-! A sheet replaced. -/

@[simp] theorem State.putSheet_gcyc (x : State) (k : Nat) (y : Sheet) : (x.putSheet k y).gcyc = x.gcyc := rfl
@[simp] theorem State.putSheet_agenda (x : State) (k : Nat) (y : Sheet) : (x.putSheet k y).agenda = x.agenda := rfl
@[simp] theorem State.putSheet_cur (x : State) (k : Nat) (y : Sheet) : (x.putSheet k y).cur = x.cur := rfl
@[simp] theorem State.putSheet_fresh (x : State) (k : Nat) (y : Sheet) : (x.putSheet k y).fresh = x.fresh := rfl
@[simp] theorem State.putSheet_ctxs (x : State) (k : Nat) (y : Sheet) : (x.putSheet k y).ctxs = x.ctxs := rfl
@[simp] theorem State.putSheet_hbm (x : State) (k : Nat) (y : Sheet) : (x.putSheet k y).hbm = x.hbm := rfl
@[simp] theorem State.putSheet_hostMem (x : State) (k : Nat) (y : Sheet) : (x.putSheet k y).hostMem = x.hostMem := rfl
@[simp] theorem State.putSheet_writes (x : State) (k : Nat) (y : Sheet) : (x.putSheet k y).writes = x.writes := rfl
@[simp] theorem State.putSheet_badHbm (x : State) (k : Nat) (y : Sheet) : (x.putSheet k y).badHbm = x.badHbm := rfl
@[simp] theorem State.putSheet_sheets (x : State) (k : Nat) (y : Sheet) : (x.putSheet k y).sheets = vset x.sheets k y := rfl
@[simp] theorem State.putSheet_bar0 (x : State) (k : Nat) (y : Sheet) : (x.putSheet k y).bar0 = x.bar0 := rfl
@[simp] theorem State.putSheet_queues (x : State) (k : Nat) (y : Sheet) : (x.putSheet k y).queues = x.queues := rfl
@[simp] theorem State.putSheet_packets (x : State) (k : Nat) (y : Sheet) : (x.putSheet k y).packets = x.packets := rfl
@[simp] theorem State.putSheet_ring (x : State) (k : Nat) (y : Sheet) : (x.putSheet k y).ring = x.ring := rfl
@[simp] theorem State.putSheet_accepted (x : State) (k : Nat) (y : Sheet) : (x.putSheet k y).accepted = x.accepted := rfl
@[simp] theorem State.putSheet_arrivals (x : State) (k : Nat) (y : Sheet) : (x.putSheet k y).arrivals = x.arrivals := rfl
@[simp] theorem State.putSheet_images (x : State) (k : Nat) (y : Sheet) : (x.putSheet k y).images = x.images := rfl
@[simp] theorem State.putSheet_slots (x : State) (k : Nat) (y : Sheet) : (x.putSheet k y).slots = x.slots := rfl
@[simp] theorem State.putSheet_policy (x : State) (k : Nat) (y : Sheet) : (x.putSheet k y).policy = x.policy := rfl
@[simp] theorem State.putSheet_settings (x : State) (k : Nat) (y : Sheet) : (x.putSheet k y).settings = x.settings := rfl
@[simp] theorem State.putSheet_islands (x : State) (k : Nat) (y : Sheet) : (x.putSheet k y).islands = x.islands := rfl
@[simp] theorem State.putSheet_pool (x : State) (k : Nat) (y : Sheet) : (x.putSheet k y).pool = x.pool := rfl
@[simp] theorem State.putSheet_links (x : State) (k : Nat) (y : Sheet) : (x.putSheet k y).links = x.links := rfl
@[simp] theorem State.putSheet_spanTable (x : State) (k : Nat) (y : Sheet) : (x.putSheet k y).spanTable = x.spanTable := rfl
@[simp] theorem State.putSheet_borderFlight (x : State) (k : Nat) (y : Sheet) : (x.putSheet k y).borderFlight = x.borderFlight := rfl
@[simp] theorem State.putSheet_net (x : State) (k : Nat) (y : Sheet) : (x.putSheet k y).net = x.net := rfl
@[simp] theorem State.putSheet_remote (x : State) (k : Nat) (y : Sheet) : (x.putSheet k y).remote = x.remote := rfl
@[simp] theorem State.putSheet_fleet (x : State) (k : Nat) (y : Sheet) : (x.putSheet k y).fleet = x.fleet := rfl
@[simp] theorem State.putSheet_flash (x : State) (k : Nat) (y : Sheet) : (x.putSheet k y).flash = x.flash := rfl
@[simp] theorem State.putSheet_boot (x : State) (k : Nat) (y : Sheet) : (x.putSheet k y).boot = x.boot := rfl
@[simp] theorem State.putSheet_inputs (x : State) (k : Nat) (y : Sheet) : (x.putSheet k y).inputs = x.inputs := rfl
@[simp] theorem State.putSheet_outputs (x : State) (k : Nat) (y : Sheet) : (x.putSheet k y).outputs = x.outputs := rfl

/-! An island replaced. -/

@[simp] theorem State.putIsland_gcyc (x : State) (k : Nat) (y : Island) : (x.putIsland k y).gcyc = x.gcyc := rfl
@[simp] theorem State.putIsland_agenda (x : State) (k : Nat) (y : Island) : (x.putIsland k y).agenda = x.agenda := rfl
@[simp] theorem State.putIsland_cur (x : State) (k : Nat) (y : Island) : (x.putIsland k y).cur = x.cur := rfl
@[simp] theorem State.putIsland_fresh (x : State) (k : Nat) (y : Island) : (x.putIsland k y).fresh = x.fresh := rfl
@[simp] theorem State.putIsland_ctxs (x : State) (k : Nat) (y : Island) : (x.putIsland k y).ctxs = x.ctxs := rfl
@[simp] theorem State.putIsland_hbm (x : State) (k : Nat) (y : Island) : (x.putIsland k y).hbm = x.hbm := rfl
@[simp] theorem State.putIsland_hostMem (x : State) (k : Nat) (y : Island) : (x.putIsland k y).hostMem = x.hostMem := rfl
@[simp] theorem State.putIsland_writes (x : State) (k : Nat) (y : Island) : (x.putIsland k y).writes = x.writes := rfl
@[simp] theorem State.putIsland_badHbm (x : State) (k : Nat) (y : Island) : (x.putIsland k y).badHbm = x.badHbm := rfl
@[simp] theorem State.putIsland_sheets (x : State) (k : Nat) (y : Island) : (x.putIsland k y).sheets = x.sheets := rfl
@[simp] theorem State.putIsland_bar0 (x : State) (k : Nat) (y : Island) : (x.putIsland k y).bar0 = x.bar0 := rfl
@[simp] theorem State.putIsland_queues (x : State) (k : Nat) (y : Island) : (x.putIsland k y).queues = x.queues := rfl
@[simp] theorem State.putIsland_packets (x : State) (k : Nat) (y : Island) : (x.putIsland k y).packets = x.packets := rfl
@[simp] theorem State.putIsland_ring (x : State) (k : Nat) (y : Island) : (x.putIsland k y).ring = x.ring := rfl
@[simp] theorem State.putIsland_accepted (x : State) (k : Nat) (y : Island) : (x.putIsland k y).accepted = x.accepted := rfl
@[simp] theorem State.putIsland_arrivals (x : State) (k : Nat) (y : Island) : (x.putIsland k y).arrivals = x.arrivals := rfl
@[simp] theorem State.putIsland_images (x : State) (k : Nat) (y : Island) : (x.putIsland k y).images = x.images := rfl
@[simp] theorem State.putIsland_slots (x : State) (k : Nat) (y : Island) : (x.putIsland k y).slots = x.slots := rfl
@[simp] theorem State.putIsland_policy (x : State) (k : Nat) (y : Island) : (x.putIsland k y).policy = x.policy := rfl
@[simp] theorem State.putIsland_settings (x : State) (k : Nat) (y : Island) : (x.putIsland k y).settings = x.settings := rfl
@[simp] theorem State.putIsland_islands (x : State) (k : Nat) (y : Island) : (x.putIsland k y).islands = vset x.islands k y := rfl
@[simp] theorem State.putIsland_pool (x : State) (k : Nat) (y : Island) : (x.putIsland k y).pool = x.pool := rfl
@[simp] theorem State.putIsland_links (x : State) (k : Nat) (y : Island) : (x.putIsland k y).links = x.links := rfl
@[simp] theorem State.putIsland_spanTable (x : State) (k : Nat) (y : Island) : (x.putIsland k y).spanTable = x.spanTable := rfl
@[simp] theorem State.putIsland_borderFlight (x : State) (k : Nat) (y : Island) : (x.putIsland k y).borderFlight = x.borderFlight := rfl
@[simp] theorem State.putIsland_net (x : State) (k : Nat) (y : Island) : (x.putIsland k y).net = x.net := rfl
@[simp] theorem State.putIsland_remote (x : State) (k : Nat) (y : Island) : (x.putIsland k y).remote = x.remote := rfl
@[simp] theorem State.putIsland_fleet (x : State) (k : Nat) (y : Island) : (x.putIsland k y).fleet = x.fleet := rfl
@[simp] theorem State.putIsland_flash (x : State) (k : Nat) (y : Island) : (x.putIsland k y).flash = x.flash := rfl
@[simp] theorem State.putIsland_boot (x : State) (k : Nat) (y : Island) : (x.putIsland k y).boot = x.boot := rfl
@[simp] theorem State.putIsland_inputs (x : State) (k : Nat) (y : Island) : (x.putIsland k y).inputs = x.inputs := rfl
@[simp] theorem State.putIsland_outputs (x : State) (k : Nat) (y : Island) : (x.putIsland k y).outputs = x.outputs := rfl

/-! A queue replaced. -/

@[simp] theorem State.putQueue_gcyc (x : State) (k : Nat) (y : HostQueue) : (x.putQueue k y).gcyc = x.gcyc := rfl
@[simp] theorem State.putQueue_agenda (x : State) (k : Nat) (y : HostQueue) : (x.putQueue k y).agenda = x.agenda := rfl
@[simp] theorem State.putQueue_cur (x : State) (k : Nat) (y : HostQueue) : (x.putQueue k y).cur = x.cur := rfl
@[simp] theorem State.putQueue_fresh (x : State) (k : Nat) (y : HostQueue) : (x.putQueue k y).fresh = x.fresh := rfl
@[simp] theorem State.putQueue_ctxs (x : State) (k : Nat) (y : HostQueue) : (x.putQueue k y).ctxs = x.ctxs := rfl
@[simp] theorem State.putQueue_hbm (x : State) (k : Nat) (y : HostQueue) : (x.putQueue k y).hbm = x.hbm := rfl
@[simp] theorem State.putQueue_hostMem (x : State) (k : Nat) (y : HostQueue) : (x.putQueue k y).hostMem = x.hostMem := rfl
@[simp] theorem State.putQueue_writes (x : State) (k : Nat) (y : HostQueue) : (x.putQueue k y).writes = x.writes := rfl
@[simp] theorem State.putQueue_badHbm (x : State) (k : Nat) (y : HostQueue) : (x.putQueue k y).badHbm = x.badHbm := rfl
@[simp] theorem State.putQueue_sheets (x : State) (k : Nat) (y : HostQueue) : (x.putQueue k y).sheets = x.sheets := rfl
@[simp] theorem State.putQueue_bar0 (x : State) (k : Nat) (y : HostQueue) : (x.putQueue k y).bar0 = x.bar0 := rfl
@[simp] theorem State.putQueue_queues (x : State) (k : Nat) (y : HostQueue) : (x.putQueue k y).queues = vset x.queues k y := rfl
@[simp] theorem State.putQueue_packets (x : State) (k : Nat) (y : HostQueue) : (x.putQueue k y).packets = x.packets := rfl
@[simp] theorem State.putQueue_ring (x : State) (k : Nat) (y : HostQueue) : (x.putQueue k y).ring = x.ring := rfl
@[simp] theorem State.putQueue_accepted (x : State) (k : Nat) (y : HostQueue) : (x.putQueue k y).accepted = x.accepted := rfl
@[simp] theorem State.putQueue_arrivals (x : State) (k : Nat) (y : HostQueue) : (x.putQueue k y).arrivals = x.arrivals := rfl
@[simp] theorem State.putQueue_images (x : State) (k : Nat) (y : HostQueue) : (x.putQueue k y).images = x.images := rfl
@[simp] theorem State.putQueue_slots (x : State) (k : Nat) (y : HostQueue) : (x.putQueue k y).slots = x.slots := rfl
@[simp] theorem State.putQueue_policy (x : State) (k : Nat) (y : HostQueue) : (x.putQueue k y).policy = x.policy := rfl
@[simp] theorem State.putQueue_settings (x : State) (k : Nat) (y : HostQueue) : (x.putQueue k y).settings = x.settings := rfl
@[simp] theorem State.putQueue_islands (x : State) (k : Nat) (y : HostQueue) : (x.putQueue k y).islands = x.islands := rfl
@[simp] theorem State.putQueue_pool (x : State) (k : Nat) (y : HostQueue) : (x.putQueue k y).pool = x.pool := rfl
@[simp] theorem State.putQueue_links (x : State) (k : Nat) (y : HostQueue) : (x.putQueue k y).links = x.links := rfl
@[simp] theorem State.putQueue_spanTable (x : State) (k : Nat) (y : HostQueue) : (x.putQueue k y).spanTable = x.spanTable := rfl
@[simp] theorem State.putQueue_borderFlight (x : State) (k : Nat) (y : HostQueue) : (x.putQueue k y).borderFlight = x.borderFlight := rfl
@[simp] theorem State.putQueue_net (x : State) (k : Nat) (y : HostQueue) : (x.putQueue k y).net = x.net := rfl
@[simp] theorem State.putQueue_remote (x : State) (k : Nat) (y : HostQueue) : (x.putQueue k y).remote = x.remote := rfl
@[simp] theorem State.putQueue_fleet (x : State) (k : Nat) (y : HostQueue) : (x.putQueue k y).fleet = x.fleet := rfl
@[simp] theorem State.putQueue_flash (x : State) (k : Nat) (y : HostQueue) : (x.putQueue k y).flash = x.flash := rfl
@[simp] theorem State.putQueue_boot (x : State) (k : Nat) (y : HostQueue) : (x.putQueue k y).boot = x.boot := rfl
@[simp] theorem State.putQueue_inputs (x : State) (k : Nat) (y : HostQueue) : (x.putQueue k y).inputs = x.inputs := rfl
@[simp] theorem State.putQueue_outputs (x : State) (k : Nat) (y : HostQueue) : (x.putQueue k y).outputs = x.outputs := rfl

/-! A packet replaced. -/

@[simp] theorem State.putPacket_gcyc (x : State) (y : Packet) : (x.putPacket y).gcyc = x.gcyc := rfl
@[simp] theorem State.putPacket_agenda (x : State) (y : Packet) : (x.putPacket y).agenda = x.agenda := rfl
@[simp] theorem State.putPacket_cur (x : State) (y : Packet) : (x.putPacket y).cur = x.cur := rfl
@[simp] theorem State.putPacket_fresh (x : State) (y : Packet) : (x.putPacket y).fresh = x.fresh := rfl
@[simp] theorem State.putPacket_ctxs (x : State) (y : Packet) : (x.putPacket y).ctxs = x.ctxs := rfl
@[simp] theorem State.putPacket_hbm (x : State) (y : Packet) : (x.putPacket y).hbm = x.hbm := rfl
@[simp] theorem State.putPacket_hostMem (x : State) (y : Packet) : (x.putPacket y).hostMem = x.hostMem := rfl
@[simp] theorem State.putPacket_writes (x : State) (y : Packet) : (x.putPacket y).writes = x.writes := rfl
@[simp] theorem State.putPacket_badHbm (x : State) (y : Packet) : (x.putPacket y).badHbm = x.badHbm := rfl
@[simp] theorem State.putPacket_sheets (x : State) (y : Packet) : (x.putPacket y).sheets = x.sheets := rfl
@[simp] theorem State.putPacket_bar0 (x : State) (y : Packet) : (x.putPacket y).bar0 = x.bar0 := rfl
@[simp] theorem State.putPacket_queues (x : State) (y : Packet) : (x.putPacket y).queues = x.queues := rfl
@[simp] theorem State.putPacket_packets (x : State) (y : Packet) : (x.putPacket y).packets = x.packets.map fun z => if z.id = y.id then y else z := rfl
@[simp] theorem State.putPacket_ring (x : State) (y : Packet) : (x.putPacket y).ring = x.ring := rfl
@[simp] theorem State.putPacket_accepted (x : State) (y : Packet) : (x.putPacket y).accepted = x.accepted := rfl
@[simp] theorem State.putPacket_arrivals (x : State) (y : Packet) : (x.putPacket y).arrivals = x.arrivals := rfl
@[simp] theorem State.putPacket_images (x : State) (y : Packet) : (x.putPacket y).images = x.images := rfl
@[simp] theorem State.putPacket_slots (x : State) (y : Packet) : (x.putPacket y).slots = x.slots := rfl
@[simp] theorem State.putPacket_policy (x : State) (y : Packet) : (x.putPacket y).policy = x.policy := rfl
@[simp] theorem State.putPacket_settings (x : State) (y : Packet) : (x.putPacket y).settings = x.settings := rfl
@[simp] theorem State.putPacket_islands (x : State) (y : Packet) : (x.putPacket y).islands = x.islands := rfl
@[simp] theorem State.putPacket_pool (x : State) (y : Packet) : (x.putPacket y).pool = x.pool := rfl
@[simp] theorem State.putPacket_links (x : State) (y : Packet) : (x.putPacket y).links = x.links := rfl
@[simp] theorem State.putPacket_spanTable (x : State) (y : Packet) : (x.putPacket y).spanTable = x.spanTable := rfl
@[simp] theorem State.putPacket_borderFlight (x : State) (y : Packet) : (x.putPacket y).borderFlight = x.borderFlight := rfl
@[simp] theorem State.putPacket_net (x : State) (y : Packet) : (x.putPacket y).net = x.net := rfl
@[simp] theorem State.putPacket_remote (x : State) (y : Packet) : (x.putPacket y).remote = x.remote := rfl
@[simp] theorem State.putPacket_fleet (x : State) (y : Packet) : (x.putPacket y).fleet = x.fleet := rfl
@[simp] theorem State.putPacket_flash (x : State) (y : Packet) : (x.putPacket y).flash = x.flash := rfl
@[simp] theorem State.putPacket_boot (x : State) (y : Packet) : (x.putPacket y).boot = x.boot := rfl
@[simp] theorem State.putPacket_inputs (x : State) (y : Packet) : (x.putPacket y).inputs = x.inputs := rfl
@[simp] theorem State.putPacket_outputs (x : State) (y : Packet) : (x.putPacket y).outputs = x.outputs := rfl

/-! A message for the outside world. -/

@[simp] theorem State.emit_gcyc (x : State) (o : Output) : (x.emit o).gcyc = x.gcyc := rfl
@[simp] theorem State.emit_agenda (x : State) (o : Output) : (x.emit o).agenda = x.agenda := rfl
@[simp] theorem State.emit_cur (x : State) (o : Output) : (x.emit o).cur = x.cur := rfl
@[simp] theorem State.emit_fresh (x : State) (o : Output) : (x.emit o).fresh = x.fresh := rfl
@[simp] theorem State.emit_ctxs (x : State) (o : Output) : (x.emit o).ctxs = x.ctxs := rfl
@[simp] theorem State.emit_hbm (x : State) (o : Output) : (x.emit o).hbm = x.hbm := rfl
@[simp] theorem State.emit_hostMem (x : State) (o : Output) : (x.emit o).hostMem = x.hostMem := rfl
@[simp] theorem State.emit_writes (x : State) (o : Output) : (x.emit o).writes = x.writes := rfl
@[simp] theorem State.emit_badHbm (x : State) (o : Output) : (x.emit o).badHbm = x.badHbm := rfl
@[simp] theorem State.emit_sheets (x : State) (o : Output) : (x.emit o).sheets = x.sheets := rfl
@[simp] theorem State.emit_bar0 (x : State) (o : Output) : (x.emit o).bar0 = x.bar0 := rfl
@[simp] theorem State.emit_queues (x : State) (o : Output) : (x.emit o).queues = x.queues := rfl
@[simp] theorem State.emit_packets (x : State) (o : Output) : (x.emit o).packets = x.packets := rfl
@[simp] theorem State.emit_ring (x : State) (o : Output) : (x.emit o).ring = x.ring := rfl
@[simp] theorem State.emit_accepted (x : State) (o : Output) : (x.emit o).accepted = x.accepted := rfl
@[simp] theorem State.emit_arrivals (x : State) (o : Output) : (x.emit o).arrivals = x.arrivals := rfl
@[simp] theorem State.emit_images (x : State) (o : Output) : (x.emit o).images = x.images := rfl
@[simp] theorem State.emit_slots (x : State) (o : Output) : (x.emit o).slots = x.slots := rfl
@[simp] theorem State.emit_policy (x : State) (o : Output) : (x.emit o).policy = x.policy := rfl
@[simp] theorem State.emit_settings (x : State) (o : Output) : (x.emit o).settings = x.settings := rfl
@[simp] theorem State.emit_islands (x : State) (o : Output) : (x.emit o).islands = x.islands := rfl
@[simp] theorem State.emit_pool (x : State) (o : Output) : (x.emit o).pool = x.pool := rfl
@[simp] theorem State.emit_links (x : State) (o : Output) : (x.emit o).links = x.links := rfl
@[simp] theorem State.emit_spanTable (x : State) (o : Output) : (x.emit o).spanTable = x.spanTable := rfl
@[simp] theorem State.emit_borderFlight (x : State) (o : Output) : (x.emit o).borderFlight = x.borderFlight := rfl
@[simp] theorem State.emit_net (x : State) (o : Output) : (x.emit o).net = x.net := rfl
@[simp] theorem State.emit_remote (x : State) (o : Output) : (x.emit o).remote = x.remote := rfl
@[simp] theorem State.emit_fleet (x : State) (o : Output) : (x.emit o).fleet = x.fleet := rfl
@[simp] theorem State.emit_flash (x : State) (o : Output) : (x.emit o).flash = x.flash := rfl
@[simp] theorem State.emit_boot (x : State) (o : Output) : (x.emit o).boot = x.boot := rfl
@[simp] theorem State.emit_inputs (x : State) (o : Output) : (x.emit o).inputs = x.inputs := rfl
@[simp] theorem State.emit_outputs (x : State) (o : Output) : (x.emit o).outputs = x.outputs ++ [o] := rfl

/-! A landing. -/

@[simp] theorem Ctx.land_id (x : Ctx) (u : EngUnit) (due : Nat) (w : Write) (fl : Flags) : (x.land u due w fl).id = x.id := rfl
@[simp] theorem Ctx.land_code (x : Ctx) (u : EngUnit) (due : Nat) (w : Write) (fl : Flags) : (x.land u due w fl).code = x.code := rfl
@[simp] theorem Ctx.land_norm (x : Ctx) (u : EngUnit) (due : Nat) (w : Write) (fl : Flags) : (x.land u due w fl).norm = x.norm := rfl
@[simp] theorem Ctx.land_trapBank (x : Ctx) (u : EngUnit) (due : Nat) (w : Write) (fl : Flags) : (x.land u due w fl).trapBank = x.trapBank := rfl
@[simp] theorem Ctx.land_time (x : Ctx) (u : EngUnit) (due : Nat) (w : Write) (fl : Flags) : (x.land u due w fl).time = x.time := rfl
@[simp] theorem Ctx.land_issue (x : Ctx) (u : EngUnit) (due : Nat) (w : Write) (fl : Flags) : (x.land u due w fl).issue = x.issue := rfl
@[simp] theorem Ctx.land_trap (x : Ctx) (u : EngUnit) (due : Nat) (w : Write) (fl : Flags) : (x.land u due w fl).trap = x.trap := rfl
@[simp] theorem Ctx.land_raised (x : Ctx) (u : EngUnit) (due : Nat) (w : Write) (fl : Flags) : (x.land u due w fl).raised = x.raised := rfl
@[simp] theorem Ctx.land_preempt (x : Ctx) (u : EngUnit) (due : Nat) (w : Write) (fl : Flags) : (x.land u due w fl).preempt = x.preempt := rfl
@[simp] theorem Ctx.land_loop (x : Ctx) (u : EngUnit) (due : Nat) (w : Write) (fl : Flags) : (x.land u due w fl).loop = x.loop := rfl
@[simp] theorem Ctx.land_sys (x : Ctx) (u : EngUnit) (due : Nat) (w : Write) (fl : Flags) : (x.land u due w fl).sys = x.sys := rfl
@[simp] theorem Ctx.land_adj (x : Ctx) (u : EngUnit) (due : Nat) (w : Write) (fl : Flags) : (x.land u due w fl).adj = x.adj := rfl
@[simp] theorem Ctx.land_motif (x : Ctx) (u : EngUnit) (due : Nat) (w : Write) (fl : Flags) : (x.land u due w fl).motif = x.motif := rfl
@[simp] theorem Ctx.land_spec (x : Ctx) (u : EngUnit) (due : Nat) (w : Write) (fl : Flags) : (x.land u due w fl).spec = x.spec := rfl
@[simp] theorem Ctx.land_fmt (x : Ctx) (u : EngUnit) (due : Nat) (w : Write) (fl : Flags) : (x.land u due w fl).fmt = x.fmt := rfl
@[simp] theorem Ctx.land_latch (x : Ctx) (u : EngUnit) (due : Nat) (w : Write) (fl : Flags) : (x.land u due w fl).latch = x.latch := rfl
@[simp] theorem Ctx.land_eng (x : Ctx) (u : EngUnit) (due : Nat) (w : Write) (fl : Flags) : (x.land u due w fl).eng = x.eng := rfl
@[simp] theorem Ctx.land_landings (x : Ctx) (u : EngUnit) (due : Nat) (w : Write) (fl : Flags) : (x.land u due w fl).landings = x.landings ++ [⟨x.ord, u, due, x.trap.tctx, w, fl⟩] := rfl
@[simp] theorem Ctx.land_towerOps (x : Ctx) (u : EngUnit) (due : Nat) (w : Write) (fl : Flags) : (x.land u due w fl).towerOps = x.towerOps := rfl
@[simp] theorem Ctx.land_windows (x : Ctx) (u : EngUnit) (due : Nat) (w : Write) (fl : Flags) : (x.land u due w fl).windows = x.windows := rfl
@[simp] theorem Ctx.land_flights (x : Ctx) (u : EngUnit) (due : Nat) (w : Write) (fl : Flags) : (x.land u due w fl).flights = x.flights := rfl
@[simp] theorem Ctx.land_glob (x : Ctx) (u : EngUnit) (due : Nat) (w : Write) (fl : Flags) : (x.land u due w fl).glob = x.glob := rfl
@[simp] theorem Ctx.land_outbox (x : Ctx) (u : EngUnit) (due : Nat) (w : Write) (fl : Flags) : (x.land u due w fl).outbox = x.outbox := rfl
@[simp] theorem Ctx.land_borders (x : Ctx) (u : EngUnit) (due : Nat) (w : Write) (fl : Flags) : (x.land u due w fl).borders = x.borders := rfl
@[simp] theorem Ctx.land_cells (x : Ctx) (u : EngUnit) (due : Nat) (w : Write) (fl : Flags) : (x.land u due w fl).cells = x.cells := rfl
@[simp] theorem Ctx.land_scratch (x : Ctx) (u : EngUnit) (due : Nat) (w : Write) (fl : Flags) : (x.land u due w fl).scratch = x.scratch := rfl
@[simp] theorem Ctx.land_trapMem (x : Ctx) (u : EngUnit) (due : Nat) (w : Write) (fl : Flags) : (x.land u due w fl).trapMem = x.trapMem := rfl
@[simp] theorem Ctx.land_badScratch (x : Ctx) (u : EngUnit) (due : Nat) (w : Write) (fl : Flags) : (x.land u due w fl).badScratch = x.badScratch := rfl
@[simp] theorem Ctx.land_badTrapMem (x : Ctx) (u : EngUnit) (due : Nat) (w : Write) (fl : Flags) : (x.land u due w fl).badTrapMem = x.badTrapMem := rfl
@[simp] theorem Ctx.land_jobs (x : Ctx) (u : EngUnit) (due : Nat) (w : Write) (fl : Flags) : (x.land u due w fl).jobs = x.jobs := rfl
@[simp] theorem Ctx.land_revJobs (x : Ctx) (u : EngUnit) (due : Nat) (w : Write) (fl : Flags) : (x.land u due w fl).revJobs = x.revJobs := rfl
@[simp] theorem Ctx.land_trapJobs (x : Ctx) (u : EngUnit) (due : Nat) (w : Write) (fl : Flags) : (x.land u due w fl).trapJobs = x.trapJobs := rfl
@[simp] theorem Ctx.land_committed (x : Ctx) (u : EngUnit) (due : Nat) (w : Write) (fl : Flags) : (x.land u due w fl).committed = x.committed := rfl
@[simp] theorem Ctx.land_finished (x : Ctx) (u : EngUnit) (due : Nat) (w : Write) (fl : Flags) : (x.land u due w fl).finished = x.finished := rfl
@[simp] theorem Ctx.land_ord (x : Ctx) (u : EngUnit) (due : Nat) (w : Write) (fl : Flags) : (x.land u due w fl).ord = x.ord := rfl
@[simp] theorem Ctx.land_fresh (x : Ctx) (u : EngUnit) (due : Nat) (w : Write) (fl : Flags) : (x.land u due w fl).fresh = x.fresh := rfl

/-! A cell replaced. -/

@[simp] theorem Ctx.setCell_id (x : Ctx) (n : Nat) (y : Cell) : (x.setCell n y).id = x.id := rfl
@[simp] theorem Ctx.setCell_code (x : Ctx) (n : Nat) (y : Cell) : (x.setCell n y).code = x.code := rfl
@[simp] theorem Ctx.setCell_norm (x : Ctx) (n : Nat) (y : Cell) : (x.setCell n y).norm = x.norm := rfl
@[simp] theorem Ctx.setCell_trapBank (x : Ctx) (n : Nat) (y : Cell) : (x.setCell n y).trapBank = x.trapBank := rfl
@[simp] theorem Ctx.setCell_time (x : Ctx) (n : Nat) (y : Cell) : (x.setCell n y).time = x.time := rfl
@[simp] theorem Ctx.setCell_issue (x : Ctx) (n : Nat) (y : Cell) : (x.setCell n y).issue = x.issue := rfl
@[simp] theorem Ctx.setCell_trap (x : Ctx) (n : Nat) (y : Cell) : (x.setCell n y).trap = x.trap := rfl
@[simp] theorem Ctx.setCell_raised (x : Ctx) (n : Nat) (y : Cell) : (x.setCell n y).raised = x.raised := rfl
@[simp] theorem Ctx.setCell_preempt (x : Ctx) (n : Nat) (y : Cell) : (x.setCell n y).preempt = x.preempt := rfl
@[simp] theorem Ctx.setCell_loop (x : Ctx) (n : Nat) (y : Cell) : (x.setCell n y).loop = x.loop := rfl
@[simp] theorem Ctx.setCell_sys (x : Ctx) (n : Nat) (y : Cell) : (x.setCell n y).sys = x.sys := rfl
@[simp] theorem Ctx.setCell_adj (x : Ctx) (n : Nat) (y : Cell) : (x.setCell n y).adj = x.adj := rfl
@[simp] theorem Ctx.setCell_motif (x : Ctx) (n : Nat) (y : Cell) : (x.setCell n y).motif = x.motif := rfl
@[simp] theorem Ctx.setCell_spec (x : Ctx) (n : Nat) (y : Cell) : (x.setCell n y).spec = x.spec := rfl
@[simp] theorem Ctx.setCell_fmt (x : Ctx) (n : Nat) (y : Cell) : (x.setCell n y).fmt = x.fmt := rfl
@[simp] theorem Ctx.setCell_latch (x : Ctx) (n : Nat) (y : Cell) : (x.setCell n y).latch = x.latch := rfl
@[simp] theorem Ctx.setCell_eng (x : Ctx) (n : Nat) (y : Cell) : (x.setCell n y).eng = x.eng := rfl
@[simp] theorem Ctx.setCell_landings (x : Ctx) (n : Nat) (y : Cell) : (x.setCell n y).landings = x.landings := rfl
@[simp] theorem Ctx.setCell_towerOps (x : Ctx) (n : Nat) (y : Cell) : (x.setCell n y).towerOps = x.towerOps := rfl
@[simp] theorem Ctx.setCell_windows (x : Ctx) (n : Nat) (y : Cell) : (x.setCell n y).windows = x.windows := rfl
@[simp] theorem Ctx.setCell_flights (x : Ctx) (n : Nat) (y : Cell) : (x.setCell n y).flights = x.flights := rfl
@[simp] theorem Ctx.setCell_glob (x : Ctx) (n : Nat) (y : Cell) : (x.setCell n y).glob = x.glob := rfl
@[simp] theorem Ctx.setCell_outbox (x : Ctx) (n : Nat) (y : Cell) : (x.setCell n y).outbox = x.outbox := rfl
@[simp] theorem Ctx.setCell_borders (x : Ctx) (n : Nat) (y : Cell) : (x.setCell n y).borders = x.borders := rfl
@[simp] theorem Ctx.setCell_cells (x : Ctx) (n : Nat) (y : Cell) : (x.setCell n y).cells = vset x.cells n y := rfl
@[simp] theorem Ctx.setCell_scratch (x : Ctx) (n : Nat) (y : Cell) : (x.setCell n y).scratch = x.scratch := rfl
@[simp] theorem Ctx.setCell_trapMem (x : Ctx) (n : Nat) (y : Cell) : (x.setCell n y).trapMem = x.trapMem := rfl
@[simp] theorem Ctx.setCell_badScratch (x : Ctx) (n : Nat) (y : Cell) : (x.setCell n y).badScratch = x.badScratch := rfl
@[simp] theorem Ctx.setCell_badTrapMem (x : Ctx) (n : Nat) (y : Cell) : (x.setCell n y).badTrapMem = x.badTrapMem := rfl
@[simp] theorem Ctx.setCell_jobs (x : Ctx) (n : Nat) (y : Cell) : (x.setCell n y).jobs = x.jobs := rfl
@[simp] theorem Ctx.setCell_revJobs (x : Ctx) (n : Nat) (y : Cell) : (x.setCell n y).revJobs = x.revJobs := rfl
@[simp] theorem Ctx.setCell_trapJobs (x : Ctx) (n : Nat) (y : Cell) : (x.setCell n y).trapJobs = x.trapJobs := rfl
@[simp] theorem Ctx.setCell_committed (x : Ctx) (n : Nat) (y : Cell) : (x.setCell n y).committed = x.committed := rfl
@[simp] theorem Ctx.setCell_finished (x : Ctx) (n : Nat) (y : Cell) : (x.setCell n y).finished = x.finished := rfl
@[simp] theorem Ctx.setCell_ord (x : Ctx) (n : Nat) (y : Cell) : (x.setCell n y).ord = x.ord := rfl
@[simp] theorem Ctx.setCell_fresh (x : Ctx) (n : Nat) (y : Cell) : (x.setCell n y).fresh = x.fresh := rfl

/-! Sticky flags. -/

@[simp] theorem Ctx.setFlags_id (x : Ctx) (f : Flags) : (x.setFlags f).id = x.id := rfl
@[simp] theorem Ctx.setFlags_code (x : Ctx) (f : Flags) : (x.setFlags f).code = x.code := rfl
@[simp] theorem Ctx.setFlags_norm (x : Ctx) (f : Flags) : (x.setFlags f).norm = x.norm := rfl
@[simp] theorem Ctx.setFlags_trapBank (x : Ctx) (f : Flags) : (x.setFlags f).trapBank = x.trapBank := rfl
@[simp] theorem Ctx.setFlags_time (x : Ctx) (f : Flags) : (x.setFlags f).time = x.time := rfl
@[simp] theorem Ctx.setFlags_issue (x : Ctx) (f : Flags) : (x.setFlags f).issue = x.issue := rfl
@[simp] theorem Ctx.setFlags_trap (x : Ctx) (f : Flags) : (x.setFlags f).trap = x.trap := rfl
@[simp] theorem Ctx.setFlags_raised (x : Ctx) (f : Flags) : (x.setFlags f).raised = x.raised := rfl
@[simp] theorem Ctx.setFlags_preempt (x : Ctx) (f : Flags) : (x.setFlags f).preempt = x.preempt := rfl
@[simp] theorem Ctx.setFlags_loop (x : Ctx) (f : Flags) : (x.setFlags f).loop = x.loop := rfl
@[simp] theorem Ctx.setFlags_sys (x : Ctx) (f : Flags) : (x.setFlags f).sys = { x.sys with aflags := x.sys.aflags.or f } := rfl
@[simp] theorem Ctx.setFlags_adj (x : Ctx) (f : Flags) : (x.setFlags f).adj = x.adj := rfl
@[simp] theorem Ctx.setFlags_motif (x : Ctx) (f : Flags) : (x.setFlags f).motif = x.motif := rfl
@[simp] theorem Ctx.setFlags_spec (x : Ctx) (f : Flags) : (x.setFlags f).spec = x.spec := rfl
@[simp] theorem Ctx.setFlags_fmt (x : Ctx) (f : Flags) : (x.setFlags f).fmt = x.fmt := rfl
@[simp] theorem Ctx.setFlags_latch (x : Ctx) (f : Flags) : (x.setFlags f).latch = x.latch := rfl
@[simp] theorem Ctx.setFlags_eng (x : Ctx) (f : Flags) : (x.setFlags f).eng = x.eng := rfl
@[simp] theorem Ctx.setFlags_landings (x : Ctx) (f : Flags) : (x.setFlags f).landings = x.landings := rfl
@[simp] theorem Ctx.setFlags_towerOps (x : Ctx) (f : Flags) : (x.setFlags f).towerOps = x.towerOps := rfl
@[simp] theorem Ctx.setFlags_windows (x : Ctx) (f : Flags) : (x.setFlags f).windows = x.windows := rfl
@[simp] theorem Ctx.setFlags_flights (x : Ctx) (f : Flags) : (x.setFlags f).flights = x.flights := rfl
@[simp] theorem Ctx.setFlags_glob (x : Ctx) (f : Flags) : (x.setFlags f).glob = x.glob := rfl
@[simp] theorem Ctx.setFlags_outbox (x : Ctx) (f : Flags) : (x.setFlags f).outbox = x.outbox := rfl
@[simp] theorem Ctx.setFlags_borders (x : Ctx) (f : Flags) : (x.setFlags f).borders = x.borders := rfl
@[simp] theorem Ctx.setFlags_cells (x : Ctx) (f : Flags) : (x.setFlags f).cells = x.cells := rfl
@[simp] theorem Ctx.setFlags_scratch (x : Ctx) (f : Flags) : (x.setFlags f).scratch = x.scratch := rfl
@[simp] theorem Ctx.setFlags_trapMem (x : Ctx) (f : Flags) : (x.setFlags f).trapMem = x.trapMem := rfl
@[simp] theorem Ctx.setFlags_badScratch (x : Ctx) (f : Flags) : (x.setFlags f).badScratch = x.badScratch := rfl
@[simp] theorem Ctx.setFlags_badTrapMem (x : Ctx) (f : Flags) : (x.setFlags f).badTrapMem = x.badTrapMem := rfl
@[simp] theorem Ctx.setFlags_jobs (x : Ctx) (f : Flags) : (x.setFlags f).jobs = x.jobs := rfl
@[simp] theorem Ctx.setFlags_revJobs (x : Ctx) (f : Flags) : (x.setFlags f).revJobs = x.revJobs := rfl
@[simp] theorem Ctx.setFlags_trapJobs (x : Ctx) (f : Flags) : (x.setFlags f).trapJobs = x.trapJobs := rfl
@[simp] theorem Ctx.setFlags_committed (x : Ctx) (f : Flags) : (x.setFlags f).committed = x.committed := rfl
@[simp] theorem Ctx.setFlags_finished (x : Ctx) (f : Flags) : (x.setFlags f).finished = x.finished := rfl
@[simp] theorem Ctx.setFlags_ord (x : Ctx) (f : Flags) : (x.setFlags f).ord = x.ord := rfl
@[simp] theorem Ctx.setFlags_fresh (x : Ctx) (f : Flags) : (x.setFlags f).fresh = x.fresh := rfl

/-! A stall. -/

@[simp] theorem Ctx.stall_id (x : Ctx) : (x.stall).id = x.id := rfl
@[simp] theorem Ctx.stall_code (x : Ctx) : (x.stall).code = x.code := rfl
@[simp] theorem Ctx.stall_norm (x : Ctx) : (x.stall).norm = x.norm := rfl
@[simp] theorem Ctx.stall_trapBank (x : Ctx) : (x.stall).trapBank = x.trapBank := rfl
@[simp] theorem Ctx.stall_time (x : Ctx) : (x.stall).time = x.time := rfl
@[simp] theorem Ctx.stall_issue (x : Ctx) : (x.stall).issue = { x.issue with closed := true } := rfl
@[simp] theorem Ctx.stall_trap (x : Ctx) : (x.stall).trap = x.trap := rfl
@[simp] theorem Ctx.stall_raised (x : Ctx) : (x.stall).raised = x.raised := rfl
@[simp] theorem Ctx.stall_preempt (x : Ctx) : (x.stall).preempt = x.preempt := rfl
@[simp] theorem Ctx.stall_loop (x : Ctx) : (x.stall).loop = x.loop := rfl
@[simp] theorem Ctx.stall_sys (x : Ctx) : (x.stall).sys = x.sys := rfl
@[simp] theorem Ctx.stall_adj (x : Ctx) : (x.stall).adj = x.adj := rfl
@[simp] theorem Ctx.stall_motif (x : Ctx) : (x.stall).motif = x.motif := rfl
@[simp] theorem Ctx.stall_spec (x : Ctx) : (x.stall).spec = x.spec := rfl
@[simp] theorem Ctx.stall_fmt (x : Ctx) : (x.stall).fmt = x.fmt := rfl
@[simp] theorem Ctx.stall_latch (x : Ctx) : (x.stall).latch = x.latch := rfl
@[simp] theorem Ctx.stall_eng (x : Ctx) : (x.stall).eng = x.eng := rfl
@[simp] theorem Ctx.stall_landings (x : Ctx) : (x.stall).landings = x.landings := rfl
@[simp] theorem Ctx.stall_towerOps (x : Ctx) : (x.stall).towerOps = x.towerOps := rfl
@[simp] theorem Ctx.stall_windows (x : Ctx) : (x.stall).windows = x.windows := rfl
@[simp] theorem Ctx.stall_flights (x : Ctx) : (x.stall).flights = x.flights := rfl
@[simp] theorem Ctx.stall_glob (x : Ctx) : (x.stall).glob = x.glob := rfl
@[simp] theorem Ctx.stall_outbox (x : Ctx) : (x.stall).outbox = x.outbox := rfl
@[simp] theorem Ctx.stall_borders (x : Ctx) : (x.stall).borders = x.borders := rfl
@[simp] theorem Ctx.stall_cells (x : Ctx) : (x.stall).cells = x.cells := rfl
@[simp] theorem Ctx.stall_scratch (x : Ctx) : (x.stall).scratch = x.scratch := rfl
@[simp] theorem Ctx.stall_trapMem (x : Ctx) : (x.stall).trapMem = x.trapMem := rfl
@[simp] theorem Ctx.stall_badScratch (x : Ctx) : (x.stall).badScratch = x.badScratch := rfl
@[simp] theorem Ctx.stall_badTrapMem (x : Ctx) : (x.stall).badTrapMem = x.badTrapMem := rfl
@[simp] theorem Ctx.stall_jobs (x : Ctx) : (x.stall).jobs = x.jobs := rfl
@[simp] theorem Ctx.stall_revJobs (x : Ctx) : (x.stall).revJobs = x.revJobs := rfl
@[simp] theorem Ctx.stall_trapJobs (x : Ctx) : (x.stall).trapJobs = x.trapJobs := rfl
@[simp] theorem Ctx.stall_committed (x : Ctx) : (x.stall).committed = x.committed := rfl
@[simp] theorem Ctx.stall_finished (x : Ctx) : (x.stall).finished = x.finished := rfl
@[simp] theorem Ctx.stall_ord (x : Ctx) : (x.stall).ord = x.ord := rfl
@[simp] theorem Ctx.stall_fresh (x : Ctx) : (x.stall).fresh = x.fresh := rfl

/-! The next number for free values. -/

@[simp] theorem Ctx.tick_id (x : Ctx) : (x.tick).id = x.id := rfl
@[simp] theorem Ctx.tick_code (x : Ctx) : (x.tick).code = x.code := rfl
@[simp] theorem Ctx.tick_norm (x : Ctx) : (x.tick).norm = x.norm := rfl
@[simp] theorem Ctx.tick_trapBank (x : Ctx) : (x.tick).trapBank = x.trapBank := rfl
@[simp] theorem Ctx.tick_time (x : Ctx) : (x.tick).time = x.time := rfl
@[simp] theorem Ctx.tick_issue (x : Ctx) : (x.tick).issue = x.issue := rfl
@[simp] theorem Ctx.tick_trap (x : Ctx) : (x.tick).trap = x.trap := rfl
@[simp] theorem Ctx.tick_raised (x : Ctx) : (x.tick).raised = x.raised := rfl
@[simp] theorem Ctx.tick_preempt (x : Ctx) : (x.tick).preempt = x.preempt := rfl
@[simp] theorem Ctx.tick_loop (x : Ctx) : (x.tick).loop = x.loop := rfl
@[simp] theorem Ctx.tick_sys (x : Ctx) : (x.tick).sys = x.sys := rfl
@[simp] theorem Ctx.tick_adj (x : Ctx) : (x.tick).adj = x.adj := rfl
@[simp] theorem Ctx.tick_motif (x : Ctx) : (x.tick).motif = x.motif := rfl
@[simp] theorem Ctx.tick_spec (x : Ctx) : (x.tick).spec = x.spec := rfl
@[simp] theorem Ctx.tick_fmt (x : Ctx) : (x.tick).fmt = x.fmt := rfl
@[simp] theorem Ctx.tick_latch (x : Ctx) : (x.tick).latch = x.latch := rfl
@[simp] theorem Ctx.tick_eng (x : Ctx) : (x.tick).eng = x.eng := rfl
@[simp] theorem Ctx.tick_landings (x : Ctx) : (x.tick).landings = x.landings := rfl
@[simp] theorem Ctx.tick_towerOps (x : Ctx) : (x.tick).towerOps = x.towerOps := rfl
@[simp] theorem Ctx.tick_windows (x : Ctx) : (x.tick).windows = x.windows := rfl
@[simp] theorem Ctx.tick_flights (x : Ctx) : (x.tick).flights = x.flights := rfl
@[simp] theorem Ctx.tick_glob (x : Ctx) : (x.tick).glob = x.glob := rfl
@[simp] theorem Ctx.tick_outbox (x : Ctx) : (x.tick).outbox = x.outbox := rfl
@[simp] theorem Ctx.tick_borders (x : Ctx) : (x.tick).borders = x.borders := rfl
@[simp] theorem Ctx.tick_cells (x : Ctx) : (x.tick).cells = x.cells := rfl
@[simp] theorem Ctx.tick_scratch (x : Ctx) : (x.tick).scratch = x.scratch := rfl
@[simp] theorem Ctx.tick_trapMem (x : Ctx) : (x.tick).trapMem = x.trapMem := rfl
@[simp] theorem Ctx.tick_badScratch (x : Ctx) : (x.tick).badScratch = x.badScratch := rfl
@[simp] theorem Ctx.tick_badTrapMem (x : Ctx) : (x.tick).badTrapMem = x.badTrapMem := rfl
@[simp] theorem Ctx.tick_jobs (x : Ctx) : (x.tick).jobs = x.jobs := rfl
@[simp] theorem Ctx.tick_revJobs (x : Ctx) : (x.tick).revJobs = x.revJobs := rfl
@[simp] theorem Ctx.tick_trapJobs (x : Ctx) : (x.tick).trapJobs = x.trapJobs := rfl
@[simp] theorem Ctx.tick_committed (x : Ctx) : (x.tick).committed = x.committed := rfl
@[simp] theorem Ctx.tick_finished (x : Ctx) : (x.tick).finished = x.finished := rfl
@[simp] theorem Ctx.tick_ord (x : Ctx) : (x.tick).ord = x.ord := rfl
@[simp] theorem Ctx.tick_fresh (x : Ctx) : (x.tick).fresh = x.fresh + 1 := rfl

/-! An access on its way. -/

@[simp] theorem Ctx.push_id (x : Ctx) (a : GAccess) : (x.push a).id = x.id := rfl
@[simp] theorem Ctx.push_code (x : Ctx) (a : GAccess) : (x.push a).code = x.code := rfl
@[simp] theorem Ctx.push_norm (x : Ctx) (a : GAccess) : (x.push a).norm = x.norm := rfl
@[simp] theorem Ctx.push_trapBank (x : Ctx) (a : GAccess) : (x.push a).trapBank = x.trapBank := rfl
@[simp] theorem Ctx.push_time (x : Ctx) (a : GAccess) : (x.push a).time = x.time := rfl
@[simp] theorem Ctx.push_issue (x : Ctx) (a : GAccess) : (x.push a).issue = x.issue := rfl
@[simp] theorem Ctx.push_trap (x : Ctx) (a : GAccess) : (x.push a).trap = x.trap := rfl
@[simp] theorem Ctx.push_raised (x : Ctx) (a : GAccess) : (x.push a).raised = x.raised := rfl
@[simp] theorem Ctx.push_preempt (x : Ctx) (a : GAccess) : (x.push a).preempt = x.preempt := rfl
@[simp] theorem Ctx.push_loop (x : Ctx) (a : GAccess) : (x.push a).loop = x.loop := rfl
@[simp] theorem Ctx.push_sys (x : Ctx) (a : GAccess) : (x.push a).sys = x.sys := rfl
@[simp] theorem Ctx.push_adj (x : Ctx) (a : GAccess) : (x.push a).adj = x.adj := rfl
@[simp] theorem Ctx.push_motif (x : Ctx) (a : GAccess) : (x.push a).motif = x.motif := rfl
@[simp] theorem Ctx.push_spec (x : Ctx) (a : GAccess) : (x.push a).spec = x.spec := rfl
@[simp] theorem Ctx.push_fmt (x : Ctx) (a : GAccess) : (x.push a).fmt = x.fmt := rfl
@[simp] theorem Ctx.push_latch (x : Ctx) (a : GAccess) : (x.push a).latch = x.latch := rfl
@[simp] theorem Ctx.push_eng (x : Ctx) (a : GAccess) : (x.push a).eng = x.eng := rfl
@[simp] theorem Ctx.push_landings (x : Ctx) (a : GAccess) : (x.push a).landings = x.landings := rfl
@[simp] theorem Ctx.push_towerOps (x : Ctx) (a : GAccess) : (x.push a).towerOps = x.towerOps := rfl
@[simp] theorem Ctx.push_windows (x : Ctx) (a : GAccess) : (x.push a).windows = x.windows := rfl
@[simp] theorem Ctx.push_flights (x : Ctx) (a : GAccess) : (x.push a).flights = x.flights := rfl
@[simp] theorem Ctx.push_glob (x : Ctx) (a : GAccess) : (x.push a).glob = { x.glob with queue := x.glob.queue ++ [a] } := rfl
@[simp] theorem Ctx.push_outbox (x : Ctx) (a : GAccess) : (x.push a).outbox = x.outbox := rfl
@[simp] theorem Ctx.push_borders (x : Ctx) (a : GAccess) : (x.push a).borders = x.borders := rfl
@[simp] theorem Ctx.push_cells (x : Ctx) (a : GAccess) : (x.push a).cells = x.cells := rfl
@[simp] theorem Ctx.push_scratch (x : Ctx) (a : GAccess) : (x.push a).scratch = x.scratch := rfl
@[simp] theorem Ctx.push_trapMem (x : Ctx) (a : GAccess) : (x.push a).trapMem = x.trapMem := rfl
@[simp] theorem Ctx.push_badScratch (x : Ctx) (a : GAccess) : (x.push a).badScratch = x.badScratch := rfl
@[simp] theorem Ctx.push_badTrapMem (x : Ctx) (a : GAccess) : (x.push a).badTrapMem = x.badTrapMem := rfl
@[simp] theorem Ctx.push_jobs (x : Ctx) (a : GAccess) : (x.push a).jobs = x.jobs := rfl
@[simp] theorem Ctx.push_revJobs (x : Ctx) (a : GAccess) : (x.push a).revJobs = x.revJobs := rfl
@[simp] theorem Ctx.push_trapJobs (x : Ctx) (a : GAccess) : (x.push a).trapJobs = x.trapJobs := rfl
@[simp] theorem Ctx.push_committed (x : Ctx) (a : GAccess) : (x.push a).committed = x.committed := rfl
@[simp] theorem Ctx.push_finished (x : Ctx) (a : GAccess) : (x.push a).finished = x.finished := rfl
@[simp] theorem Ctx.push_ord (x : Ctx) (a : GAccess) : (x.push a).ord = x.ord := rfl
@[simp] theorem Ctx.push_fresh (x : Ctx) (a : GAccess) : (x.push a).fresh = x.fresh + 1 := rfl

/-! The accesses of a plan. -/

@[simp] theorem Ctx.place_id (x : Ctx) (p : Plan) : (x.place p).id = x.id := rfl
@[simp] theorem Ctx.place_code (x : Ctx) (p : Plan) : (x.place p).code = x.code := rfl
@[simp] theorem Ctx.place_norm (x : Ctx) (p : Plan) : (x.place p).norm = x.norm := rfl
@[simp] theorem Ctx.place_trapBank (x : Ctx) (p : Plan) : (x.place p).trapBank = x.trapBank := rfl
@[simp] theorem Ctx.place_time (x : Ctx) (p : Plan) : (x.place p).time = x.time := rfl
@[simp] theorem Ctx.place_issue (x : Ctx) (p : Plan) : (x.place p).issue = x.issue := rfl
@[simp] theorem Ctx.place_trap (x : Ctx) (p : Plan) : (x.place p).trap = x.trap := rfl
@[simp] theorem Ctx.place_raised (x : Ctx) (p : Plan) : (x.place p).raised = x.raised := rfl
@[simp] theorem Ctx.place_preempt (x : Ctx) (p : Plan) : (x.place p).preempt = x.preempt := rfl
@[simp] theorem Ctx.place_loop (x : Ctx) (p : Plan) : (x.place p).loop = x.loop := rfl
@[simp] theorem Ctx.place_sys (x : Ctx) (p : Plan) : (x.place p).sys = x.sys := rfl
@[simp] theorem Ctx.place_adj (x : Ctx) (p : Plan) : (x.place p).adj = x.adj := rfl
@[simp] theorem Ctx.place_motif (x : Ctx) (p : Plan) : (x.place p).motif = x.motif := rfl
@[simp] theorem Ctx.place_spec (x : Ctx) (p : Plan) : (x.place p).spec = x.spec := rfl
@[simp] theorem Ctx.place_fmt (x : Ctx) (p : Plan) : (x.place p).fmt = x.fmt := rfl
@[simp] theorem Ctx.place_latch (x : Ctx) (p : Plan) : (x.place p).latch = x.latch := rfl
@[simp] theorem Ctx.place_eng (x : Ctx) (p : Plan) : (x.place p).eng = x.eng := rfl
@[simp] theorem Ctx.place_landings (x : Ctx) (p : Plan) : (x.place p).landings = x.landings := rfl
@[simp] theorem Ctx.place_towerOps (x : Ctx) (p : Plan) : (x.place p).towerOps = x.towerOps ++ p.ops := rfl
@[simp] theorem Ctx.place_windows (x : Ctx) (p : Plan) : (x.place p).windows = x.windows ++ p.wins := rfl
@[simp] theorem Ctx.place_flights (x : Ctx) (p : Plan) : (x.place p).flights = x.flights := rfl
@[simp] theorem Ctx.place_glob (x : Ctx) (p : Plan) : (x.place p).glob = x.glob := rfl
@[simp] theorem Ctx.place_outbox (x : Ctx) (p : Plan) : (x.place p).outbox = x.outbox := rfl
@[simp] theorem Ctx.place_borders (x : Ctx) (p : Plan) : (x.place p).borders = x.borders := rfl
@[simp] theorem Ctx.place_cells (x : Ctx) (p : Plan) : (x.place p).cells = x.cells := rfl
@[simp] theorem Ctx.place_scratch (x : Ctx) (p : Plan) : (x.place p).scratch = x.scratch := rfl
@[simp] theorem Ctx.place_trapMem (x : Ctx) (p : Plan) : (x.place p).trapMem = x.trapMem := rfl
@[simp] theorem Ctx.place_badScratch (x : Ctx) (p : Plan) : (x.place p).badScratch = x.badScratch := rfl
@[simp] theorem Ctx.place_badTrapMem (x : Ctx) (p : Plan) : (x.place p).badTrapMem = x.badTrapMem := rfl
@[simp] theorem Ctx.place_jobs (x : Ctx) (p : Plan) : (x.place p).jobs = x.jobs := rfl
@[simp] theorem Ctx.place_revJobs (x : Ctx) (p : Plan) : (x.place p).revJobs = x.revJobs := rfl
@[simp] theorem Ctx.place_trapJobs (x : Ctx) (p : Plan) : (x.place p).trapJobs = x.trapJobs := rfl
@[simp] theorem Ctx.place_committed (x : Ctx) (p : Plan) : (x.place p).committed = x.committed := rfl
@[simp] theorem Ctx.place_finished (x : Ctx) (p : Plan) : (x.place p).finished = x.finished := rfl
@[simp] theorem Ctx.place_ord (x : Ctx) (p : Plan) : (x.place p).ord = x.ord := rfl
@[simp] theorem Ctx.place_fresh (x : Ctx) (p : Plan) : (x.place p).fresh = x.fresh := rfl

/-! Results in every cell. -/

@[simp] theorem Ctx.landCells_id (x : Ctx) (e : QEntry) (u : EngUnit) (due : Nat) (f : Nat → Cell → Write × Flags) : (x.landCells e u due f).id = x.id := rfl
@[simp] theorem Ctx.landCells_code (x : Ctx) (e : QEntry) (u : EngUnit) (due : Nat) (f : Nat → Cell → Write × Flags) : (x.landCells e u due f).code = x.code := rfl
@[simp] theorem Ctx.landCells_norm (x : Ctx) (e : QEntry) (u : EngUnit) (due : Nat) (f : Nat → Cell → Write × Flags) : (x.landCells e u due f).norm = x.norm := rfl
@[simp] theorem Ctx.landCells_trapBank (x : Ctx) (e : QEntry) (u : EngUnit) (due : Nat) (f : Nat → Cell → Write × Flags) : (x.landCells e u due f).trapBank = x.trapBank := rfl
@[simp] theorem Ctx.landCells_time (x : Ctx) (e : QEntry) (u : EngUnit) (due : Nat) (f : Nat → Cell → Write × Flags) : (x.landCells e u due f).time = x.time := rfl
@[simp] theorem Ctx.landCells_issue (x : Ctx) (e : QEntry) (u : EngUnit) (due : Nat) (f : Nat → Cell → Write × Flags) : (x.landCells e u due f).issue = x.issue := rfl
@[simp] theorem Ctx.landCells_trap (x : Ctx) (e : QEntry) (u : EngUnit) (due : Nat) (f : Nat → Cell → Write × Flags) : (x.landCells e u due f).trap = x.trap := rfl
@[simp] theorem Ctx.landCells_raised (x : Ctx) (e : QEntry) (u : EngUnit) (due : Nat) (f : Nat → Cell → Write × Flags) : (x.landCells e u due f).raised = x.raised := rfl
@[simp] theorem Ctx.landCells_preempt (x : Ctx) (e : QEntry) (u : EngUnit) (due : Nat) (f : Nat → Cell → Write × Flags) : (x.landCells e u due f).preempt = x.preempt := rfl
@[simp] theorem Ctx.landCells_loop (x : Ctx) (e : QEntry) (u : EngUnit) (due : Nat) (f : Nat → Cell → Write × Flags) : (x.landCells e u due f).loop = x.loop := rfl
@[simp] theorem Ctx.landCells_sys (x : Ctx) (e : QEntry) (u : EngUnit) (due : Nat) (f : Nat → Cell → Write × Flags) : (x.landCells e u due f).sys = x.sys := rfl
@[simp] theorem Ctx.landCells_adj (x : Ctx) (e : QEntry) (u : EngUnit) (due : Nat) (f : Nat → Cell → Write × Flags) : (x.landCells e u due f).adj = x.adj := rfl
@[simp] theorem Ctx.landCells_motif (x : Ctx) (e : QEntry) (u : EngUnit) (due : Nat) (f : Nat → Cell → Write × Flags) : (x.landCells e u due f).motif = x.motif := rfl
@[simp] theorem Ctx.landCells_spec (x : Ctx) (e : QEntry) (u : EngUnit) (due : Nat) (f : Nat → Cell → Write × Flags) : (x.landCells e u due f).spec = x.spec := rfl
@[simp] theorem Ctx.landCells_fmt (x : Ctx) (e : QEntry) (u : EngUnit) (due : Nat) (f : Nat → Cell → Write × Flags) : (x.landCells e u due f).fmt = x.fmt := rfl
@[simp] theorem Ctx.landCells_latch (x : Ctx) (e : QEntry) (u : EngUnit) (due : Nat) (f : Nat → Cell → Write × Flags) : (x.landCells e u due f).latch = x.latch := rfl
@[simp] theorem Ctx.landCells_eng (x : Ctx) (e : QEntry) (u : EngUnit) (due : Nat) (f : Nat → Cell → Write × Flags) : (x.landCells e u due f).eng = x.eng := rfl
@[simp] theorem Ctx.landCells_landings (x : Ctx) (e : QEntry) (u : EngUnit) (due : Nat) (f : Nat → Cell → Write × Flags) : (x.landCells e u due f).landings = x.landings ++ (List.range 16).map fun n => ⟨e.ord, u, due, x.trap.tctx, (f n (x.cell n)).1, (f n (x.cell n)).2⟩ := rfl
@[simp] theorem Ctx.landCells_towerOps (x : Ctx) (e : QEntry) (u : EngUnit) (due : Nat) (f : Nat → Cell → Write × Flags) : (x.landCells e u due f).towerOps = x.towerOps := rfl
@[simp] theorem Ctx.landCells_windows (x : Ctx) (e : QEntry) (u : EngUnit) (due : Nat) (f : Nat → Cell → Write × Flags) : (x.landCells e u due f).windows = x.windows := rfl
@[simp] theorem Ctx.landCells_flights (x : Ctx) (e : QEntry) (u : EngUnit) (due : Nat) (f : Nat → Cell → Write × Flags) : (x.landCells e u due f).flights = x.flights := rfl
@[simp] theorem Ctx.landCells_glob (x : Ctx) (e : QEntry) (u : EngUnit) (due : Nat) (f : Nat → Cell → Write × Flags) : (x.landCells e u due f).glob = x.glob := rfl
@[simp] theorem Ctx.landCells_outbox (x : Ctx) (e : QEntry) (u : EngUnit) (due : Nat) (f : Nat → Cell → Write × Flags) : (x.landCells e u due f).outbox = x.outbox := rfl
@[simp] theorem Ctx.landCells_borders (x : Ctx) (e : QEntry) (u : EngUnit) (due : Nat) (f : Nat → Cell → Write × Flags) : (x.landCells e u due f).borders = x.borders := rfl
@[simp] theorem Ctx.landCells_cells (x : Ctx) (e : QEntry) (u : EngUnit) (due : Nat) (f : Nat → Cell → Write × Flags) : (x.landCells e u due f).cells = x.cells := rfl
@[simp] theorem Ctx.landCells_scratch (x : Ctx) (e : QEntry) (u : EngUnit) (due : Nat) (f : Nat → Cell → Write × Flags) : (x.landCells e u due f).scratch = x.scratch := rfl
@[simp] theorem Ctx.landCells_trapMem (x : Ctx) (e : QEntry) (u : EngUnit) (due : Nat) (f : Nat → Cell → Write × Flags) : (x.landCells e u due f).trapMem = x.trapMem := rfl
@[simp] theorem Ctx.landCells_badScratch (x : Ctx) (e : QEntry) (u : EngUnit) (due : Nat) (f : Nat → Cell → Write × Flags) : (x.landCells e u due f).badScratch = x.badScratch := rfl
@[simp] theorem Ctx.landCells_badTrapMem (x : Ctx) (e : QEntry) (u : EngUnit) (due : Nat) (f : Nat → Cell → Write × Flags) : (x.landCells e u due f).badTrapMem = x.badTrapMem := rfl
@[simp] theorem Ctx.landCells_jobs (x : Ctx) (e : QEntry) (u : EngUnit) (due : Nat) (f : Nat → Cell → Write × Flags) : (x.landCells e u due f).jobs = x.jobs := rfl
@[simp] theorem Ctx.landCells_revJobs (x : Ctx) (e : QEntry) (u : EngUnit) (due : Nat) (f : Nat → Cell → Write × Flags) : (x.landCells e u due f).revJobs = x.revJobs := rfl
@[simp] theorem Ctx.landCells_trapJobs (x : Ctx) (e : QEntry) (u : EngUnit) (due : Nat) (f : Nat → Cell → Write × Flags) : (x.landCells e u due f).trapJobs = x.trapJobs := rfl
@[simp] theorem Ctx.landCells_committed (x : Ctx) (e : QEntry) (u : EngUnit) (due : Nat) (f : Nat → Cell → Write × Flags) : (x.landCells e u due f).committed = x.committed := rfl
@[simp] theorem Ctx.landCells_finished (x : Ctx) (e : QEntry) (u : EngUnit) (due : Nat) (f : Nat → Cell → Write × Flags) : (x.landCells e u due f).finished = x.finished := rfl
@[simp] theorem Ctx.landCells_ord (x : Ctx) (e : QEntry) (u : EngUnit) (due : Nat) (f : Nat → Cell → Write × Flags) : (x.landCells e u due f).ord = x.ord := rfl
@[simp] theorem Ctx.landCells_fresh (x : Ctx) (e : QEntry) (u : EngUnit) (due : Nat) (f : Nat → Cell → Write × Flags) : (x.landCells e u due f).fresh = x.fresh := rfl

/-! A command in its queue. -/

@[simp] theorem Ctx.enqueue_id (x : Ctx) (g : Engine) (e : QEntry) : (x.enqueue g e).id = x.id := rfl
@[simp] theorem Ctx.enqueue_code (x : Ctx) (g : Engine) (e : QEntry) : (x.enqueue g e).code = x.code := rfl
@[simp] theorem Ctx.enqueue_norm (x : Ctx) (g : Engine) (e : QEntry) : (x.enqueue g e).norm = x.norm := rfl
@[simp] theorem Ctx.enqueue_trapBank (x : Ctx) (g : Engine) (e : QEntry) : (x.enqueue g e).trapBank = x.trapBank := rfl
@[simp] theorem Ctx.enqueue_time (x : Ctx) (g : Engine) (e : QEntry) : (x.enqueue g e).time = x.time := rfl
@[simp] theorem Ctx.enqueue_issue (x : Ctx) (g : Engine) (e : QEntry) : (x.enqueue g e).issue = x.issue := rfl
@[simp] theorem Ctx.enqueue_trap (x : Ctx) (g : Engine) (e : QEntry) : (x.enqueue g e).trap = x.trap := rfl
@[simp] theorem Ctx.enqueue_raised (x : Ctx) (g : Engine) (e : QEntry) : (x.enqueue g e).raised = x.raised := rfl
@[simp] theorem Ctx.enqueue_preempt (x : Ctx) (g : Engine) (e : QEntry) : (x.enqueue g e).preempt = x.preempt := rfl
@[simp] theorem Ctx.enqueue_loop (x : Ctx) (g : Engine) (e : QEntry) : (x.enqueue g e).loop = x.loop := rfl
@[simp] theorem Ctx.enqueue_sys (x : Ctx) (g : Engine) (e : QEntry) : (x.enqueue g e).sys = { x.sys with srctr := if x.takesCtr g then x.sys.srctr + 1#32 else x.sys.srctr } := rfl
@[simp] theorem Ctx.enqueue_adj (x : Ctx) (g : Engine) (e : QEntry) : (x.enqueue g e).adj = x.adj := rfl
@[simp] theorem Ctx.enqueue_motif (x : Ctx) (g : Engine) (e : QEntry) : (x.enqueue g e).motif = x.motif := rfl
@[simp] theorem Ctx.enqueue_spec (x : Ctx) (g : Engine) (e : QEntry) : (x.enqueue g e).spec = x.spec := rfl
@[simp] theorem Ctx.enqueue_fmt (x : Ctx) (g : Engine) (e : QEntry) : (x.enqueue g e).fmt = x.fmt := rfl
@[simp] theorem Ctx.enqueue_latch (x : Ctx) (g : Engine) (e : QEntry) : (x.enqueue g e).latch = x.latch := rfl
@[simp] theorem Ctx.enqueue_eng (x : Ctx) (g : Engine) (e : QEntry) : (x.enqueue g e).eng = { x.eng with q := vset x.eng.q g.queue (vget [] x.eng.q g.queue ++ [e]), seq := vset x.eng.seq g.queue (e.seq + 1#16) } := rfl
@[simp] theorem Ctx.enqueue_landings (x : Ctx) (g : Engine) (e : QEntry) : (x.enqueue g e).landings = x.landings := rfl
@[simp] theorem Ctx.enqueue_towerOps (x : Ctx) (g : Engine) (e : QEntry) : (x.enqueue g e).towerOps = x.towerOps := rfl
@[simp] theorem Ctx.enqueue_windows (x : Ctx) (g : Engine) (e : QEntry) : (x.enqueue g e).windows = x.windows := rfl
@[simp] theorem Ctx.enqueue_flights (x : Ctx) (g : Engine) (e : QEntry) : (x.enqueue g e).flights = x.flights := rfl
@[simp] theorem Ctx.enqueue_glob (x : Ctx) (g : Engine) (e : QEntry) : (x.enqueue g e).glob = x.glob := rfl
@[simp] theorem Ctx.enqueue_outbox (x : Ctx) (g : Engine) (e : QEntry) : (x.enqueue g e).outbox = x.outbox := rfl
@[simp] theorem Ctx.enqueue_borders (x : Ctx) (g : Engine) (e : QEntry) : (x.enqueue g e).borders = x.borders := rfl
@[simp] theorem Ctx.enqueue_cells (x : Ctx) (g : Engine) (e : QEntry) : (x.enqueue g e).cells = x.cells := rfl
@[simp] theorem Ctx.enqueue_scratch (x : Ctx) (g : Engine) (e : QEntry) : (x.enqueue g e).scratch = x.scratch := rfl
@[simp] theorem Ctx.enqueue_trapMem (x : Ctx) (g : Engine) (e : QEntry) : (x.enqueue g e).trapMem = x.trapMem := rfl
@[simp] theorem Ctx.enqueue_badScratch (x : Ctx) (g : Engine) (e : QEntry) : (x.enqueue g e).badScratch = x.badScratch := rfl
@[simp] theorem Ctx.enqueue_badTrapMem (x : Ctx) (g : Engine) (e : QEntry) : (x.enqueue g e).badTrapMem = x.badTrapMem := rfl
@[simp] theorem Ctx.enqueue_jobs (x : Ctx) (g : Engine) (e : QEntry) : (x.enqueue g e).jobs = x.jobs := rfl
@[simp] theorem Ctx.enqueue_revJobs (x : Ctx) (g : Engine) (e : QEntry) : (x.enqueue g e).revJobs = x.revJobs := rfl
@[simp] theorem Ctx.enqueue_trapJobs (x : Ctx) (g : Engine) (e : QEntry) : (x.enqueue g e).trapJobs = x.trapJobs := rfl
@[simp] theorem Ctx.enqueue_committed (x : Ctx) (g : Engine) (e : QEntry) : (x.enqueue g e).committed = x.committed := rfl
@[simp] theorem Ctx.enqueue_finished (x : Ctx) (g : Engine) (e : QEntry) : (x.enqueue g e).finished = x.finished := rfl
@[simp] theorem Ctx.enqueue_ord (x : Ctx) (g : Engine) (e : QEntry) : (x.enqueue g e).ord = x.ord := rfl
@[simp] theorem Ctx.enqueue_fresh (x : Ctx) (g : Engine) (e : QEntry) : (x.enqueue g e).fresh = x.fresh := rfl

end Sys2Proof.Machine
end

