-- ==== Sys2Proof/Laws/Ops.lean ====
section
/-!
SUPPORT. What the shared operations of a panel context do, said once: the end of an instruction, of a packet, a raised trap, the
frame of a sequencer instruction, the issue of a command, and finding a context in the package.
-/

namespace Sys2Proof.Machine

/-! Finding a context. -/

theorem ctx?_panel {s : State} {p : Nat} {c : Ctx} (h : s.ctx? p = some c) : c.id.panel = p := by
  simpa using List.find?_some h

theorem find?_map_replace {xs : List Ctx} {p : Nat} {c d : Ctx} (h : xs.find? (fun x => x.id.panel == p) = some c)
    (hd : d.id.panel = p) :
    (xs.map (fun x => if x.id.panel == d.id.panel then d else x)).find? (fun x => x.id.panel == p) = some d := by
  induction xs with
  | nil => simp at h
  | cons x xs ih =>
    by_cases hx : x.id.panel = p
    · simp [hx, hd]
    · have h' : xs.find? (fun x => x.id.panel == p) = some c := by simpa [List.find?_cons, hx] using h
      simpa [List.find?_cons, hd, hx] using ih h'

/-- A context that has been put back is found again. -/
theorem ctx?_putCtx {s : State} {p : Nat} {c d : Ctx} (h : s.ctx? p = some c) (hd : d.id.panel = p) :
    (s.putCtx d).ctx? p = some d := find?_map_replace h hd

/-- The contexts of other panels stay. -/
theorem ctx?_putCtx_of_ne {s : State} {p : Nat} {d : Ctx} (hd : d.id.panel ≠ p) : (s.putCtx d).ctx? p = s.ctx? p := by
  unfold State.ctx? State.putCtx
  dsimp only
  induction s.ctxs with
  | nil => rfl
  | cons x xs ih =>
    by_cases hx : x.id.panel = d.id.panel
    · have hp : x.id.panel ≠ p := fun h => hd (hx ▸ h)
      simpa [List.find?_cons, hx, hd, hp] using ih
    · by_cases hp : x.id.panel = p
      · have hq : ¬ p = d.id.panel := fun h => hd h.symm
        simp [hp, hq]
      · simpa [List.find?_cons, hx, hp] using ih

/-- The meaning of an instruction acts on the context of the panel at work. -/
theorem onCtx_eq {s : State} {c : Ctx} (h : s.ctx? s.cur = some c) (f : Env → Ctx → Ctx) :
    onCtx s f = .next (s.putCtx (f (s.env s.cur) c)) := by simp [onCtx, h]

/-- With no context on its panel an instruction stops. -/
theorem onCtx_none {s : State} (h : s.ctx? s.cur = none) (f : Env → Ctx → Ctx) : onCtx s f = .fault (.noContext s.cur) := by
  simp [onCtx, h]

/-- An event of a panel acts on its context. -/
theorem mapCtx_eq {s : State} {p : Nat} {c : Ctx} (h : s.ctx? p = some c) (f : Env → Ctx → Ctx) :
    s.mapCtx p f = s.putCtx (f (s.env p) c) := by simp [State.mapCtx, h]

/-! The frame of a sequencer instruction. -/

/-- An instruction whose own checks pass, that reads nothing late or early and whose result has room, has its effect. -/
theorem Ctx.seq_eq {c : Ctx} {i : Instr} {rs : List Ref} {result : Bool} {f : Ctx → Ctx} (hf : i.staticFault = none)
    (hl : c.late rs = false) (he : c.early rs = none) (hr : result = false ∨ c.inFlight < 48) : c.seq i rs result f = f c := by
  unfold Ctx.seq Ctx.checked
  rw [hf]
  dsimp only
  rw [hl, he]
  dsimp only
  rw [if_neg Bool.false_ne_true, if_neg]
  rcases hr with hr | hr
  · simp [hr]
  · simp; omega

/-- An instruction whose own checks fail is ILLEGAL. -/
theorem Ctx.seq_fault {c : Ctx} {i : Instr} {rs : List Ref} {result : Bool} {f : Ctx → Ctx} {sub : BitVec 8}
    (hf : i.staticFault = some sub) : c.seq i rs result f = c.illegal i sub := by simp [Ctx.seq, Ctx.checked, hf]

/-- A value that is still owed stalls. -/
theorem Ctx.seq_late {c : Ctx} {i : Instr} {rs : List Ref} {result : Bool} {f : Ctx → Ctx} (hf : i.staticFault = none)
    (hl : c.late rs = true) : c.seq i rs result f = c.stall := by simp [Ctx.seq, Ctx.checked, hf, hl]

/-- An early read traps. -/
theorem Ctx.seq_early {c : Ctx} {i : Instr} {rs : List Ref} {result : Bool} {f : Ctx → Ctx} {t : U64} (hf : i.staticFault = none)
    (hl : c.late rs = false) (he : c.early rs = some t) : c.seq i rs result f = c.trapAt causeEarlyRead 0#8 t := by
  simp [Ctx.seq, Ctx.checked, hf, hl, he]

/-- A result that has no room stalls. -/
theorem Ctx.seq_stall {c : Ctx} {i : Instr} {rs : List Ref} {f : Ctx → Ctx} (hf : i.staticFault = none)
    (hl : c.late rs = false) (he : c.early rs = none) (hr : 48 ≤ c.inFlight) : c.seq i rs true f = c.stall := by
  unfold Ctx.seq Ctx.checked
  rw [hf]
  dsimp only
  rw [hl, he]
  dsimp only
  rw [if_neg Bool.false_ne_true, if_pos (by simpa using hr)]

/-- The issue of a command whose guard holds, with nothing in its way: it enters its queue. -/
theorem Ctx.command_eq {c : Ctx} {i : Instr} {e : Bool} {start : BitVec 16} {k : BitVec 5} {g : Engine}
    (hf : i.staticFault = none) (hg : c.early [.c (k.setWidth 3)] = none) (hc : c.rc (k.setWidth 3) = true)
    (hi : c.cutIter (k.setWidth 3 : BitVec 3).toNat = false) (hl : g.limit c = false)
    (hs : startBad start = false) (ht : c.trap.tctx = false ∨ start = 0xFFFF#16) (hw : c.late g.scalars = false)
    (hr : g.rings.any c.lateRing = false) (he : c.early g.scalars = none) (hk : g.check c = none)
    (hq : (vget [] c.eng.q g.queue).length < 64) :
    c.command i e start k g = (c.enqueue g (c.entryOf i start (k.setWidth 3 : BitVec 3).toNat g)).advance e 2 := by
  have ht' : (c.trap.tctx && start != 0xFFFF#16) = false := by rcases ht with h | h <;> simp [h]
  unfold Ctx.command Ctx.checked
  rw [hf]
  dsimp only
  rw [hg]
  dsimp only
  rw [hc, hi, hl, hs, ht', hw, hr]
  simp only [Bool.not_false, Bool.and_self, Bool.and_false, Bool.or_self, Bool.false_eq_true, if_false, Bool.not_true]
  rw [he]
  dsimp only
  rw [hk]
  dsimp only
  rw [if_neg (by omega)]

/-- A command whose guard is false only lets the sequencer go on. -/
theorem Ctx.command_skip {c : Ctx} {i : Instr} {e : Bool} {start : BitVec 16} {k : BitVec 5} {g : Engine}
    (hf : i.staticFault = none) (hg : c.early [.c (k.setWidth 3)] = none)
    (hc : c.rc (k.setWidth 3) = false ∨ c.cutIter (k.setWidth 3 : BitVec 3).toNat = true)
    (hs : startBad start = false) (ht : c.trap.tctx = false ∨ start = 0xFFFF#16) : c.command i e start k g = c.advance e 2 := by
  have ht' : (c.trap.tctx && start != 0xFFFF#16) = false := by rcases ht with h | h <;> simp [h]
  have hk : (c.rc (k.setWidth 3) && !c.cutIter (k.setWidth 3 : BitVec 3).toNat) = false := by rcases hc with h | h <;> rw [h] <;> simp
  unfold Ctx.command Ctx.checked
  rw [hf]
  dsimp only
  rw [hg]
  dsimp only
  rw [hk, hs, ht']
  simp

/-! What each operation leaves as it was. -/

theorem Ctx.raise_shape (c : Ctx) (r : Raise) : ∃ i, c.raise r = { c with raised := c.raised ++ [r], issue := i } := by
  unfold Ctx.raise
  dsimp only
  split
  · exact ⟨_, rfl⟩
  · exact ⟨_, rfl⟩

/-- The end of a loop pass changes the sequencer's place and the loop, and nothing else. -/
theorem Ctx.endPass_shape (c : Ctx) : ∃ i l, c.endPass = { c with issue := i, loop := l } := by
  unfold Ctx.endPass
  split
  · split
    · exact ⟨_, _, rfl⟩
    · exact ⟨_, _, rfl⟩
  · exact ⟨_, _, rfl⟩

/-- The end of a packet changes the sequencer's place and the loop's pass, and nothing else. -/
theorem Ctx.turnPacket_shape (c : Ctx) : ∃ i l, c.turnPacket = { c with issue := i, loop := l } := by
  unfold Ctx.turnPacket
  obtain ⟨i, l, h⟩ := Ctx.endPass_shape { c with issue := _ }
  exact ⟨i, l, h⟩

theorem Ctx.stopPoint_shape (c : Ctx) (pc : U64) :
    ∃ i p r, c.stopPoint pc = { c with issue := i, preempt := p, raised := r } := by
  unfold Ctx.stopPoint
  split
  · obtain ⟨i, h⟩ := Ctx.raise_shape { c with preempt := { c.preempt with notified := true } }
      { code := causePreempt, sub := 0#8, tval := 0#64, queue := none, pc := pc, after := false, access := none, early := false }
    exact ⟨i, _, _, h⟩
  · exact ⟨_, _, _, rfl⟩

theorem Ctx.endPacket_shape (c : Ctx) :
    ∃ i l p r, c.endPacket = { c with issue := i, loop := l, preempt := p, raised := r } := by
  obtain ⟨i, l, h⟩ := c.turnPacket_shape
  unfold Ctx.endPacket
  rw [h]
  dsimp only
  split
  · obtain ⟨i', p, r, h'⟩ := Ctx.stopPoint_shape
      { c with issue := { i with yields := false }, loop := l } ({ c with issue := i, loop := l } : Ctx).nextPc
    exact ⟨i', l, p, r, by rw [h']⟩
  · exact ⟨_, _, _, _, rfl⟩

/-- The end of an instruction changes the sequencer's place, the loop's pass, and at a stop point the request. -/
theorem Ctx.advance_shape (c : Ctx) (e : Bool) (n : Nat) :
    ∃ i l p r, c.advance e n = { c with ord := c.ord + 1, issue := i, loop := l, preempt := p, raised := r } := by
  unfold Ctx.advance
  dsimp only
  split
  · obtain ⟨i, l, p, r, h⟩ := Ctx.endPacket_shape { c with
      ord := c.ord + 1, issue := { c.issue with pc := (c.issue.again.getD (c.issue.pc + BitVec.ofNat 64 (4 * n), e)).1,
                                                done := c.issue.done + 1, again := none } }
    exact ⟨i, l, p, r, h⟩
  · exact ⟨_, _, _, _, rfl⟩

@[simp] theorem Ctx.trapAt_id (c : Ctx) (code sub : BitVec 8) (t : U64) : (c.trapAt code sub t).id = c.id := by
  rfl
@[simp] theorem Ctx.trapAt_code (c : Ctx) (code sub : BitVec 8) (t : U64) : (c.trapAt code sub t).code = c.code := by
  rfl
@[simp] theorem Ctx.trapAt_norm (c : Ctx) (code sub : BitVec 8) (t : U64) : (c.trapAt code sub t).norm = c.norm := by
  rfl
@[simp] theorem Ctx.trapAt_trapBank (c : Ctx) (code sub : BitVec 8) (t : U64) : (c.trapAt code sub t).trapBank = c.trapBank := by
  rfl
@[simp] theorem Ctx.trapAt_time (c : Ctx) (code sub : BitVec 8) (t : U64) : (c.trapAt code sub t).time = c.time := by
  rfl
@[simp] theorem Ctx.trapAt_trap (c : Ctx) (code sub : BitVec 8) (t : U64) : (c.trapAt code sub t).trap = c.trap := by
  rfl
@[simp] theorem Ctx.trapAt_sys (c : Ctx) (code sub : BitVec 8) (t : U64) : (c.trapAt code sub t).sys = c.sys := by
  rfl
@[simp] theorem Ctx.trapAt_adj (c : Ctx) (code sub : BitVec 8) (t : U64) : (c.trapAt code sub t).adj = c.adj := by
  rfl
@[simp] theorem Ctx.trapAt_motif (c : Ctx) (code sub : BitVec 8) (t : U64) : (c.trapAt code sub t).motif = c.motif := by
  rfl
@[simp] theorem Ctx.trapAt_spec (c : Ctx) (code sub : BitVec 8) (t : U64) : (c.trapAt code sub t).spec = c.spec := by
  rfl
@[simp] theorem Ctx.trapAt_fmt (c : Ctx) (code sub : BitVec 8) (t : U64) : (c.trapAt code sub t).fmt = c.fmt := by
  rfl
@[simp] theorem Ctx.trapAt_latch (c : Ctx) (code sub : BitVec 8) (t : U64) : (c.trapAt code sub t).latch = c.latch := by
  rfl
@[simp] theorem Ctx.trapAt_eng (c : Ctx) (code sub : BitVec 8) (t : U64) : (c.trapAt code sub t).eng = c.eng := by
  rfl
@[simp] theorem Ctx.trapAt_landings (c : Ctx) (code sub : BitVec 8) (t : U64) : (c.trapAt code sub t).landings = c.landings := by
  rfl
@[simp] theorem Ctx.trapAt_towerOps (c : Ctx) (code sub : BitVec 8) (t : U64) : (c.trapAt code sub t).towerOps = c.towerOps := by
  rfl
@[simp] theorem Ctx.trapAt_windows (c : Ctx) (code sub : BitVec 8) (t : U64) : (c.trapAt code sub t).windows = c.windows := by
  rfl
@[simp] theorem Ctx.trapAt_flights (c : Ctx) (code sub : BitVec 8) (t : U64) : (c.trapAt code sub t).flights = c.flights := by
  rfl
@[simp] theorem Ctx.trapAt_glob (c : Ctx) (code sub : BitVec 8) (t : U64) : (c.trapAt code sub t).glob = c.glob := by
  rfl
@[simp] theorem Ctx.trapAt_outbox (c : Ctx) (code sub : BitVec 8) (t : U64) : (c.trapAt code sub t).outbox = c.outbox := by
  rfl
@[simp] theorem Ctx.trapAt_borders (c : Ctx) (code sub : BitVec 8) (t : U64) : (c.trapAt code sub t).borders = c.borders := by
  rfl
@[simp] theorem Ctx.trapAt_cells (c : Ctx) (code sub : BitVec 8) (t : U64) : (c.trapAt code sub t).cells = c.cells := by
  rfl
@[simp] theorem Ctx.trapAt_scratch (c : Ctx) (code sub : BitVec 8) (t : U64) : (c.trapAt code sub t).scratch = c.scratch := by
  rfl
@[simp] theorem Ctx.trapAt_trapMem (c : Ctx) (code sub : BitVec 8) (t : U64) : (c.trapAt code sub t).trapMem = c.trapMem := by
  rfl
@[simp] theorem Ctx.trapAt_badScratch (c : Ctx) (code sub : BitVec 8) (t : U64) : (c.trapAt code sub t).badScratch = c.badScratch := by
  rfl
@[simp] theorem Ctx.trapAt_badTrapMem (c : Ctx) (code sub : BitVec 8) (t : U64) : (c.trapAt code sub t).badTrapMem = c.badTrapMem := by
  rfl
@[simp] theorem Ctx.trapAt_jobs (c : Ctx) (code sub : BitVec 8) (t : U64) : (c.trapAt code sub t).jobs = c.jobs := by
  rfl
@[simp] theorem Ctx.trapAt_revJobs (c : Ctx) (code sub : BitVec 8) (t : U64) : (c.trapAt code sub t).revJobs = c.revJobs := by
  rfl
@[simp] theorem Ctx.trapAt_trapJobs (c : Ctx) (code sub : BitVec 8) (t : U64) : (c.trapAt code sub t).trapJobs = c.trapJobs := by
  rfl
@[simp] theorem Ctx.trapAt_committed (c : Ctx) (code sub : BitVec 8) (t : U64) : (c.trapAt code sub t).committed = c.committed := by
  rfl
@[simp] theorem Ctx.trapAt_finished (c : Ctx) (code sub : BitVec 8) (t : U64) : (c.trapAt code sub t).finished = c.finished := by
  rfl
@[simp] theorem Ctx.trapAt_fresh (c : Ctx) (code sub : BitVec 8) (t : U64) : (c.trapAt code sub t).fresh = c.fresh := by
  rfl

@[simp] theorem Ctx.turnPacket_id (c : Ctx) : (c.turnPacket).id = c.id := by
  obtain ⟨_, _, h⟩ := c.turnPacket_shape; rw [h]
@[simp] theorem Ctx.turnPacket_code (c : Ctx) : (c.turnPacket).code = c.code := by
  obtain ⟨_, _, h⟩ := c.turnPacket_shape; rw [h]
@[simp] theorem Ctx.turnPacket_norm (c : Ctx) : (c.turnPacket).norm = c.norm := by
  obtain ⟨_, _, h⟩ := c.turnPacket_shape; rw [h]
@[simp] theorem Ctx.turnPacket_trapBank (c : Ctx) : (c.turnPacket).trapBank = c.trapBank := by
  obtain ⟨_, _, h⟩ := c.turnPacket_shape; rw [h]
@[simp] theorem Ctx.turnPacket_time (c : Ctx) : (c.turnPacket).time = c.time := by
  obtain ⟨_, _, h⟩ := c.turnPacket_shape; rw [h]
@[simp] theorem Ctx.turnPacket_trap (c : Ctx) : (c.turnPacket).trap = c.trap := by
  obtain ⟨_, _, h⟩ := c.turnPacket_shape; rw [h]
@[simp] theorem Ctx.turnPacket_sys (c : Ctx) : (c.turnPacket).sys = c.sys := by
  obtain ⟨_, _, h⟩ := c.turnPacket_shape; rw [h]
@[simp] theorem Ctx.turnPacket_adj (c : Ctx) : (c.turnPacket).adj = c.adj := by
  obtain ⟨_, _, h⟩ := c.turnPacket_shape; rw [h]
@[simp] theorem Ctx.turnPacket_motif (c : Ctx) : (c.turnPacket).motif = c.motif := by
  obtain ⟨_, _, h⟩ := c.turnPacket_shape; rw [h]
@[simp] theorem Ctx.turnPacket_spec (c : Ctx) : (c.turnPacket).spec = c.spec := by
  obtain ⟨_, _, h⟩ := c.turnPacket_shape; rw [h]
@[simp] theorem Ctx.turnPacket_fmt (c : Ctx) : (c.turnPacket).fmt = c.fmt := by
  obtain ⟨_, _, h⟩ := c.turnPacket_shape; rw [h]
@[simp] theorem Ctx.turnPacket_latch (c : Ctx) : (c.turnPacket).latch = c.latch := by
  obtain ⟨_, _, h⟩ := c.turnPacket_shape; rw [h]
@[simp] theorem Ctx.turnPacket_eng (c : Ctx) : (c.turnPacket).eng = c.eng := by
  obtain ⟨_, _, h⟩ := c.turnPacket_shape; rw [h]
@[simp] theorem Ctx.turnPacket_landings (c : Ctx) : (c.turnPacket).landings = c.landings := by
  obtain ⟨_, _, h⟩ := c.turnPacket_shape; rw [h]
@[simp] theorem Ctx.turnPacket_towerOps (c : Ctx) : (c.turnPacket).towerOps = c.towerOps := by
  obtain ⟨_, _, h⟩ := c.turnPacket_shape; rw [h]
@[simp] theorem Ctx.turnPacket_windows (c : Ctx) : (c.turnPacket).windows = c.windows := by
  obtain ⟨_, _, h⟩ := c.turnPacket_shape; rw [h]
@[simp] theorem Ctx.turnPacket_flights (c : Ctx) : (c.turnPacket).flights = c.flights := by
  obtain ⟨_, _, h⟩ := c.turnPacket_shape; rw [h]
@[simp] theorem Ctx.turnPacket_glob (c : Ctx) : (c.turnPacket).glob = c.glob := by
  obtain ⟨_, _, h⟩ := c.turnPacket_shape; rw [h]
@[simp] theorem Ctx.turnPacket_outbox (c : Ctx) : (c.turnPacket).outbox = c.outbox := by
  obtain ⟨_, _, h⟩ := c.turnPacket_shape; rw [h]
@[simp] theorem Ctx.turnPacket_borders (c : Ctx) : (c.turnPacket).borders = c.borders := by
  obtain ⟨_, _, h⟩ := c.turnPacket_shape; rw [h]
@[simp] theorem Ctx.turnPacket_cells (c : Ctx) : (c.turnPacket).cells = c.cells := by
  obtain ⟨_, _, h⟩ := c.turnPacket_shape; rw [h]
@[simp] theorem Ctx.turnPacket_scratch (c : Ctx) : (c.turnPacket).scratch = c.scratch := by
  obtain ⟨_, _, h⟩ := c.turnPacket_shape; rw [h]
@[simp] theorem Ctx.turnPacket_trapMem (c : Ctx) : (c.turnPacket).trapMem = c.trapMem := by
  obtain ⟨_, _, h⟩ := c.turnPacket_shape; rw [h]
@[simp] theorem Ctx.turnPacket_badScratch (c : Ctx) : (c.turnPacket).badScratch = c.badScratch := by
  obtain ⟨_, _, h⟩ := c.turnPacket_shape; rw [h]
@[simp] theorem Ctx.turnPacket_badTrapMem (c : Ctx) : (c.turnPacket).badTrapMem = c.badTrapMem := by
  obtain ⟨_, _, h⟩ := c.turnPacket_shape; rw [h]
@[simp] theorem Ctx.turnPacket_jobs (c : Ctx) : (c.turnPacket).jobs = c.jobs := by
  obtain ⟨_, _, h⟩ := c.turnPacket_shape; rw [h]
@[simp] theorem Ctx.turnPacket_revJobs (c : Ctx) : (c.turnPacket).revJobs = c.revJobs := by
  obtain ⟨_, _, h⟩ := c.turnPacket_shape; rw [h]
@[simp] theorem Ctx.turnPacket_trapJobs (c : Ctx) : (c.turnPacket).trapJobs = c.trapJobs := by
  obtain ⟨_, _, h⟩ := c.turnPacket_shape; rw [h]
@[simp] theorem Ctx.turnPacket_committed (c : Ctx) : (c.turnPacket).committed = c.committed := by
  obtain ⟨_, _, h⟩ := c.turnPacket_shape; rw [h]
@[simp] theorem Ctx.turnPacket_finished (c : Ctx) : (c.turnPacket).finished = c.finished := by
  obtain ⟨_, _, h⟩ := c.turnPacket_shape; rw [h]
@[simp] theorem Ctx.turnPacket_fresh (c : Ctx) : (c.turnPacket).fresh = c.fresh := by
  obtain ⟨_, _, h⟩ := c.turnPacket_shape; rw [h]

@[simp] theorem Ctx.endPacket_id (c : Ctx) : (c.endPacket).id = c.id := by
  obtain ⟨_, _, _, _, h⟩ := c.endPacket_shape; rw [h]
@[simp] theorem Ctx.endPacket_code (c : Ctx) : (c.endPacket).code = c.code := by
  obtain ⟨_, _, _, _, h⟩ := c.endPacket_shape; rw [h]
@[simp] theorem Ctx.endPacket_norm (c : Ctx) : (c.endPacket).norm = c.norm := by
  obtain ⟨_, _, _, _, h⟩ := c.endPacket_shape; rw [h]
@[simp] theorem Ctx.endPacket_trapBank (c : Ctx) : (c.endPacket).trapBank = c.trapBank := by
  obtain ⟨_, _, _, _, h⟩ := c.endPacket_shape; rw [h]
@[simp] theorem Ctx.endPacket_time (c : Ctx) : (c.endPacket).time = c.time := by
  obtain ⟨_, _, _, _, h⟩ := c.endPacket_shape; rw [h]
@[simp] theorem Ctx.endPacket_trap (c : Ctx) : (c.endPacket).trap = c.trap := by
  obtain ⟨_, _, _, _, h⟩ := c.endPacket_shape; rw [h]
@[simp] theorem Ctx.endPacket_sys (c : Ctx) : (c.endPacket).sys = c.sys := by
  obtain ⟨_, _, _, _, h⟩ := c.endPacket_shape; rw [h]
@[simp] theorem Ctx.endPacket_adj (c : Ctx) : (c.endPacket).adj = c.adj := by
  obtain ⟨_, _, _, _, h⟩ := c.endPacket_shape; rw [h]
@[simp] theorem Ctx.endPacket_motif (c : Ctx) : (c.endPacket).motif = c.motif := by
  obtain ⟨_, _, _, _, h⟩ := c.endPacket_shape; rw [h]
@[simp] theorem Ctx.endPacket_spec (c : Ctx) : (c.endPacket).spec = c.spec := by
  obtain ⟨_, _, _, _, h⟩ := c.endPacket_shape; rw [h]
@[simp] theorem Ctx.endPacket_fmt (c : Ctx) : (c.endPacket).fmt = c.fmt := by
  obtain ⟨_, _, _, _, h⟩ := c.endPacket_shape; rw [h]
@[simp] theorem Ctx.endPacket_latch (c : Ctx) : (c.endPacket).latch = c.latch := by
  obtain ⟨_, _, _, _, h⟩ := c.endPacket_shape; rw [h]
@[simp] theorem Ctx.endPacket_eng (c : Ctx) : (c.endPacket).eng = c.eng := by
  obtain ⟨_, _, _, _, h⟩ := c.endPacket_shape; rw [h]
@[simp] theorem Ctx.endPacket_landings (c : Ctx) : (c.endPacket).landings = c.landings := by
  obtain ⟨_, _, _, _, h⟩ := c.endPacket_shape; rw [h]
@[simp] theorem Ctx.endPacket_towerOps (c : Ctx) : (c.endPacket).towerOps = c.towerOps := by
  obtain ⟨_, _, _, _, h⟩ := c.endPacket_shape; rw [h]
@[simp] theorem Ctx.endPacket_windows (c : Ctx) : (c.endPacket).windows = c.windows := by
  obtain ⟨_, _, _, _, h⟩ := c.endPacket_shape; rw [h]
@[simp] theorem Ctx.endPacket_flights (c : Ctx) : (c.endPacket).flights = c.flights := by
  obtain ⟨_, _, _, _, h⟩ := c.endPacket_shape; rw [h]
@[simp] theorem Ctx.endPacket_glob (c : Ctx) : (c.endPacket).glob = c.glob := by
  obtain ⟨_, _, _, _, h⟩ := c.endPacket_shape; rw [h]
@[simp] theorem Ctx.endPacket_outbox (c : Ctx) : (c.endPacket).outbox = c.outbox := by
  obtain ⟨_, _, _, _, h⟩ := c.endPacket_shape; rw [h]
@[simp] theorem Ctx.endPacket_borders (c : Ctx) : (c.endPacket).borders = c.borders := by
  obtain ⟨_, _, _, _, h⟩ := c.endPacket_shape; rw [h]
@[simp] theorem Ctx.endPacket_cells (c : Ctx) : (c.endPacket).cells = c.cells := by
  obtain ⟨_, _, _, _, h⟩ := c.endPacket_shape; rw [h]
@[simp] theorem Ctx.endPacket_scratch (c : Ctx) : (c.endPacket).scratch = c.scratch := by
  obtain ⟨_, _, _, _, h⟩ := c.endPacket_shape; rw [h]
@[simp] theorem Ctx.endPacket_trapMem (c : Ctx) : (c.endPacket).trapMem = c.trapMem := by
  obtain ⟨_, _, _, _, h⟩ := c.endPacket_shape; rw [h]
@[simp] theorem Ctx.endPacket_badScratch (c : Ctx) : (c.endPacket).badScratch = c.badScratch := by
  obtain ⟨_, _, _, _, h⟩ := c.endPacket_shape; rw [h]
@[simp] theorem Ctx.endPacket_badTrapMem (c : Ctx) : (c.endPacket).badTrapMem = c.badTrapMem := by
  obtain ⟨_, _, _, _, h⟩ := c.endPacket_shape; rw [h]
@[simp] theorem Ctx.endPacket_jobs (c : Ctx) : (c.endPacket).jobs = c.jobs := by
  obtain ⟨_, _, _, _, h⟩ := c.endPacket_shape; rw [h]
@[simp] theorem Ctx.endPacket_revJobs (c : Ctx) : (c.endPacket).revJobs = c.revJobs := by
  obtain ⟨_, _, _, _, h⟩ := c.endPacket_shape; rw [h]
@[simp] theorem Ctx.endPacket_trapJobs (c : Ctx) : (c.endPacket).trapJobs = c.trapJobs := by
  obtain ⟨_, _, _, _, h⟩ := c.endPacket_shape; rw [h]
@[simp] theorem Ctx.endPacket_committed (c : Ctx) : (c.endPacket).committed = c.committed := by
  obtain ⟨_, _, _, _, h⟩ := c.endPacket_shape; rw [h]
@[simp] theorem Ctx.endPacket_finished (c : Ctx) : (c.endPacket).finished = c.finished := by
  obtain ⟨_, _, _, _, h⟩ := c.endPacket_shape; rw [h]
@[simp] theorem Ctx.endPacket_fresh (c : Ctx) : (c.endPacket).fresh = c.fresh := by
  obtain ⟨_, _, _, _, h⟩ := c.endPacket_shape; rw [h]

@[simp] theorem Ctx.advance_id (c : Ctx) (e : Bool) (n : Nat) : (c.advance e n).id = c.id := by
  obtain ⟨_, _, _, _, h⟩ := c.advance_shape e n; rw [h]
@[simp] theorem Ctx.advance_code (c : Ctx) (e : Bool) (n : Nat) : (c.advance e n).code = c.code := by
  obtain ⟨_, _, _, _, h⟩ := c.advance_shape e n; rw [h]
@[simp] theorem Ctx.advance_norm (c : Ctx) (e : Bool) (n : Nat) : (c.advance e n).norm = c.norm := by
  obtain ⟨_, _, _, _, h⟩ := c.advance_shape e n; rw [h]
@[simp] theorem Ctx.advance_trapBank (c : Ctx) (e : Bool) (n : Nat) : (c.advance e n).trapBank = c.trapBank := by
  obtain ⟨_, _, _, _, h⟩ := c.advance_shape e n; rw [h]
@[simp] theorem Ctx.advance_time (c : Ctx) (e : Bool) (n : Nat) : (c.advance e n).time = c.time := by
  obtain ⟨_, _, _, _, h⟩ := c.advance_shape e n; rw [h]
@[simp] theorem Ctx.advance_trap (c : Ctx) (e : Bool) (n : Nat) : (c.advance e n).trap = c.trap := by
  obtain ⟨_, _, _, _, h⟩ := c.advance_shape e n; rw [h]
@[simp] theorem Ctx.advance_sys (c : Ctx) (e : Bool) (n : Nat) : (c.advance e n).sys = c.sys := by
  obtain ⟨_, _, _, _, h⟩ := c.advance_shape e n; rw [h]
@[simp] theorem Ctx.advance_adj (c : Ctx) (e : Bool) (n : Nat) : (c.advance e n).adj = c.adj := by
  obtain ⟨_, _, _, _, h⟩ := c.advance_shape e n; rw [h]
@[simp] theorem Ctx.advance_motif (c : Ctx) (e : Bool) (n : Nat) : (c.advance e n).motif = c.motif := by
  obtain ⟨_, _, _, _, h⟩ := c.advance_shape e n; rw [h]
@[simp] theorem Ctx.advance_spec (c : Ctx) (e : Bool) (n : Nat) : (c.advance e n).spec = c.spec := by
  obtain ⟨_, _, _, _, h⟩ := c.advance_shape e n; rw [h]
@[simp] theorem Ctx.advance_fmt (c : Ctx) (e : Bool) (n : Nat) : (c.advance e n).fmt = c.fmt := by
  obtain ⟨_, _, _, _, h⟩ := c.advance_shape e n; rw [h]
@[simp] theorem Ctx.advance_latch (c : Ctx) (e : Bool) (n : Nat) : (c.advance e n).latch = c.latch := by
  obtain ⟨_, _, _, _, h⟩ := c.advance_shape e n; rw [h]
@[simp] theorem Ctx.advance_eng (c : Ctx) (e : Bool) (n : Nat) : (c.advance e n).eng = c.eng := by
  obtain ⟨_, _, _, _, h⟩ := c.advance_shape e n; rw [h]
@[simp] theorem Ctx.advance_landings (c : Ctx) (e : Bool) (n : Nat) : (c.advance e n).landings = c.landings := by
  obtain ⟨_, _, _, _, h⟩ := c.advance_shape e n; rw [h]
@[simp] theorem Ctx.advance_towerOps (c : Ctx) (e : Bool) (n : Nat) : (c.advance e n).towerOps = c.towerOps := by
  obtain ⟨_, _, _, _, h⟩ := c.advance_shape e n; rw [h]
@[simp] theorem Ctx.advance_windows (c : Ctx) (e : Bool) (n : Nat) : (c.advance e n).windows = c.windows := by
  obtain ⟨_, _, _, _, h⟩ := c.advance_shape e n; rw [h]
@[simp] theorem Ctx.advance_flights (c : Ctx) (e : Bool) (n : Nat) : (c.advance e n).flights = c.flights := by
  obtain ⟨_, _, _, _, h⟩ := c.advance_shape e n; rw [h]
@[simp] theorem Ctx.advance_glob (c : Ctx) (e : Bool) (n : Nat) : (c.advance e n).glob = c.glob := by
  obtain ⟨_, _, _, _, h⟩ := c.advance_shape e n; rw [h]
@[simp] theorem Ctx.advance_outbox (c : Ctx) (e : Bool) (n : Nat) : (c.advance e n).outbox = c.outbox := by
  obtain ⟨_, _, _, _, h⟩ := c.advance_shape e n; rw [h]
@[simp] theorem Ctx.advance_borders (c : Ctx) (e : Bool) (n : Nat) : (c.advance e n).borders = c.borders := by
  obtain ⟨_, _, _, _, h⟩ := c.advance_shape e n; rw [h]
@[simp] theorem Ctx.advance_cells (c : Ctx) (e : Bool) (n : Nat) : (c.advance e n).cells = c.cells := by
  obtain ⟨_, _, _, _, h⟩ := c.advance_shape e n; rw [h]
@[simp] theorem Ctx.advance_scratch (c : Ctx) (e : Bool) (n : Nat) : (c.advance e n).scratch = c.scratch := by
  obtain ⟨_, _, _, _, h⟩ := c.advance_shape e n; rw [h]
@[simp] theorem Ctx.advance_trapMem (c : Ctx) (e : Bool) (n : Nat) : (c.advance e n).trapMem = c.trapMem := by
  obtain ⟨_, _, _, _, h⟩ := c.advance_shape e n; rw [h]
@[simp] theorem Ctx.advance_badScratch (c : Ctx) (e : Bool) (n : Nat) : (c.advance e n).badScratch = c.badScratch := by
  obtain ⟨_, _, _, _, h⟩ := c.advance_shape e n; rw [h]
@[simp] theorem Ctx.advance_badTrapMem (c : Ctx) (e : Bool) (n : Nat) : (c.advance e n).badTrapMem = c.badTrapMem := by
  obtain ⟨_, _, _, _, h⟩ := c.advance_shape e n; rw [h]
@[simp] theorem Ctx.advance_jobs (c : Ctx) (e : Bool) (n : Nat) : (c.advance e n).jobs = c.jobs := by
  obtain ⟨_, _, _, _, h⟩ := c.advance_shape e n; rw [h]
@[simp] theorem Ctx.advance_revJobs (c : Ctx) (e : Bool) (n : Nat) : (c.advance e n).revJobs = c.revJobs := by
  obtain ⟨_, _, _, _, h⟩ := c.advance_shape e n; rw [h]
@[simp] theorem Ctx.advance_trapJobs (c : Ctx) (e : Bool) (n : Nat) : (c.advance e n).trapJobs = c.trapJobs := by
  obtain ⟨_, _, _, _, h⟩ := c.advance_shape e n; rw [h]
@[simp] theorem Ctx.advance_committed (c : Ctx) (e : Bool) (n : Nat) : (c.advance e n).committed = c.committed := by
  obtain ⟨_, _, _, _, h⟩ := c.advance_shape e n; rw [h]
@[simp] theorem Ctx.advance_finished (c : Ctx) (e : Bool) (n : Nat) : (c.advance e n).finished = c.finished := by
  obtain ⟨_, _, _, _, h⟩ := c.advance_shape e n; rw [h]
@[simp] theorem Ctx.advance_fresh (c : Ctx) (e : Bool) (n : Nat) : (c.advance e n).fresh = c.fresh := by
  obtain ⟨_, _, _, _, h⟩ := c.advance_shape e n; rw [h]

@[simp] theorem Ctx.advance_ord (c : Ctx) (e : Bool) (n : Nat) : (c.advance e n).ord = c.ord + 1 := by
  obtain ⟨_, _, _, _, h⟩ := c.advance_shape e n; rw [h]

/-- A sequencer trap is added to those raised in the cycle, and nothing more issues. -/
theorem Ctx.trapAt_eq (c : Ctx) (code sub : BitVec 8) (t : U64) :
    c.trapAt code sub t = { c with raised := c.raised ++ [⟨code, sub, t, none, c.issue.trapPc, false, none, false⟩],
                                   issue := { c.issue with closed := true } } := rfl

/-- Within a packet the end of an instruction only moves the sequencer on. -/
theorem Ctx.advance_within {c : Ctx} (n : Nat) (h : c.issue.again = none) :
    c.advance false n = { c with ord := c.ord + 1, issue := { c.issue with
      pc := c.issue.pc + BitVec.ofNat 64 (4 * n), done := c.issue.done + 1 } } := by simp [Ctx.advance, h]

end Sys2Proof.Machine
end

