-- ==== Sys2Proof/Laws/PerInstr.lean ====
section
/-!
SUPPORT. What holds of every instruction as syntax, one lemma per constructor: an encoding is one word or two, each below
2^32, and its first word's major says which (R128); a step of the package has none.
-/

namespace Sys2Proof.Laws.Encoding

/-- The words of an instruction fit, and their number is what the major of the first says (R128). -/
def Statement (i : Instr) : Prop :=
  match encode i with
  | [] => True
  | [w0] => w0 < 2 ^ 32 ∧ lengthOf w0 = 1
  | [w0, w1] => w0 < 2 ^ 32 ∧ w1 < 2 ^ 32 ∧ lengthOf w0 = 2
  | _ => False

/-- A word whose major is below 0x20 stands alone (R128). -/
theorem one {w : Nat} (h : w < 2147483648) : w < 2 ^ 32 ∧ lengthOf w = 1 :=
  ⟨by omega, by rw [lengthOf, majorOf, if_pos (by omega)]⟩

/-- A word whose major is 0x20 or above has a second (R128). -/
theorem two {w x : Nat} (h : 2147483648 ≤ w) (k : w < 4294967296) (j : x < 4294967296) :
    w < 2 ^ 32 ∧ x < 2 ^ 32 ∧ lengthOf w = 2 :=
  ⟨by omega, by omega, by rw [lengthOf, majorOf, if_neg (by omega)]⟩

/-- Word1 of a command fits. -/
theorem word1_lt (h : Ex) {a : Nat} (k : a < 32) : h.word1 a < 4294967296 := by
  have := h.start.isLt; have := h.p.isLt; have := h.c.isLt; have := Bool.toNat_lt h.ps
  simp only [Ex.word1]; omega

theorem add (e : Bool) (d a b : BitVec 5) : Statement (.add e d a b) := by
  have := Bool.toNat_lt e; have := d.isLt; have := a.isLt; have := b.isLt
  exact one (by omega)
theorem sub (e : Bool) (d a b : BitVec 5) : Statement (.sub e d a b) := by
  have := Bool.toNat_lt e; have := d.isLt; have := a.isLt; have := b.isLt
  exact one (by omega)
theorem and (e : Bool) (d a b : BitVec 5) : Statement (.and e d a b) := by
  have := Bool.toNat_lt e; have := d.isLt; have := a.isLt; have := b.isLt
  exact one (by omega)
theorem or (e : Bool) (d a b : BitVec 5) : Statement (.or e d a b) := by
  have := Bool.toNat_lt e; have := d.isLt; have := a.isLt; have := b.isLt
  exact one (by omega)
theorem xor (e : Bool) (d a b : BitVec 5) : Statement (.xor e d a b) := by
  have := Bool.toNat_lt e; have := d.isLt; have := a.isLt; have := b.isLt
  exact one (by omega)
theorem andn (e : Bool) (d a b : BitVec 5) : Statement (.andn e d a b) := by
  have := Bool.toNat_lt e; have := d.isLt; have := a.isLt; have := b.isLt
  exact one (by omega)
theorem sll (e : Bool) (d a b : BitVec 5) : Statement (.sll e d a b) := by
  have := Bool.toNat_lt e; have := d.isLt; have := a.isLt; have := b.isLt
  exact one (by omega)
theorem srl (e : Bool) (d a b : BitVec 5) : Statement (.srl e d a b) := by
  have := Bool.toNat_lt e; have := d.isLt; have := a.isLt; have := b.isLt
  exact one (by omega)
theorem sra (e : Bool) (d a b : BitVec 5) : Statement (.sra e d a b) := by
  have := Bool.toNat_lt e; have := d.isLt; have := a.isLt; have := b.isLt
  exact one (by omega)
theorem ror (e : Bool) (d a b : BitVec 5) : Statement (.ror e d a b) := by
  have := Bool.toNat_lt e; have := d.isLt; have := a.isLt; have := b.isLt
  exact one (by omega)
theorem slt (e : Bool) (d a b : BitVec 5) : Statement (.slt e d a b) := by
  have := Bool.toNat_lt e; have := d.isLt; have := a.isLt; have := b.isLt
  exact one (by omega)
theorem sltu (e : Bool) (d a b : BitVec 5) : Statement (.sltu e d a b) := by
  have := Bool.toNat_lt e; have := d.isLt; have := a.isLt; have := b.isLt
  exact one (by omega)
theorem min (e : Bool) (d a b : BitVec 5) : Statement (.min e d a b) := by
  have := Bool.toNat_lt e; have := d.isLt; have := a.isLt; have := b.isLt
  exact one (by omega)
theorem max (e : Bool) (d a b : BitVec 5) : Statement (.max e d a b) := by
  have := Bool.toNat_lt e; have := d.isLt; have := a.isLt; have := b.isLt
  exact one (by omega)
theorem minu (e : Bool) (d a b : BitVec 5) : Statement (.minu e d a b) := by
  have := Bool.toNat_lt e; have := d.isLt; have := a.isLt; have := b.isLt
  exact one (by omega)
theorem maxu (e : Bool) (d a b : BitVec 5) : Statement (.maxu e d a b) := by
  have := Bool.toNat_lt e; have := d.isLt; have := a.isLt; have := b.isLt
  exact one (by omega)
theorem addw (e : Bool) (d a b : BitVec 5) : Statement (.addw e d a b) := by
  have := Bool.toNat_lt e; have := d.isLt; have := a.isLt; have := b.isLt
  exact one (by omega)
theorem subw (e : Bool) (d a b : BitVec 5) : Statement (.subw e d a b) := by
  have := Bool.toNat_lt e; have := d.isLt; have := a.isLt; have := b.isLt
  exact one (by omega)
theorem sllw (e : Bool) (d a b : BitVec 5) : Statement (.sllw e d a b) := by
  have := Bool.toNat_lt e; have := d.isLt; have := a.isLt; have := b.isLt
  exact one (by omega)
theorem srlw (e : Bool) (d a b : BitVec 5) : Statement (.srlw e d a b) := by
  have := Bool.toNat_lt e; have := d.isLt; have := a.isLt; have := b.isLt
  exact one (by omega)
theorem sraw (e : Bool) (d a b : BitVec 5) : Statement (.sraw e d a b) := by
  have := Bool.toNat_lt e; have := d.isLt; have := a.isLt; have := b.isLt
  exact one (by omega)
theorem clz (e : Bool) (d a : BitVec 5) : Statement (.clz e d a) := by
  have := Bool.toNat_lt e; have := d.isLt; have := a.isLt
  exact one (by omega)
theorem ctz (e : Bool) (d a : BitVec 5) : Statement (.ctz e d a) := by
  have := Bool.toNat_lt e; have := d.isLt; have := a.isLt
  exact one (by omega)
theorem popc (e : Bool) (d a : BitVec 5) : Statement (.popc e d a) := by
  have := Bool.toNat_lt e; have := d.isLt; have := a.isLt
  exact one (by omega)
theorem sextb (e : Bool) (d a : BitVec 5) : Statement (.sextb e d a) := by
  have := Bool.toNat_lt e; have := d.isLt; have := a.isLt
  exact one (by omega)
theorem sexth (e : Bool) (d a : BitVec 5) : Statement (.sexth e d a) := by
  have := Bool.toNat_lt e; have := d.isLt; have := a.isLt
  exact one (by omega)
theorem sextw (e : Bool) (d a : BitVec 5) : Statement (.sextw e d a) := by
  have := Bool.toNat_lt e; have := d.isLt; have := a.isLt
  exact one (by omega)
theorem zextw (e : Bool) (d a : BitVec 5) : Statement (.zextw e d a) := by
  have := Bool.toNat_lt e; have := d.isLt; have := a.isLt
  exact one (by omega)
theorem addi (e : Bool) (d a : BitVec 5) (i : BitVec 12) : Statement (.addi e d a i) := by
  have := Bool.toNat_lt e; have := d.isLt; have := a.isLt; have := i.isLt
  exact one (by omega)
theorem andi (e : Bool) (d a : BitVec 5) (i : BitVec 12) : Statement (.andi e d a i) := by
  have := Bool.toNat_lt e; have := d.isLt; have := a.isLt; have := i.isLt
  exact one (by omega)
theorem ori (e : Bool) (d a : BitVec 5) (i : BitVec 12) : Statement (.ori e d a i) := by
  have := Bool.toNat_lt e; have := d.isLt; have := a.isLt; have := i.isLt
  exact one (by omega)
theorem xori (e : Bool) (d a : BitVec 5) (i : BitVec 12) : Statement (.xori e d a i) := by
  have := Bool.toNat_lt e; have := d.isLt; have := a.isLt; have := i.isLt
  exact one (by omega)
theorem slli (e : Bool) (d a : BitVec 5) (i : BitVec 6) : Statement (.slli e d a i) := by
  have := Bool.toNat_lt e; have := d.isLt; have := a.isLt; have := i.isLt
  exact one (by omega)
theorem srli (e : Bool) (d a : BitVec 5) (i : BitVec 6) : Statement (.srli e d a i) := by
  have := Bool.toNat_lt e; have := d.isLt; have := a.isLt; have := i.isLt
  exact one (by omega)
theorem srai (e : Bool) (d a : BitVec 5) (i : BitVec 6) : Statement (.srai e d a i) := by
  have := Bool.toNat_lt e; have := d.isLt; have := a.isLt; have := i.isLt
  exact one (by omega)
theorem slti (e : Bool) (d a : BitVec 5) (i : BitVec 12) : Statement (.slti e d a i) := by
  have := Bool.toNat_lt e; have := d.isLt; have := a.isLt; have := i.isLt
  exact one (by omega)
theorem lih (e : Bool) (d : BitVec 5) (i : BitVec 20) : Statement (.lih e d i) := by
  have := Bool.toNat_lt e; have := d.isLt; have := i.isLt
  exact one (by omega)
theorem lipc (e : Bool) (d : BitVec 5) (i : BitVec 20) : Statement (.lipc e d i) := by
  have := Bool.toNat_lt e; have := d.isLt; have := i.isLt
  exact one (by omega)
theorem ldb (e : Bool) (d a : BitVec 5) (i : BitVec 12) : Statement (.ldb e d a i) := by
  have := Bool.toNat_lt e; have := d.isLt; have := a.isLt; have := i.isLt
  exact one (by omega)
theorem ldh (e : Bool) (d a : BitVec 5) (i : BitVec 12) : Statement (.ldh e d a i) := by
  have := Bool.toNat_lt e; have := d.isLt; have := a.isLt; have := i.isLt
  exact one (by omega)
theorem ldw (e : Bool) (d a : BitVec 5) (i : BitVec 12) : Statement (.ldw e d a i) := by
  have := Bool.toNat_lt e; have := d.isLt; have := a.isLt; have := i.isLt
  exact one (by omega)
theorem ldd (e : Bool) (d a : BitVec 5) (i : BitVec 12) : Statement (.ldd e d a i) := by
  have := Bool.toNat_lt e; have := d.isLt; have := a.isLt; have := i.isLt
  exact one (by omega)
theorem ldbu (e : Bool) (d a : BitVec 5) (i : BitVec 12) : Statement (.ldbu e d a i) := by
  have := Bool.toNat_lt e; have := d.isLt; have := a.isLt; have := i.isLt
  exact one (by omega)
theorem ldhu (e : Bool) (d a : BitVec 5) (i : BitVec 12) : Statement (.ldhu e d a i) := by
  have := Bool.toNat_lt e; have := d.isLt; have := a.isLt; have := i.isLt
  exact one (by omega)
theorem ldwu (e : Bool) (d a : BitVec 5) (i : BitVec 12) : Statement (.ldwu e d a i) := by
  have := Bool.toNat_lt e; have := d.isLt; have := a.isLt; have := i.isLt
  exact one (by omega)
theorem ldacq (e : Bool) (d a : BitVec 5) (sc : BitVec 3) (o : BitVec 9) : Statement (.ldacq e d a sc o) := by
  have := Bool.toNat_lt e; have := d.isLt; have := a.isLt; have := sc.isLt; have := o.isLt
  exact one (by omega)
theorem stb (e : Bool) (b a : BitVec 5) (i : BitVec 12) : Statement (.stb e b a i) := by
  have := Bool.toNat_lt e; have := b.isLt; have := a.isLt; have := i.isLt
  exact one (by omega)
theorem sth (e : Bool) (b a : BitVec 5) (i : BitVec 12) : Statement (.sth e b a i) := by
  have := Bool.toNat_lt e; have := b.isLt; have := a.isLt; have := i.isLt
  exact one (by omega)
theorem stw (e : Bool) (b a : BitVec 5) (i : BitVec 12) : Statement (.stw e b a i) := by
  have := Bool.toNat_lt e; have := b.isLt; have := a.isLt; have := i.isLt
  exact one (by omega)
theorem std (e : Bool) (b a : BitVec 5) (i : BitVec 12) : Statement (.std e b a i) := by
  have := Bool.toNat_lt e; have := b.isLt; have := a.isLt; have := i.isLt
  exact one (by omega)
theorem strel (e : Bool) (b a : BitVec 5) (sc : BitVec 3) (o : BitVec 9) : Statement (.strel e b a sc o) := by
  have := Bool.toNat_lt e; have := b.isLt; have := a.isLt; have := sc.isLt; have := o.isLt
  exact one (by omega)
theorem aadd (e : Bool) (d a b : BitVec 5) (sc : BitVec 3) (o : BitVec 2) (w : Bool) : Statement (.aadd e d a b sc o w) := by
  have := Bool.toNat_lt e; have := d.isLt; have := a.isLt; have := b.isLt; have := sc.isLt; have := o.isLt; have := Bool.toNat_lt w
  exact one (by omega)
theorem aand (e : Bool) (d a b : BitVec 5) (sc : BitVec 3) (o : BitVec 2) (w : Bool) : Statement (.aand e d a b sc o w) := by
  have := Bool.toNat_lt e; have := d.isLt; have := a.isLt; have := b.isLt; have := sc.isLt; have := o.isLt; have := Bool.toNat_lt w
  exact one (by omega)
theorem aor (e : Bool) (d a b : BitVec 5) (sc : BitVec 3) (o : BitVec 2) (w : Bool) : Statement (.aor e d a b sc o w) := by
  have := Bool.toNat_lt e; have := d.isLt; have := a.isLt; have := b.isLt; have := sc.isLt; have := o.isLt; have := Bool.toNat_lt w
  exact one (by omega)
theorem axor (e : Bool) (d a b : BitVec 5) (sc : BitVec 3) (o : BitVec 2) (w : Bool) : Statement (.axor e d a b sc o w) := by
  have := Bool.toNat_lt e; have := d.isLt; have := a.isLt; have := b.isLt; have := sc.isLt; have := o.isLt; have := Bool.toNat_lt w
  exact one (by omega)
theorem amin (e : Bool) (d a b : BitVec 5) (sc : BitVec 3) (o : BitVec 2) (w : Bool) : Statement (.amin e d a b sc o w) := by
  have := Bool.toNat_lt e; have := d.isLt; have := a.isLt; have := b.isLt; have := sc.isLt; have := o.isLt; have := Bool.toNat_lt w
  exact one (by omega)
theorem amax (e : Bool) (d a b : BitVec 5) (sc : BitVec 3) (o : BitVec 2) (w : Bool) : Statement (.amax e d a b sc o w) := by
  have := Bool.toNat_lt e; have := d.isLt; have := a.isLt; have := b.isLt; have := sc.isLt; have := o.isLt; have := Bool.toNat_lt w
  exact one (by omega)
theorem aminu (e : Bool) (d a b : BitVec 5) (sc : BitVec 3) (o : BitVec 2) (w : Bool) : Statement (.aminu e d a b sc o w) := by
  have := Bool.toNat_lt e; have := d.isLt; have := a.isLt; have := b.isLt; have := sc.isLt; have := o.isLt; have := Bool.toNat_lt w
  exact one (by omega)
theorem amaxu (e : Bool) (d a b : BitVec 5) (sc : BitVec 3) (o : BitVec 2) (w : Bool) : Statement (.amaxu e d a b sc o w) := by
  have := Bool.toNat_lt e; have := d.isLt; have := a.isLt; have := b.isLt; have := sc.isLt; have := o.isLt; have := Bool.toNat_lt w
  exact one (by omega)
theorem aswap (e : Bool) (d a b : BitVec 5) (sc : BitVec 3) (o : BitVec 2) (w : Bool) : Statement (.aswap e d a b sc o w) := by
  have := Bool.toNat_lt e; have := d.isLt; have := a.isLt; have := b.isLt; have := sc.isLt; have := o.isLt; have := Bool.toNat_lt w
  exact one (by omega)
theorem acas (e : Bool) (d a b : BitVec 5) (sc : BitVec 3) (o : BitVec 2) (w : Bool) : Statement (.acas e d a b sc o w) := by
  have := Bool.toNat_lt e; have := d.isLt; have := a.isLt; have := b.isLt; have := sc.isLt; have := o.isLt; have := Bool.toNat_lt w
  exact one (by omega)
theorem ptgt (e : Bool) (n : BitVec 2) (o : BitVec 21) : Statement (.ptgt e n o) := by
  have := Bool.toNat_lt e; have := n.isLt; have := o.isLt
  exact one (by omega)
theorem ptgtr (e : Bool) (n : BitVec 2) (a : BitVec 5) : Statement (.ptgtr e n a) := by
  have := Bool.toNat_lt e; have := n.isLt; have := a.isLt
  exact one (by omega)
theorem br (e : Bool) (n : BitVec 2) (c : BitVec 3) (sn : Bool) : Statement (.br e n c sn) := by
  have := Bool.toNat_lt e; have := n.isLt; have := c.isLt; have := Bool.toNat_lt sn
  exact one (by omega)
theorem brl (e : Bool) (n : BitVec 2) (c : BitVec 3) (sn : Bool) : Statement (.brl e n c sn) := by
  have := Bool.toNat_lt e; have := n.isLt; have := c.isLt; have := Bool.toNat_lt sn
  exact one (by omega)
theorem cmpeq (e : Bool) (d a b : BitVec 5) : Statement (.cmpeq e d a b) := by
  have := Bool.toNat_lt e; have := d.isLt; have := a.isLt; have := b.isLt
  exact one (by omega)
theorem cmpne (e : Bool) (d a b : BitVec 5) : Statement (.cmpne e d a b) := by
  have := Bool.toNat_lt e; have := d.isLt; have := a.isLt; have := b.isLt
  exact one (by omega)
theorem cmplt (e : Bool) (d a b : BitVec 5) : Statement (.cmplt e d a b) := by
  have := Bool.toNat_lt e; have := d.isLt; have := a.isLt; have := b.isLt
  exact one (by omega)
theorem cmpge (e : Bool) (d a b : BitVec 5) : Statement (.cmpge e d a b) := by
  have := Bool.toNat_lt e; have := d.isLt; have := a.isLt; have := b.isLt
  exact one (by omega)
theorem cmpltu (e : Bool) (d a b : BitVec 5) : Statement (.cmpltu e d a b) := by
  have := Bool.toNat_lt e; have := d.isLt; have := a.isLt; have := b.isLt
  exact one (by omega)
theorem cmpgeu (e : Bool) (d a b : BitVec 5) : Statement (.cmpgeu e d a b) := by
  have := Bool.toNat_lt e; have := d.isLt; have := a.isLt; have := b.isLt
  exact one (by omega)
theorem cand (e : Bool) (d a b : BitVec 5) : Statement (.cand e d a b) := by
  have := Bool.toNat_lt e; have := d.isLt; have := a.isLt; have := b.isLt
  exact one (by omega)
theorem cor (e : Bool) (d a b : BitVec 5) : Statement (.cor e d a b) := by
  have := Bool.toNat_lt e; have := d.isLt; have := a.isLt; have := b.isLt
  exact one (by omega)
theorem cxor (e : Bool) (d a b : BitVec 5) : Statement (.cxor e d a b) := by
  have := Bool.toNat_lt e; have := d.isLt; have := a.isLt; have := b.isLt
  exact one (by omega)
theorem cnot (e : Bool) (d a : BitVec 5) : Statement (.cnot e d a) := by
  have := Bool.toNat_lt e; have := d.isLt; have := a.isLt
  exact one (by omega)
theorem sel (e : Bool) (d a b : BitVec 5) : Statement (.sel e d a b) := by
  have := Bool.toNat_lt e; have := d.isLt; have := a.isLt; have := b.isLt
  exact one (by omega)
theorem ctos (e : Bool) (d a : BitVec 5) : Statement (.ctos e d a) := by
  have := Bool.toNat_lt e; have := d.isLt; have := a.isLt
  exact one (by omega)
theorem loop (e : Bool) (a : BitVec 5) (st : BitVec 3) (l : BitVec 6) : Statement (.loop e a st l) := by
  have := Bool.toNat_lt e; have := a.isLt; have := st.isLt; have := l.isLt
  exact one (by omega)
theorem lbreak (e : Bool) (c : BitVec 5) (k : BitVec 3) : Statement (.lbreak e c k) := by
  have := Bool.toNat_lt e; have := c.isLt; have := k.isLt
  exact one (by omega)
theorem tstart (e : Bool) : Statement (.tstart e) := by
  have := Bool.toNat_lt e
  exact one (by omega)
theorem twait (e : Bool) (a : BitVec 5) (i : BitVec 12) : Statement (.twait e a i) := by
  have := Bool.toNat_lt e; have := a.isLt; have := i.isLt
  exact one (by omega)
theorem tread (e : Bool) (d : BitVec 5) (sl : BitVec 2) : Statement (.tread e d sl) := by
  have := Bool.toNat_lt e; have := d.isLt; have := sl.isLt
  exact one (by omega)
theorem srd (e : Bool) (d : BitVec 5) (r : BitVec 12) : Statement (.srd e d r) := by
  have := Bool.toNat_lt e; have := d.isLt; have := r.isLt
  exact one (by omega)
theorem swr (e : Bool) (a : BitVec 5) (r : BitVec 12) : Statement (.swr e a r) := by
  have := Bool.toNat_lt e; have := a.isLt; have := r.isLt
  exact one (by omega)
theorem fence (e : Bool) (sc : BitVec 3) (k : BitVec 5) : Statement (.fence e sc k) := by
  have := Bool.toNat_lt e; have := sc.isLt; have := k.isLt
  exact one (by omega)
theorem trap (e : Bool) (i : BitVec 12) : Statement (.trap e i) := by
  have := Bool.toNat_lt e; have := i.isLt
  exact one (by omega)
theorem rft (e : Bool) : Statement (.rft e) := by
  have := Bool.toNat_lt e
  exact one (by omega)
theorem exit (e : Bool) : Statement (.exit e) := by
  have := Bool.toNat_lt e
  exact one (by omega)
theorem yield (e : Bool) : Statement (.yield e) := by
  have := Bool.toNat_lt e
  exact one (by omega)
theorem waitev (e : Bool) (v : BitVec 4) : Statement (.waitev e v) := by
  have := Bool.toNat_lt e; have := v.isLt
  exact one (by omega)
theorem qflush (e : Bool) (m : BitVec 4) : Statement (.qflush e m) := by
  have := Bool.toNat_lt e; have := m.isLt
  exact one (by omega)
theorem qsync (e : Bool) (m : BitVec 4) : Statement (.qsync e m) := by
  have := Bool.toNat_lt e; have := m.isLt
  exact one (by omega)
theorem qmark (e : Bool) (d : BitVec 5) (q : BitVec 2) : Statement (.qmark e d q) := by
  have := Bool.toNat_lt e; have := d.isLt; have := q.isLt
  exact one (by omega)
theorem qdepth (e : Bool) (d : BitVec 5) (q : BitVec 2) : Statement (.qdepth e d q) := by
  have := Bool.toNat_lt e; have := d.isLt; have := q.isLt
  exact one (by omega)
theorem rcfg (e : Bool) (d a : BitVec 5) (i : BitVec 12) : Statement (.rcfg e d a i) := by
  have := Bool.toNat_lt e; have := d.isLt; have := a.isLt; have := i.isLt
  exact one (by omega)
theorem waitf (e : Bool) (d : BitVec 5) (n : BitVec 9) : Statement (.waitf e d n) := by
  have := Bool.toNat_lt e; have := d.isLt; have := n.isLt
  exact one (by omega)
theorem waite (e : Bool) (d : BitVec 5) (n : BitVec 9) : Statement (.waite e d n) := by
  have := Bool.toNat_lt e; have := d.isLt; have := n.isLt
  exact one (by omega)
theorem rclaim (e : Bool) (d : BitVec 5) (n : BitVec 9) : Statement (.rclaim e d n) := by
  have := Bool.toNat_lt e; have := d.isLt; have := n.isLt
  exact one (by omega)
theorem rpub (e : Bool) (d : BitVec 5) (n : BitVec 9) : Statement (.rpub e d n) := by
  have := Bool.toNat_lt e; have := d.isLt; have := n.isLt
  exact one (by omega)
theorem rpop (e : Bool) (d : BitVec 5) (n : BitVec 9) : Statement (.rpop e d n) := by
  have := Bool.toNat_lt e; have := d.isLt; have := n.isLt
  exact one (by omega)
theorem rstat (e : Bool) (d : BitVec 5) (m : BitVec 3) (sl cl : BitVec 4) : Statement (.rstat e d m sl cl) := by
  have := Bool.toNat_lt e; have := d.isLt; have := m.isLt; have := sl.isLt; have := cl.isLt
  exact one (by omega)
theorem finc (e : Bool) (d a : BitVec 5) (sc : BitVec 3) (f : BitVec 8) : Statement (.finc e d a sc f) := by
  have := Bool.toNat_lt e; have := d.isLt; have := a.isLt; have := sc.isLt; have := f.isLt
  exact one (by omega)
theorem fwait (e : Bool) (a : BitVec 5) (sc : BitVec 3) (f : BitVec 8) : Statement (.fwait e a sc f) := by
  have := Bool.toNat_lt e; have := a.isLt; have := sc.isLt; have := f.isLt
  exact one (by omega)
theorem fset (e : Bool) (a : BitVec 5) (sc : BitVec 3) (f : BitVec 8) : Statement (.fset e a sc f) := by
  have := Bool.toNat_lt e; have := a.isLt; have := sc.isLt; have := f.isLt
  exact one (by omega)
theorem fread (e : Bool) (d : BitVec 5) (sc : BitVec 3) (f : BitVec 8) : Statement (.fread e d sc f) := by
  have := Bool.toNat_lt e; have := d.isLt; have := sc.isLt; have := f.isLt
  exact one (by omega)
theorem bar (e : Bool) (a : BitVec 5) (sc : BitVec 3) (f : BitVec 8) : Statement (.bar e a sc f) := by
  have := Bool.toNat_lt e; have := a.isLt; have := sc.isLt; have := f.isLt
  exact one (by omega)
theorem admode (e : Bool) (m : BitVec 2) : Statement (.admode e m) := by
  have := Bool.toNat_lt e; have := m.isLt
  exact one (by omega)
theorem tapemk (e : Bool) (d : BitVec 5) : Statement (.tapemk e d) := by
  have := Bool.toNat_lt e; have := d.isLt
  exact one (by omega)
theorem tapecut (e : Bool) (a : BitVec 5) : Statement (.tapecut e a) := by
  have := Bool.toNat_lt e; have := a.isLt
  exact one (by omega)
theorem launch (e : Bool) (d a : BitVec 5) (q : BitVec 6) : Statement (.launch e d a q) := by
  have := Bool.toNat_lt e; have := d.isLt; have := a.isLt; have := q.isLt
  exact one (by omega)
theorem ncommit (e : Bool) : Statement (.ncommit e) := by
  have := Bool.toNat_lt e
  exact one (by omega)
theorem mul (e : Bool) (d a b : BitVec 5) : Statement (.mul e d a b) := by
  have := Bool.toNat_lt e; have := d.isLt; have := a.isLt; have := b.isLt
  exact one (by omega)
theorem mulh (e : Bool) (d a b : BitVec 5) : Statement (.mulh e d a b) := by
  have := Bool.toNat_lt e; have := d.isLt; have := a.isLt; have := b.isLt
  exact one (by omega)
theorem mulhu (e : Bool) (d a b : BitVec 5) : Statement (.mulhu e d a b) := by
  have := Bool.toNat_lt e; have := d.isLt; have := a.isLt; have := b.isLt
  exact one (by omega)
theorem div (e : Bool) (d a b : BitVec 5) : Statement (.div e d a b) := by
  have := Bool.toNat_lt e; have := d.isLt; have := a.isLt; have := b.isLt
  exact one (by omega)
theorem divu (e : Bool) (d a b : BitVec 5) : Statement (.divu e d a b) := by
  have := Bool.toNat_lt e; have := d.isLt; have := a.isLt; have := b.isLt
  exact one (by omega)
theorem rem (e : Bool) (d a b : BitVec 5) : Statement (.rem e d a b) := by
  have := Bool.toNat_lt e; have := d.isLt; have := a.isLt; have := b.isLt
  exact one (by omega)
theorem remu (e : Bool) (d a b : BitVec 5) : Statement (.remu e d a b) := by
  have := Bool.toNat_lt e; have := d.isLt; have := a.isLt; have := b.isLt
  exact one (by omega)
theorem mulw (e : Bool) (d a b : BitVec 5) : Statement (.mulw e d a b) := by
  have := Bool.toNat_lt e; have := d.isLt; have := a.isLt; have := b.isLt
  exact one (by omega)
theorem divw (e : Bool) (d a b : BitVec 5) : Statement (.divw e d a b) := by
  have := Bool.toNat_lt e; have := d.isLt; have := a.isLt; have := b.isLt
  exact one (by omega)
theorem fmt (e : Bool) (a : BitVec 5) : Statement (.fmt e a) := by
  have := Bool.toNat_lt e; have := a.isLt
  exact one (by omega)
theorem fmtclr (e : Bool) : Statement (.fmtclr e) := by
  have := Bool.toNat_lt e
  exact one (by omega)
theorem mld (e : Bool) (a : BitVec 5) (sl : BitVec 3) : Statement (.mld e a sl) := by
  have := Bool.toNat_lt e; have := a.isLt; have := sl.isLt
  exact one (by omega)
theorem mbind (e : Bool) (sl : BitVec 3) (cd : BitVec 6) : Statement (.mbind e sl cd) := by
  have := Bool.toNat_lt e; have := sl.isLt; have := cd.isLt
  exact one (by omega)
theorem munbind (e : Bool) (cd : BitVec 6) : Statement (.munbind e cd) := by
  have := Bool.toNat_lt e; have := cd.isLt
  exact one (by omega)
theorem mstat (e : Bool) (d : BitVec 5) (sl : BitVec 3) : Statement (.mstat e d sl) := by
  have := Bool.toNat_lt e; have := d.isLt; have := sl.isLt
  exact one (by omega)
theorem spmark (e : Bool) (m : BitVec 8) : Statement (.spmark e m) := by
  have := Bool.toNat_lt e; have := m.isLt
  exact one (by omega)
theorem spaccept (e : Bool) (a : BitVec 5) : Statement (.spaccept e a) := by
  have := Bool.toNat_lt e; have := a.isLt
  exact one (by omega)
theorem spdrop (e : Bool) : Statement (.spdrop e) := by
  have := Bool.toNat_lt e
  exact one (by omega)
theorem vadd (h : Ex) (d a b : BitVec 5) (ty : BitVec 4) : Statement (.vadd h d a b ty) := by
  have := Bool.toNat_lt h.e; have := d.isLt; have := a.isLt; have := b.isLt; have := ty.isLt
  exact two (by omega) (by omega) (word1_lt h (by omega))
theorem vsub (h : Ex) (d a b : BitVec 5) (ty : BitVec 4) : Statement (.vsub h d a b ty) := by
  have := Bool.toNat_lt h.e; have := d.isLt; have := a.isLt; have := b.isLt; have := ty.isLt
  exact two (by omega) (by omega) (word1_lt h (by omega))
theorem vmul (h : Ex) (d a b : BitVec 5) (ty : BitVec 4) : Statement (.vmul h d a b ty) := by
  have := Bool.toNat_lt h.e; have := d.isLt; have := a.isLt; have := b.isLt; have := ty.isLt
  exact two (by omega) (by omega) (word1_lt h (by omega))
theorem vmulh (h : Ex) (d a b : BitVec 5) (ty : BitVec 4) : Statement (.vmulh h d a b ty) := by
  have := Bool.toNat_lt h.e; have := d.isLt; have := a.isLt; have := b.isLt; have := ty.isLt
  exact two (by omega) (by omega) (word1_lt h (by omega))
theorem vmin (h : Ex) (d a b : BitVec 5) (ty : BitVec 4) : Statement (.vmin h d a b ty) := by
  have := Bool.toNat_lt h.e; have := d.isLt; have := a.isLt; have := b.isLt; have := ty.isLt
  exact two (by omega) (by omega) (word1_lt h (by omega))
theorem vmax (h : Ex) (d a b : BitVec 5) (ty : BitVec 4) : Statement (.vmax h d a b ty) := by
  have := Bool.toNat_lt h.e; have := d.isLt; have := a.isLt; have := b.isLt; have := ty.isLt
  exact two (by omega) (by omega) (word1_lt h (by omega))
theorem vabs (h : Ex) (d a : BitVec 5) (ty : BitVec 4) : Statement (.vabs h d a ty) := by
  have := Bool.toNat_lt h.e; have := d.isLt; have := a.isLt; have := ty.isLt
  exact two (by omega) (by omega) (word1_lt h (by omega))
theorem vneg (h : Ex) (d a : BitVec 5) (ty : BitVec 4) : Statement (.vneg h d a ty) := by
  have := Bool.toNat_lt h.e; have := d.isLt; have := a.isLt; have := ty.isLt
  exact two (by omega) (by omega) (word1_lt h (by omega))
theorem vadds (h : Ex) (d a b : BitVec 5) (ty : BitVec 4) : Statement (.vadds h d a b ty) := by
  have := Bool.toNat_lt h.e; have := d.isLt; have := a.isLt; have := b.isLt; have := ty.isLt
  exact two (by omega) (by omega) (word1_lt h (by omega))
theorem vsubs (h : Ex) (d a b : BitVec 5) (ty : BitVec 4) : Statement (.vsubs h d a b ty) := by
  have := Bool.toNat_lt h.e; have := d.isLt; have := a.isLt; have := b.isLt; have := ty.isLt
  exact two (by omega) (by omega) (word1_lt h (by omega))
theorem vavg (h : Ex) (d a b : BitVec 5) (ty : BitVec 4) : Statement (.vavg h d a b ty) := by
  have := Bool.toNat_lt h.e; have := d.isLt; have := a.isLt; have := b.isLt; have := ty.isLt
  exact two (by omega) (by omega) (word1_lt h (by omega))
theorem vmad (h : Ex) (d a b : BitVec 5) (ty : BitVec 4) : Statement (.vmad h d a b ty) := by
  have := Bool.toNat_lt h.e; have := d.isLt; have := a.isLt; have := b.isLt; have := ty.isLt
  exact two (by omega) (by omega) (word1_lt h (by omega))
theorem vdot4 (h : Ex) (d a b : BitVec 5) (ty : BitVec 4) : Statement (.vdot4 h d a b ty) := by
  have := Bool.toNat_lt h.e; have := d.isLt; have := a.isLt; have := b.isLt; have := ty.isLt
  exact two (by omega) (by omega) (word1_lt h (by omega))
theorem vfadd (h : Ex) (d a b : BitVec 5) (ty : BitVec 4) (rm : BitVec 3) : Statement (.vfadd h d a b ty rm) := by
  have := Bool.toNat_lt h.e; have := d.isLt; have := a.isLt; have := b.isLt; have := ty.isLt; have := rm.isLt
  exact two (by omega) (by omega) (word1_lt h (by omega))
theorem vfsub (h : Ex) (d a b : BitVec 5) (ty : BitVec 4) (rm : BitVec 3) : Statement (.vfsub h d a b ty rm) := by
  have := Bool.toNat_lt h.e; have := d.isLt; have := a.isLt; have := b.isLt; have := ty.isLt; have := rm.isLt
  exact two (by omega) (by omega) (word1_lt h (by omega))
theorem vfmul (h : Ex) (d a b : BitVec 5) (ty : BitVec 4) (rm : BitVec 3) : Statement (.vfmul h d a b ty rm) := by
  have := Bool.toNat_lt h.e; have := d.isLt; have := a.isLt; have := b.isLt; have := ty.isLt; have := rm.isLt
  exact two (by omega) (by omega) (word1_lt h (by omega))
theorem vfma (h : Ex) (d a b : BitVec 5) (ty : BitVec 4) (rm : BitVec 3) : Statement (.vfma h d a b ty rm) := by
  have := Bool.toNat_lt h.e; have := d.isLt; have := a.isLt; have := b.isLt; have := ty.isLt; have := rm.isLt
  exact two (by omega) (by omega) (word1_lt h (by omega))
theorem vfmin (h : Ex) (d a b : BitVec 5) (ty : BitVec 4) : Statement (.vfmin h d a b ty) := by
  have := Bool.toNat_lt h.e; have := d.isLt; have := a.isLt; have := b.isLt; have := ty.isLt
  exact two (by omega) (by omega) (word1_lt h (by omega))
theorem vfmax (h : Ex) (d a b : BitVec 5) (ty : BitVec 4) : Statement (.vfmax h d a b ty) := by
  have := Bool.toNat_lt h.e; have := d.isLt; have := a.isLt; have := b.isLt; have := ty.isLt
  exact two (by omega) (by omega) (word1_lt h (by omega))
theorem vfabs (h : Ex) (d a : BitVec 5) (ty : BitVec 4) : Statement (.vfabs h d a ty) := by
  have := Bool.toNat_lt h.e; have := d.isLt; have := a.isLt; have := ty.isLt
  exact two (by omega) (by omega) (word1_lt h (by omega))
theorem vfneg (h : Ex) (d a : BitVec 5) (ty : BitVec 4) : Statement (.vfneg h d a ty) := by
  have := Bool.toNat_lt h.e; have := d.isLt; have := a.isLt; have := ty.isLt
  exact two (by omega) (by omega) (word1_lt h (by omega))
theorem vfscl (h : Ex) (d a b : BitVec 5) (ty : BitVec 4) (rm : BitVec 3) : Statement (.vfscl h d a b ty rm) := by
  have := Bool.toNat_lt h.e; have := d.isLt; have := a.isLt; have := b.isLt; have := ty.isLt; have := rm.isLt
  exact two (by omega) (by omega) (word1_lt h (by omega))
theorem vfclass (h : Ex) (d a : BitVec 5) (ty : BitVec 4) : Statement (.vfclass h d a ty) := by
  have := Bool.toNat_lt h.e; have := d.isLt; have := a.isLt; have := ty.isLt
  exact two (by omega) (by omega) (word1_lt h (by omega))
theorem vcvt (h : Ex) (d a : BitVec 5) (ts ty : BitVec 4) (hp : BitVec 2) (rm : BitVec 3) : Statement (.vcvt h d a ts ty hp rm) := by
  have := Bool.toNat_lt h.e; have := d.isLt; have := a.isLt; have := ts.isLt; have := ty.isLt; have := hp.isLt; have := rm.isLt
  exact two (by omega) (by omega) (word1_lt h (by omega))
theorem vpack (h : Ex) (d a b : BitVec 5) (ty : BitVec 4) : Statement (.vpack h d a b ty) := by
  have := Bool.toNat_lt h.e; have := d.isLt; have := a.isLt; have := b.isLt; have := ty.isLt
  exact two (by omega) (by omega) (word1_lt h (by omega))
theorem vunpk (h : Ex) (d a : BitVec 5) (ty : BitVec 4) (hp : Bool) : Statement (.vunpk h d a ty hp) := by
  have := Bool.toNat_lt h.e; have := d.isLt; have := a.isLt; have := ty.isLt; have := Bool.toNat_lt hp
  exact two (by omega) (by omega) (word1_lt h (by omega))
theorem vqnt (h : Ex) (d a b : BitVec 5) (ty : BitVec 4) (rm : BitVec 3) : Statement (.vqnt h d a b ty rm) := by
  have := Bool.toNat_lt h.e; have := d.isLt; have := a.isLt; have := b.isLt; have := ty.isLt; have := rm.isLt
  exact two (by omega) (by omega) (word1_lt h (by omega))
theorem vdqnt (h : Ex) (d a b : BitVec 5) (ty : BitVec 4) : Statement (.vdqnt h d a b ty) := by
  have := Bool.toNat_lt h.e; have := d.isLt; have := a.isLt; have := b.isLt; have := ty.isLt
  exact two (by omega) (by omega) (word1_lt h (by omega))
theorem vand (h : Ex) (d a b : BitVec 5) (ty : BitVec 4) : Statement (.vand h d a b ty) := by
  have := Bool.toNat_lt h.e; have := d.isLt; have := a.isLt; have := b.isLt; have := ty.isLt
  exact two (by omega) (by omega) (word1_lt h (by omega))
theorem vor (h : Ex) (d a b : BitVec 5) (ty : BitVec 4) : Statement (.vor h d a b ty) := by
  have := Bool.toNat_lt h.e; have := d.isLt; have := a.isLt; have := b.isLt; have := ty.isLt
  exact two (by omega) (by omega) (word1_lt h (by omega))
theorem vxor (h : Ex) (d a b : BitVec 5) (ty : BitVec 4) : Statement (.vxor h d a b ty) := by
  have := Bool.toNat_lt h.e; have := d.isLt; have := a.isLt; have := b.isLt; have := ty.isLt
  exact two (by omega) (by omega) (word1_lt h (by omega))
theorem vlop3 (h : Ex) (d a b : BitVec 5) (th tl : BitVec 4) : Statement (.vlop3 h d a b th tl) := by
  have := Bool.toNat_lt h.e; have := d.isLt; have := a.isLt; have := b.isLt; have := th.isLt; have := tl.isLt
  exact two (by omega) (by omega) (word1_lt h (by omega))
theorem vshl (h : Ex) (d a b : BitVec 5) (ty : BitVec 4) : Statement (.vshl h d a b ty) := by
  have := Bool.toNat_lt h.e; have := d.isLt; have := a.isLt; have := b.isLt; have := ty.isLt
  exact two (by omega) (by omega) (word1_lt h (by omega))
theorem vshr (h : Ex) (d a b : BitVec 5) (ty : BitVec 4) : Statement (.vshr h d a b ty) := by
  have := Bool.toNat_lt h.e; have := d.isLt; have := a.isLt; have := b.isLt; have := ty.isLt
  exact two (by omega) (by omega) (word1_lt h (by omega))
theorem vsra (h : Ex) (d a b : BitVec 5) (ty : BitVec 4) : Statement (.vsra h d a b ty) := by
  have := Bool.toNat_lt h.e; have := d.isLt; have := a.isLt; have := b.isLt; have := ty.isLt
  exact two (by omega) (by omega) (word1_lt h (by omega))
theorem vrot (h : Ex) (d a b : BitVec 5) (ty : BitVec 4) : Statement (.vrot h d a b ty) := by
  have := Bool.toNat_lt h.e; have := d.isLt; have := a.isLt; have := b.isLt; have := ty.isLt
  exact two (by omega) (by omega) (word1_lt h (by omega))
theorem vfunl (h : Ex) (d a b : BitVec 5) (ty : BitVec 4) (n : BitVec 5) : Statement (.vfunl h d a b ty n) := by
  have := Bool.toNat_lt h.e; have := d.isLt; have := a.isLt; have := b.isLt; have := ty.isLt; have := n.isLt
  exact two (by omega) (by omega) (word1_lt h (by omega))
theorem vfunr (h : Ex) (d a b : BitVec 5) (ty : BitVec 4) (n : BitVec 5) : Statement (.vfunr h d a b ty n) := by
  have := Bool.toNat_lt h.e; have := d.isLt; have := a.isLt; have := b.isLt; have := ty.isLt; have := n.isLt
  exact two (by omega) (by omega) (word1_lt h (by omega))
theorem vpopc (h : Ex) (d a : BitVec 5) (ty : BitVec 4) : Statement (.vpopc h d a ty) := by
  have := Bool.toNat_lt h.e; have := d.isLt; have := a.isLt; have := ty.isLt
  exact two (by omega) (by omega) (word1_lt h (by omega))
theorem vclz (h : Ex) (d a : BitVec 5) (ty : BitVec 4) : Statement (.vclz h d a ty) := by
  have := Bool.toNat_lt h.e; have := d.isLt; have := a.isLt; have := ty.isLt
  exact two (by omega) (by omega) (word1_lt h (by omega))
theorem vcmp (h : Ex) (d a b : BitVec 5) (ty : BitVec 4) (op : BitVec 3) : Statement (.vcmp h d a b ty op) := by
  have := Bool.toNat_lt h.e; have := d.isLt; have := a.isLt; have := b.isLt; have := ty.isLt; have := op.isLt
  exact two (by omega) (by omega) (word1_lt h (by omega))
theorem vfcmp (h : Ex) (d a b : BitVec 5) (ty : BitVec 4) (op : BitVec 3) : Statement (.vfcmp h d a b ty op) := by
  have := Bool.toNat_lt h.e; have := d.isLt; have := a.isLt; have := b.isLt; have := ty.isLt; have := op.isLt
  exact two (by omega) (by omega) (word1_lt h (by omega))
theorem vsel (h : Ex) (d a b : BitVec 5) (ty : BitVec 4) : Statement (.vsel h d a b ty) := by
  have := Bool.toNat_lt h.e; have := d.isLt; have := a.isLt; have := b.isLt; have := ty.isLt
  exact two (by omega) (by omega) (word1_lt h (by omega))
theorem vplog (h : Ex0) (d a b : BitVec 5) (op : BitVec 3) : Statement (.vplog h d a b op) := by
  have := Bool.toNat_lt h.e; have := d.isLt; have := a.isLt; have := b.isLt; have := op.isLt; have := h.start.isLt; have := h.c.isLt
  exact two (by omega) (by omega) (by simp only [Ex0.word1]; omega)
theorem vvote (h : Ex) (d a : BitVec 5) (ty : BitVec 4) (al : Bool) : Statement (.vvote h d a ty al) := by
  have := Bool.toNat_lt h.e; have := d.isLt; have := a.isLt; have := ty.isLt; have := Bool.toNat_lt al
  exact two (by omega) (by omega) (word1_lt h (by omega))
theorem vpcnt (h : Ex) (d a : BitVec 5) (ty : BitVec 4) : Statement (.vpcnt h d a ty) := by
  have := Bool.toNat_lt h.e; have := d.isLt; have := a.isLt; have := ty.isLt
  exact two (by omega) (by omega) (word1_lt h (by omega))
theorem vperm (h : Ex) (d a b : BitVec 5) (ty : BitVec 4) : Statement (.vperm h d a b ty) := by
  have := Bool.toNat_lt h.e; have := d.isLt; have := a.isLt; have := b.isLt; have := ty.isLt
  exact two (by omega) (by omega) (word1_lt h (by omega))
theorem vbcast (h : Ex) (d a : BitVec 5) (ty : BitVec 4) : Statement (.vbcast h d a ty) := by
  have := Bool.toNat_lt h.e; have := d.isLt; have := a.isLt; have := ty.isLt
  exact two (by omega) (by omega) (word1_lt h (by omega))
theorem vlane (h : Ex) (d a b : BitVec 5) (ty : BitVec 4) : Statement (.vlane h d a b ty) := by
  have := Bool.toNat_lt h.e; have := d.isLt; have := a.isLt; have := b.isLt; have := ty.isLt
  exact two (by omega) (by omega) (word1_lt h (by omega))
theorem vshuf (h : Ex) (d a b : BitVec 5) (ty : BitVec 4) (op : BitVec 3) : Statement (.vshuf h d a b ty op) := by
  have := Bool.toNat_lt h.e; have := d.isLt; have := a.isLt; have := b.isLt; have := ty.isLt; have := op.isLt
  exact two (by omega) (by omega) (word1_lt h (by omega))
theorem vred (h : Ex) (d a : BitVec 5) (ty : BitVec 4) (op : BitVec 3) : Statement (.vred h d a ty op) := by
  have := Bool.toNat_lt h.e; have := d.isLt; have := a.isLt; have := ty.isLt; have := op.isLt
  exact two (by omega) (by omega) (word1_lt h (by omega))
theorem vscan (h : Ex) (d a : BitVec 5) (ty : BitVec 4) (op : BitVec 3) : Statement (.vscan h d a ty op) := by
  have := Bool.toNat_lt h.e; have := d.isLt; have := a.isLt; have := ty.isLt; have := op.isLt
  exact two (by omega) (by omega) (word1_lt h (by omega))
theorem vidx (h : Ex) (d a : BitVec 5) (ty : BitVec 4) : Statement (.vidx h d a ty) := by
  have := Bool.toNat_lt h.e; have := d.isLt; have := a.isLt; have := ty.isLt
  exact two (by omega) (by omega) (word1_lt h (by omega))
theorem vcell (h : Ex) (d : BitVec 5) (ty : BitVec 4) (sl : BitVec 2) : Statement (.vcell h d ty sl) := by
  have := Bool.toNat_lt h.e; have := d.isLt; have := ty.isLt; have := sl.isLt
  exact two (by omega) (by omega) (word1_lt h (by omega))
theorem vld (h : Ex) (d a : BitVec 5) (i : BitVec 12) : Statement (.vld h d a i) := by
  have := Bool.toNat_lt h.e; have := d.isLt; have := a.isLt; have := i.isLt
  exact two (by omega) (by omega) (word1_lt h (by omega))
theorem vst (h : Ex) (d a : BitVec 5) (i : BitVec 12) : Statement (.vst h d a i) := by
  have := Bool.toNat_lt h.e; have := d.isLt; have := a.isLt; have := i.isLt
  exact two (by omega) (by omega) (word1_lt h (by omega))
theorem vlds (h : Ex) (d a : BitVec 5) (i : BitVec 12) (k : BitVec 5) : Statement (.vlds h d a i k) := by
  have := Bool.toNat_lt h.e; have := d.isLt; have := a.isLt; have := i.isLt; have := k.isLt
  exact two (by omega) (by omega) (word1_lt h (by omega))
theorem vsts (h : Ex) (d a : BitVec 5) (i : BitVec 12) (k : BitVec 5) : Statement (.vsts h d a i k) := by
  have := Bool.toNat_lt h.e; have := d.isLt; have := a.isLt; have := i.isLt; have := k.isLt
  exact two (by omega) (by omega) (word1_lt h (by omega))
theorem vldx (h : Ex) (d a : BitVec 5) (i : BitVec 12) (k : BitVec 5) : Statement (.vldx h d a i k) := by
  have := Bool.toNat_lt h.e; have := d.isLt; have := a.isLt; have := i.isLt; have := k.isLt
  exact two (by omega) (by omega) (word1_lt h (by omega))
theorem vstx (h : Ex) (d a : BitVec 5) (i : BitVec 12) (k : BitVec 5) : Statement (.vstx h d a i k) := by
  have := Bool.toNat_lt h.e; have := d.isLt; have := a.isLt; have := i.isLt; have := k.isLt
  exact two (by omega) (by omega) (word1_lt h (by omega))
theorem vldr (h : Ex) (d : BitVec 5) (m : BitVec 3) (ll : BitVec 4) (i : BitVec 8) (lh : BitVec 4) : Statement (.vldr h d m ll i lh) := by
  have := Bool.toNat_lt h.e; have := d.isLt; have := m.isLt; have := ll.isLt; have := i.isLt; have := lh.isLt
  exact two (by omega) (by omega) (word1_lt h (by omega))
theorem vstr (h : Ex) (d : BitVec 5) (m : BitVec 3) (ll lh : BitVec 4) : Statement (.vstr h d m ll lh) := by
  have := Bool.toNat_lt h.e; have := d.isLt; have := m.isLt; have := ll.isLt; have := lh.isLt
  exact two (by omega) (by omega) (word1_lt h (by omega))
theorem vaadd (h : Ex) (d a b : BitVec 5) (ty : BitVec 4) : Statement (.vaadd h d a b ty) := by
  have := Bool.toNat_lt h.e; have := d.isLt; have := a.isLt; have := b.isLt; have := ty.isLt
  exact two (by omega) (by omega) (word1_lt h (by omega))
theorem vafadd (h : Ex) (d a b : BitVec 5) (ty : BitVec 4) : Statement (.vafadd h d a b ty) := by
  have := Bool.toNat_lt h.e; have := d.isLt; have := a.isLt; have := b.isLt; have := ty.isLt
  exact two (by omega) (by omega) (word1_lt h (by omega))
theorem vamin (h : Ex) (d a b : BitVec 5) (ty : BitVec 4) : Statement (.vamin h d a b ty) := by
  have := Bool.toNat_lt h.e; have := d.isLt; have := a.isLt; have := b.isLt; have := ty.isLt
  exact two (by omega) (by omega) (word1_lt h (by omega))
theorem vamax (h : Ex) (d a b : BitVec 5) (ty : BitVec 4) : Statement (.vamax h d a b ty) := by
  have := Bool.toNat_lt h.e; have := d.isLt; have := a.isLt; have := b.isLt; have := ty.isLt
  exact two (by omega) (by omega) (word1_lt h (by omega))
theorem vaswap (h : Ex) (d a b : BitVec 5) (ty : BitVec 4) : Statement (.vaswap h d a b ty) := by
  have := Bool.toNat_lt h.e; have := d.isLt; have := a.isLt; have := b.isLt; have := ty.isLt
  exact two (by omega) (by omega) (word1_lt h (by omega))
theorem vexp2 (h : Ex) (d a : BitVec 5) (ty : BitVec 4) : Statement (.vexp2 h d a ty) := by
  have := Bool.toNat_lt h.e; have := d.isLt; have := a.isLt; have := ty.isLt
  exact two (by omega) (by omega) (word1_lt h (by omega))
theorem vlog2 (h : Ex) (d a : BitVec 5) (ty : BitVec 4) : Statement (.vlog2 h d a ty) := by
  have := Bool.toNat_lt h.e; have := d.isLt; have := a.isLt; have := ty.isLt
  exact two (by omega) (by omega) (word1_lt h (by omega))
theorem vrcp (h : Ex) (d a : BitVec 5) (ty : BitVec 4) : Statement (.vrcp h d a ty) := by
  have := Bool.toNat_lt h.e; have := d.isLt; have := a.isLt; have := ty.isLt
  exact two (by omega) (by omega) (word1_lt h (by omega))
theorem vrsq (h : Ex) (d a : BitVec 5) (ty : BitVec 4) : Statement (.vrsq h d a ty) := by
  have := Bool.toNat_lt h.e; have := d.isLt; have := a.isLt; have := ty.isLt
  exact two (by omega) (by omega) (word1_lt h (by omega))
theorem vtanh (h : Ex) (d a : BitVec 5) (ty : BitVec 4) : Statement (.vtanh h d a ty) := by
  have := Bool.toNat_lt h.e; have := d.isLt; have := a.isLt; have := ty.isLt
  exact two (by omega) (by omega) (word1_lt h (by omega))
theorem vdiv (h : Ex) (d a b : BitVec 5) (ty : BitVec 4) (rm : BitVec 3) : Statement (.vdiv h d a b ty rm) := by
  have := Bool.toNat_lt h.e; have := d.isLt; have := a.isLt; have := b.isLt; have := ty.isLt; have := rm.isLt
  exact two (by omega) (by omega) (word1_lt h (by omega))
theorem vrnd (h : Ex) (d a b : BitVec 5) (ty : BitVec 4) (w : BitVec 2) : Statement (.vrnd h d a b ty w) := by
  have := Bool.toNat_lt h.e; have := d.isLt; have := a.isLt; have := b.isLt; have := ty.isLt; have := w.isLt
  exact two (by omega) (by omega) (word1_lt h (by omega))
theorem vgumb (h : Ex) (d a b : BitVec 5) (ty : BitVec 4) : Statement (.vgumb h d a b ty) := by
  have := Bool.toNat_lt h.e; have := d.isLt; have := a.isLt; have := b.isLt; have := ty.isLt
  exact two (by omega) (by omega) (word1_lt h (by omega))
theorem vsamp (h : Ex) (d a b : BitVec 5) (ty : BitVec 4) : Statement (.vsamp h d a b ty) := by
  have := Bool.toNat_lt h.e; have := d.isLt; have := a.isLt; have := b.isLt; have := ty.isLt
  exact two (by omega) (by omega) (word1_lt h (by omega))
theorem mot (h : ExM) (cd : BitVec 6) (d a b : BitVec 5) (ep : Bool) (x y : BitVec 5) : Statement (.mot h cd d a b ep x y) := by
  have := Bool.toNat_lt h.e; have := cd.isLt; have := d.isLt; have := a.isLt; have := b.isLt; have := Bool.toNat_lt ep; have := x.isLt; have := y.isLt; have := h.start.isLt; have := h.p.isLt; have := Bool.toNat_lt h.ps
  exact two (by omega) (by omega) (by simp only [ExM.word1]; omega)
theorem vshift (h : Ex) (dr : BitVec 2) (d a : BitVec 5) (eg : BitVec 2) (tg : BitVec 5) : Statement (.vshift h dr d a eg tg) := by
  have := Bool.toNat_lt h.e; have := dr.isLt; have := d.isLt; have := a.isLt; have := eg.isLt; have := tg.isLt
  exact two (by omega) (by omega) (word1_lt h (by omega))
theorem vxsend (h : Ex) (d a tg : BitVec 5) : Statement (.vxsend h d a tg) := by
  have := Bool.toNat_lt h.e; have := d.isLt; have := a.isLt; have := tg.isLt
  exact two (by omega) (by omega) (word1_lt h (by omega))
theorem vxrecv (h : Ex) (dr : BitVec 2) (d tg : BitVec 5) : Statement (.vxrecv h dr d tg) := by
  have := Bool.toNat_lt h.e; have := dr.isLt; have := d.isLt; have := tg.isLt
  exact two (by omega) (by omega) (word1_lt h (by omega))
theorem vbord (h : Ex) (dr : BitVec 2) (d tg : BitVec 5) : Statement (.vbord h dr d tg) := by
  have := Bool.toNat_lt h.e; have := dr.isLt; have := d.isLt; have := tg.isLt
  exact two (by omega) (by omega) (word1_lt h (by omega))
theorem vjoin (h : Ex) (dr : BitVec 2) (d a : BitVec 5) : Statement (.vjoin h dr d a) := by
  have := Bool.toNat_lt h.e; have := dr.isLt; have := d.isLt; have := a.isLt
  exact two (by omega) (by omega) (word1_lt h (by omega))
theorem mma (h : Ex) (t : BitVec 6) (ra rb : BitVec 3) (n : BitVec 6) (m : BitVec 2) (tr z pa pb : Bool) : Statement (.mma h t ra rb n m tr z pa pb) := by
  have := Bool.toNat_lt h.e; have := t.isLt; have := ra.isLt; have := rb.isLt; have := n.isLt; have := m.isLt; have := Bool.toNat_lt tr; have := Bool.toNat_lt z; have := Bool.toNat_lt pa; have := Bool.toNat_lt pb
  exact two (by omega) (by omega) (word1_lt h (by omega))
theorem mmaq (h : Ex) (t : BitVec 6) (ra rb : BitVec 3) (n : BitVec 6) (m : BitVec 2) (tr z pa pb pz : Bool) : Statement (.mmaq h t ra rb n m tr z pa pb pz) := by
  have := Bool.toNat_lt h.e; have := t.isLt; have := ra.isLt; have := rb.isLt; have := n.isLt; have := m.isLt; have := Bool.toNat_lt tr; have := Bool.toNat_lt z; have := Bool.toNat_lt pa; have := Bool.toNat_lt pb; have := Bool.toNat_lt pz
  exact two (by omega) (by omega) (word1_lt h (by omega))
theorem mmab (h : Ex) (t : BitVec 6) (ra rb : BitVec 3) (n : BitVec 6) (m : BitVec 2) (tr z pa pb pz : Bool) : Statement (.mmab h t ra rb n m tr z pa pb pz) := by
  have := Bool.toNat_lt h.e; have := t.isLt; have := ra.isLt; have := rb.isLt; have := n.isLt; have := m.isLt; have := Bool.toNat_lt tr; have := Bool.toNat_lt z; have := Bool.toNat_lt pa; have := Bool.toNat_lt pb; have := Bool.toNat_lt pz
  exact two (by omega) (by omega) (word1_lt h (by omega))
theorem mzero (h : Ex) (t n : BitVec 6) : Statement (.mzero h t n) := by
  have := Bool.toNat_lt h.e; have := t.isLt; have := n.isLt
  exact two (by omega) (by omega) (word1_lt h (by omega))
theorem mtov (h : Ex) (t : BitVec 6) (d : BitVec 5) (l : BitVec 6) (ty : BitVec 4) : Statement (.mtov h t d l ty) := by
  have := Bool.toNat_lt h.e; have := t.isLt; have := d.isLt; have := l.isLt; have := ty.isLt
  exact two (by omega) (by omega) (word1_lt h (by omega))
theorem mtot (h : Ex) (t : BitVec 6) (ra : BitVec 3) (n : BitVec 6) (m : BitVec 2) (tr z : Bool) : Statement (.mtot h t ra n m tr z) := by
  have := Bool.toNat_lt h.e; have := t.isLt; have := ra.isLt; have := n.isLt; have := m.isLt; have := Bool.toNat_lt tr; have := Bool.toNat_lt z
  exact two (by omega) (by omega) (word1_lt h (by omega))
theorem cfill (h : Ex) (a : BitVec 5) (qc : BitVec 3) (ax : BitVec 5) : Statement (.cfill h a qc ax) := by
  have := Bool.toNat_lt h.e; have := a.isLt; have := qc.isLt; have := ax.isLt
  exact two (by omega) (by omega) (word1_lt h (by omega))
theorem cdrain (h : Ex) (a : BitVec 5) (qc : BitVec 3) (ax : BitVec 5) : Statement (.cdrain h a qc ax) := by
  have := Bool.toNat_lt h.e; have := a.isLt; have := qc.isLt; have := ax.isLt
  exact two (by omega) (by omega) (word1_lt h (by omega))
theorem cpair (h : Ex) (a : BitVec 5) (qc : BitVec 3) (ax : BitVec 5) : Statement (.cpair h a qc ax) := by
  have := Bool.toNat_lt h.e; have := a.isLt; have := qc.isLt; have := ax.isLt
  exact two (by omega) (by omega) (word1_lt h (by omega))
theorem cgath (h : Ex) (a : BitVec 5) (qc : BitVec 3) (ax : BitVec 5) : Statement (.cgath h a qc ax) := by
  have := Bool.toNat_lt h.e; have := a.isLt; have := qc.isLt; have := ax.isLt
  exact two (by omega) (by omega) (word1_lt h (by omega))
theorem ccopy (h : Ex) (a : BitVec 5) (qc : BitVec 3) (ax : BitVec 5) : Statement (.ccopy h a qc ax) := by
  have := Bool.toNat_lt h.e; have := a.isLt; have := qc.isLt; have := ax.isLt
  exact two (by omega) (by omega) (word1_lt h (by omega))
theorem cred (h : Ex) (a : BitVec 5) (qc : BitVec 3) (ax : BitVec 5) : Statement (.cred h a qc ax) := by
  have := Bool.toNat_lt h.e; have := a.isLt; have := qc.isLt; have := ax.isLt
  exact two (by omega) (by omega) (word1_lt h (by omega))
theorem queueEntryStart (p q : Nat) : Statement (.queueEntryStart p q) := trivial
theorem resultWriteback (p : Nat) : Statement (.resultWriteback p) := trivial
theorem holdTimeout (p : Nat) : Statement (.holdTimeout p) := trivial
theorem scalarDataReturn (p k : Nat) : Statement (.scalarDataReturn p k) := trivial
theorem loopPass (p : Nat) : Statement (.loopPass p) := trivial
theorem waitComplete (p : Nat) : Statement (.waitComplete p) := trivial
theorem ringFill (p cell ring : Nat) : Statement (.ringFill p cell ring) := trivial
theorem expressArrival (p cell : Nat) : Statement (.expressArrival p cell) := trivial
theorem borderLanding (p : Nat) : Statement (.borderLanding p) := trivial
theorem columnJobStart (p k : Nat) : Statement (.columnJobStart p k) := trivial
theorem columnChunk (p k : Nat) : Statement (.columnChunk p k) := trivial
theorem columnJobRetire (p k : Nat) : Statement (.columnJobRetire p k) := trivial
theorem columnJobFault (p k : Nat) : Statement (.columnJobFault p k) := trivial
theorem refreshSweep (p : Nat) : Statement (.refreshSweep p) := trivial
theorem forcedRefresh (p : Nat) : Statement (.forcedRefresh p) := trivial
theorem forcedRefreshEnd (p : Nat) : Statement (.forcedRefreshEnd p) := trivial
theorem handlerFirstPacket (p : Nat) : Statement (.handlerFirstPacket p) := trivial
theorem graceWindowExpiry (p : Nat) : Statement (.graceWindowExpiry p) := trivial
theorem drainComplete (p : Nat) : Statement (.drainComplete p) := trivial
theorem gangSave (slot : Nat) : Statement (.gangSave slot) := trivial
theorem contextFinish (p : Nat) : Statement (.contextFinish p) := trivial
theorem motifLoadEnd (p : Nat) : Statement (.motifLoadEnd p) := trivial
theorem hostRegisterWrite (off size : Nat) (v : BitVec 64) : Statement (.hostRegisterWrite off size v) := trivial
theorem kick (q : Nat) (v : BitVec 32) : Statement (.kick q v) := trivial
theorem deviceEnable : Statement .deviceEnable := trivial
theorem deviceDisable : Statement .deviceDisable := trivial
theorem packageReset : Statement .packageReset := trivial
theorem queueEnable (q : Nat) (v : BitVec 64) : Statement (.queueEnable q v) := trivial
theorem queueDisable (q : Nat) (v : BitVec 64) : Statement (.queueDisable q v) := trivial
theorem qstatClear (q : Nat) (v : BitVec 64) : Statement (.qstatClear q v) := trivial
theorem spancfgApply (v : BitVec 64) : Statement (.spancfgApply v) := trivial
theorem spanTableApplied : Statement .spanTableApplied := trivial
theorem queueHeaderRead (q : Nat) : Statement (.queueHeaderRead q) := trivial
theorem launchPacket (q k : Nat) : Statement (.launchPacket q k) := trivial
theorem loadPacket (q k : Nat) : Statement (.loadPacket q k) := trivial
theorem unloadPacket (q k : Nat) : Statement (.unloadPacket q k) := trivial
theorem barrierPacket (q k : Nat) : Statement (.barrierPacket q k) := trivial
theorem copyPacket (q k : Nat) : Statement (.copyPacket q k) := trivial
theorem signalPacket (q k : Nat) : Statement (.signalPacket q k) := trivial
theorem waitvalPacket (q k : Nat) : Statement (.waitvalPacket q k) := trivial
theorem waitvalPoll (q k : Nat) : Statement (.waitvalPoll q k) := trivial
theorem waitvalTimeout (q k : Nat) : Statement (.waitvalTimeout q k) := trivial
theorem bar2Read (off n : Nat) : Statement (.bar2Read off n) := trivial
theorem bar2Write (off : Nat) (data : List (BitVec 8)) : Statement (.bar2Write off data) := trivial
theorem bar2Atomic (off width op : Nat) (x y : BitVec 64) : Statement (.bar2Atomic off width op x y) := trivial
theorem spanFlitReceive (link : Nat) (crcOk : Bool) : Statement (.spanFlitReceive link crcOk) := trivial
theorem remoteFincArrival (grant f : Nat) (inc : BitVec 32) : Statement (.remoteFincArrival grant f inc) := trivial
theorem spanWriteArrival (addr : BitVec 64) (data : List (BitVec 8)) : Statement (.spanWriteArrival addr data) := trivial
theorem spanLinkDown (link : Nat) : Statement (.spanLinkDown link) := trivial
theorem matcherEligible (k : Nat) : Statement (.matcherEligible k) := trivial
theorem dispatchStart (slot : Nat) : Statement (.dispatchStart slot) := trivial
theorem dispatchRestore (slot : Nat) : Statement (.dispatchRestore slot) := trivial
theorem dispatchPreempt (slot : Nat) : Statement (.dispatchPreempt slot) := trivial
theorem dispatchForce (slot : Nat) : Statement (.dispatchForce slot) := trivial
theorem dispatchAbort (slot : Nat) : Statement (.dispatchAbort slot) := trivial
theorem bindComplete (slot : Nat) : Statement (.bindComplete slot) := trivial
theorem powerCheck : Statement .powerCheck := trivial
theorem supplyCutEnd (island : Nat) : Statement (.supplyCutEnd island) := trivial
theorem pageWalk (p k : Nat) : Statement (.pageWalk p k) := trivial
theorem noticeReply (k : Nat) : Statement (.noticeReply k) := trivial
theorem faultlimExpiry (k : Nat) : Statement (.faultlimExpiry k) := trivial
theorem tlbInvalidation : Statement .tlbInvalidation := trivial
theorem thermalSample : Statement .thermalSample := trivial
theorem operatorRequest : Statement .operatorRequest := trivial
theorem panelScreen (p : Nat) : Statement (.panelScreen p) := trivial
theorem captureControlPoll : Statement .captureControlPoll := trivial
theorem attest : Statement .attest := trivial
theorem stage : Statement .stage := trivial
theorem identity : Statement .identity := trivial
theorem clearalt : Statement .clearalt := trivial
theorem boot : Statement .boot := trivial
theorem bootWatchdog : Statement .bootWatchdog := trivial
theorem unassignedEncoding (sub : BitVec 8) (w0 w1 : BitVec 32) : Statement (.unassignedEncoding sub w0 w1) := trivial
theorem writeAppliedToView (w view : Nat) : Statement (.writeAppliedToView w view) := trivial
theorem spanLinkTrained (link : Nat) : Statement (.spanLinkTrained link) := trivial
theorem spanLinkLost (link : Nat) : Statement (.spanLinkLost link) := trivial
theorem mailboxBadop : Statement .mailboxBadop := trivial
theorem doorbellInvalidOp (slot : Nat) : Statement (.doorbellInvalidOp slot) := trivial

end Sys2Proof.Laws.Encoding
end

