-- ==== Sys2Proof/Safety.lean ====
section
/-!
DEFINITION. What counts as a safe run: a number of steps that meets neither a fault nor a refusal.
-/

namespace Sys2Proof

/-- Whether an outcome is a next state. -/
def Safety.goesOn {σ φ ρ : Type} : Host.Outcome σ φ ρ → Bool
  | .next _ => true
  | _ => false

/-- The machine takes k steps from s without a fault or a refusal. -/
def Safety.safeFor (k : Nat) (s : Machine.State) : Prop := Safety.goesOn (core.run k s) = true

end Sys2Proof
end

