-- ==== Sys2Proof/Tests/Slice0.lean ====
section
/-!
SUPPORT. Tests: ill-formed terms that the checks refuse, a word of every form written out from R129 to R135, and for every
statement of the certificate a state and operands that meet its hypotheses.
-/

namespace Sys2Proof.Tests

open Sys2Proof.Machine Sys2Proof.Claims

/-! Well-formedness: one ill-formed term for each check (R138). -/

/-- Start field 2, unpredicated, guard c0. -/
def h2 : Ex := ⟨true, 2#16, 0#5, false, 0#5⟩

theorem test_wellFormed_accepts : (Instr.vadd h2 1#5 2#5 3#5 4#4).wellFormed = true ∧ (Instr.br true 1#2 2#3 true).wellFormed = true :=
  by decide

/-- Subcode 0x04: VADD takes no F32 (R174). -/
theorem test_wellFormed_type : (Instr.vadd h2 1#5 2#5 3#5 8#4).staticFault = some 0x04#8 ∧
    (Instr.vadd h2 1#5 2#5 3#5 8#4).wellFormed = false := by decide

/-- Subcode 0x08: a guard of 8 (R32), scope 5 (R81), S = 0 of LOOP (R159), mask 0 of QFLUSH (R167), and S = 8 of VLDS (R196). -/
theorem test_wellFormed_operand : (Instr.vadd { h2 with c := 8#5 } 1#5 2#5 3#5 4#4).wellFormed = false ∧
    (Instr.ldacq true 1#5 2#5 5#3 0#9).wellFormed = false ∧ (Instr.loop true 1#5 0#3 0#6).wellFormed = false ∧
    (Instr.qflush true 0#4).wellFormed = false ∧ (Instr.vlds h2 1#5 2#5 0#12 8#5).wellFormed = false := by decide

/-- Subcode 0x05: a start of 0xFFF0 to 0xFFFE (R35). -/
theorem test_wellFormed_start : (Instr.vadd { h2 with start := 0xFFF0#16 } 1#5 2#5 3#5 4#4).staticFault = some 0x05#8 ∧
    (Instr.vadd { h2 with start := 0xFFFE#16 } 1#5 2#5 3#5 4#4).wellFormed = false ∧
    (Instr.vadd { h2 with start := 0xFFFF#16 } 1#5 2#5 3#5 4#4).wellFormed = true := by decide

/-- A branch must end its packet (R28), and an event is no form. -/
theorem test_wellFormed_place : (Instr.br false 1#2 2#3 true).wellFormed = false ∧ (Instr.brl false 1#2 2#3 true).wellFormed = false ∧
    (Instr.waitComplete 0).wellFormed = false := by decide

/-- Subcodes 0x01 to 0x03, which the decoder refuses: majors 0x14 and 0x3D, code 28 of major 0x00, and b of a CLZ (R137). -/
theorem test_decode_refuses : decodeWords (0x14 * 2 ^ 26) 0 = .error .reservedMajor ∧ decodeWords (0x3D * 2 ^ 26) 0 = .error .reservedMajor ∧
    decodeWords 28 0 = .error .unassignedFunction ∧ decodeWords (2 ^ 10 + 21) 0 = .error .reservedField := ⟨rfl, rfl, rfl, rfl⟩

/-! Decoding: a word of every form, from the layouts of R129 to R133 and the codes of R135, with E = 1, d = 3, a = 4 and b = 5. -/

/-- The instruction that two words decode to. -/
def dec (w : Nat × Nat) : Option Instr := (decodeWords w.1 w.2).toOption

/-- Format R with a function code, and with its b field. -/
def fmtR (m fn : Nat) (b : Nat := 5) : Nat × Nat := (m * 2 ^ 26 + 2 ^ 25 + 3 * 2 ^ 20 + 4 * 2 ^ 15 + b * 2 ^ 10 + fn, 0)

/-- Format I or S: [24:20], [19:15], imm12 in [14:3], fn3. -/
def fmtI (m d a i fn : Nat) : Nat × Nat := (m * 2 ^ 26 + 2 ^ 25 + d * 2 ^ 20 + a * 2 ^ 15 + i * 2 ^ 3 + fn, 0)

/-- Generic two-word layout of R131: fn in [9:4], type 4; word1 with start 2, p 6, psense 1, c 7 and an aux. -/
def fmtV (m fn : Nat) (b : Nat := 5) (aux : Nat := 0) : Nat × Nat :=
  (m * 2 ^ 26 + 2 ^ 25 + 3 * 2 ^ 20 + 4 * 2 ^ 15 + b * 2 ^ 10 + fn * 2 ^ 4 + 4, 2 * 2 ^ 16 + 6 * 2 ^ 11 + 2 ^ 10 + 7 * 2 ^ 5 + aux)

/-- The header that fmtV writes. -/
def hv : Ex := ⟨true, 2#16, 6#5, true, 7#5⟩

theorem test_decode_00 : ((List.range 21).map (fmtR 0x00 ·)).map dec = ([.add true 3 4 5, .sub true 3 4 5, .and true 3 4 5, .or true 3 4 5,
      .xor true 3 4 5, .andn true 3 4 5, .sll true 3 4 5, .srl true 3 4 5, .sra true 3 4 5, .ror true 3 4 5, .slt true 3 4 5, .sltu true 3 4 5,
      .min true 3 4 5, .max true 3 4 5, .minu true 3 4 5, .maxu true 3 4 5, .addw true 3 4 5, .subw true 3 4 5, .sllw true 3 4 5,
      .srlw true 3 4 5, .sraw true 3 4 5] : List Instr).map some ∧
    ((List.range 7).map fun k => fmtR 0x00 (21 + k) 0).map dec = ([.clz true 3 4, .ctz true 3 4, .popc true 3 4, .sextb true 3 4,
      .sexth true 3 4, .sextw true 3 4, .zextw true 3 4] : List Instr).map some := ⟨rfl, rfl⟩

theorem test_decode_01_to_03 : [fmtI 1 3 4 0x5A3 0, fmtI 1 3 4 0x5A3 1, fmtI 1 3 4 0x5A3 2, fmtI 1 3 4 0x5A3 3, fmtI 1 3 4 63 4, fmtI 1 3 4 63 5,
      fmtI 1 3 4 63 6, fmtI 1 3 4 0x5A3 7, (0x02 * 2 ^ 26 + 2 ^ 25 + 3 * 2 ^ 20 + 0x5A3C1, 0), (0x03 * 2 ^ 26 + 3 * 2 ^ 20 + 0x5A3C1, 0)].map dec =
    ([.addi true 3 4 0x5A3, .andi true 3 4 0x5A3, .ori true 3 4 0x5A3, .xori true 3 4 0x5A3, .slli true 3 4 63, .srli true 3 4 63,
      .srai true 3 4 63, .slti true 3 4 0x5A3, .lih true 3 0x5A3C1, .lipc false 3 0x5A3C1] : List Instr).map some := rfl

/-- LDACQ and STREL hold their scope in imm12[11:9] and their offset in imm12[8:0] (R153, R154). -/
theorem test_decode_04_05 : ((List.range 7).map (fmtI 4 3 4 0x5A3)).map dec = ([.ldb true 3 4 0x5A3, .ldh true 3 4 0x5A3, .ldw true 3 4 0x5A3,
      .ldd true 3 4 0x5A3, .ldbu true 3 4 0x5A3, .ldhu true 3 4 0x5A3, .ldwu true 3 4 0x5A3] : List Instr).map some ∧
    ((List.range 4).map (fmtI 5 3 4 0x5A3)).map dec = ([.stb true 3 4 0x5A3, .sth true 3 4 0x5A3, .stw true 3 4 0x5A3,
      .std true 3 4 0x5A3] : List Instr).map some ∧
    [fmtI 4 3 4 (2 * 2 ^ 9 + 0x0A3) 7, fmtI 5 3 4 (4 * 2 ^ 9 + 0x1FF) 4].map dec =
      ([.ldacq true 3 4 2 0x0A3, .strel true 3 4 4 0x1FF] : List Instr).map some := ⟨rfl, rfl, rfl⟩

/-- op in fn[9:6], scope 2, order 1, 64 bits (R136). -/
theorem test_decode_06 : ((List.range 10).map fun op => fmtR 0x06 (op * 2 ^ 6 + 2 * 2 ^ 3 + 1 * 2 + 1)).map dec =
    ([.aadd true 3 4 5 2 1 true, .aand true 3 4 5 2 1 true, .aor true 3 4 5 2 1 true, .axor true 3 4 5 2 1 true, .amin true 3 4 5 2 1 true,
      .amax true 3 4 5 2 1 true, .aminu true 3 4 5 2 1 true, .amaxu true 3 4 5 2 1 true, .aswap true 3 4 5 2 1 true,
      .acas true 3 4 5 2 1 true] : List Instr).map some := rfl

/-- op2 in [24:23] (R130). -/
theorem test_decode_07 : [(0x07 * 2 ^ 26 + 2 ^ 25 + 0 * 2 ^ 23 + 2 * 2 ^ 21 + 0x1FFFF9, 0), (0x07 * 2 ^ 26 + 2 ^ 25 + 1 * 2 ^ 23 + 2 * 2 ^ 21 + 4 * 2 ^ 16, 0),
      (0x07 * 2 ^ 26 + 2 ^ 25 + 2 * 2 ^ 23 + 2 * 2 ^ 21 + 5 * 2 ^ 18 + 2 ^ 17, 0), (0x07 * 2 ^ 26 + 2 ^ 25 + 3 * 2 ^ 23 + 2 * 2 ^ 21 + 5 * 2 ^ 18, 0)].map dec =
    ([.ptgt true 2 0x1FFFF9, .ptgtr true 2 4, .br true 2 5 true, .brl true 2 5 false] : List Instr).map some := rfl

theorem test_decode_08 : [fmtR 8 0, fmtR 8 1, fmtR 8 2, fmtR 8 3, fmtR 8 4, fmtR 8 5, fmtR 8 6, fmtR 8 7, fmtR 8 8, fmtR 8 9 0, fmtR 8 10,
      fmtR 8 11 0].map dec =
    ([.cmpeq true 3 4 5, .cmpne true 3 4 5, .cmplt true 3 4 5, .cmpge true 3 4 5, .cmpltu true 3 4 5, .cmpgeu true 3 4 5, .cand true 3 4 5,
      .cor true 3 4 5, .cxor true 3 4 5, .cnot true 3 4, .sel true 3 4 5, .ctos true 3 4] : List Instr).map some := rfl

/-- R159 to R161; LOOP holds S in imm12[8:6] and the length less one in imm12[5:0]. -/
theorem test_decode_09 : [fmtI 9 0 4 (3 * 2 ^ 6 + 17) 0, fmtI 9 0 4 3 1, fmtI 9 0 0 0 2, fmtI 9 0 4 0x5A3 3, fmtI 9 3 0 2 4].map dec =
    ([.loop true 4 3 17, .lbreak true 4 3, .tstart true, .twait true 4 0x5A3, .tread true 3 2] : List Instr).map some := rfl

/-- R162 to R166; FENCE holds its scope in imm12[11:9] and its kinds in imm12[4:0]. -/
theorem test_decode_0A : [fmtI 0xA 3 0 0x5A3 0, fmtI 0xA 0 4 0x5A3 1, fmtI 0xA 0 0 (2 * 2 ^ 9 + 0x13) 2, fmtI 0xA 0 0 0x5A3 3, fmtI 0xA 0 0 0 4,
      fmtI 0xA 0 0 0 5, fmtI 0xA 0 0 0 6, fmtI 0xA 0 0 9 7].map dec =
    ([.srd true 3 0x5A3, .swr true 4 0x5A3, .fence true 2 0x13, .trap true 0x5A3, .rft true, .exit true, .yield true,
      .waitev true 9] : List Instr).map some := rfl

/-- R167 to R169, R240 to R244; a count stands in imm12[8:0], and RSTAT holds n, sel and m in imm12[3:0], [7:4] and [10:8]. -/
theorem test_decode_0B_0C : [fmtI 0xB 0 0 9 0, fmtI 0xB 0 0 9 1, fmtI 0xB 3 0 2 2, fmtI 0xB 3 0 2 3, fmtI 0xC 3 4 0x5A3 0, fmtI 0xC 3 0 256 1,
      fmtI 0xC 3 0 256 2, fmtI 0xC 3 0 256 3, fmtI 0xC 3 0 256 4, fmtI 0xC 3 0 256 5, fmtI 0xC 3 0 (5 * 2 ^ 8 + 7 * 2 ^ 4 + 11) 6].map dec =
    ([.qflush true 9, .qsync true 9, .qmark true 3 2, .qdepth true 3 2, .rcfg true 3 4 0x5A3, .waitf true 3 256, .waite true 3 256,
      .rclaim true 3 256, .rpub true 3 256, .rpop true 3 256, .rstat true 3 5 7 11] : List Instr).map some := rfl

/-- R266 to R269, R247, R253, R254: a flag form holds its scope in imm12[11:9] and its flag in imm12[7:0]. -/
theorem test_decode_0D_to_0F : [fmtI 0xD 3 4 (2 * 2 ^ 9 + 0xA3) 0, fmtI 0xD 0 4 (2 * 2 ^ 9 + 0xA3) 1, fmtI 0xD 0 4 (2 * 2 ^ 9 + 0xA3) 2,
      fmtI 0xD 3 0 (2 * 2 ^ 9 + 0xA3) 3, fmtI 0xD 0 4 (2 * 2 ^ 9 + 0xA3) 4, fmtI 0xE 0 0 2 0, fmtI 0xE 3 0 0 1, fmtI 0xE 0 4 0 2,
      fmtI 0xF 3 4 41 0, fmtI 0xF 0 0 0 1].map dec =
    ([.finc true 3 4 2 0xA3, .fwait true 4 2 0xA3, .fset true 4 2 0xA3, .fread true 3 2 0xA3, .bar true 4 2 0xA3, .admode true 2,
      .tapemk true 3, .tapecut true 4, .launch true 3 4 41, .ncommit true] : List Instr).map some := rfl

theorem test_decode_10_to_13 : ((List.range 9).map (fmtR 0x10 ·)).map dec = ([.mul true 3 4 5, .mulh true 3 4 5, .mulhu true 3 4 5, .div true 3 4 5,
      .divu true 3 4 5, .rem true 3 4 5, .remu true 3 4 5, .mulw true 3 4 5, .divw true 3 4 5] : List Instr).map some ∧
    [fmtI 0x11 0 4 0 0, fmtI 0x11 0 0 0 1, fmtI 0x12 0 4 6 0, fmtI 0x12 0 0 (6 * 2 ^ 6 + 41) 1, fmtI 0x12 0 0 41 2, fmtI 0x12 3 0 6 3,
      fmtI 0x13 0 0 0xA5 0, fmtI 0x13 0 4 0 1, fmtI 0x13 0 0 0 2].map dec =
    ([.fmt true 4, .fmtclr true, .mld true 4 6, .mbind true 6 41, .munbind true 41, .mstat true 3 6, .spmark true 0xA5, .spaccept true 4,
      .spdrop true] : List Instr).map some := ⟨rfl, rfl⟩

theorem test_decode_30_31 : [fmtV 0x30 0, fmtV 0x30 1, fmtV 0x30 2, fmtV 0x30 3, fmtV 0x30 4, fmtV 0x30 5, fmtV 0x30 6 0, fmtV 0x30 7 0, fmtV 0x30 8,
      fmtV 0x30 9, fmtV 0x30 10, fmtV 0x30 11, fmtV 0x30 12].map dec =
      ([.vadd hv 3 4 5 4, .vsub hv 3 4 5 4, .vmul hv 3 4 5 4, .vmulh hv 3 4 5 4, .vmin hv 3 4 5 4, .vmax hv 3 4 5 4, .vabs hv 3 4 4,
        .vneg hv 3 4 4, .vadds hv 3 4 5 4, .vsubs hv 3 4 5 4, .vavg hv 3 4 5 4, .vmad hv 3 4 5 4, .vdot4 hv 3 4 5 4] : List Instr).map some ∧
    [fmtV 0x31 0 5 7, fmtV 0x31 1 5 7, fmtV 0x31 2 5 7, fmtV 0x31 3 5 7, fmtV 0x31 4, fmtV 0x31 5, fmtV 0x31 6 0, fmtV 0x31 7 0, fmtV 0x31 8 5 7,
      fmtV 0x31 9 0].map dec =
      ([.vfadd hv 3 4 5 4 7, .vfsub hv 3 4 5 4 7, .vfmul hv 3 4 5 4 7, .vfma hv 3 4 5 4 7, .vfmin hv 3 4 5 4, .vfmax hv 3 4 5 4, .vfabs hv 3 4 4,
        .vfneg hv 3 4 4, .vfscl hv 3 4 5 4 7, .vfclass hv 3 4 4] : List Instr).map some := ⟨rfl, rfl⟩

/-- VCVT: source type in b[13:10], part in aux[4:3], rounding in aux[2:0] (R177); VLOP3: the table in the type field and aux[3:0] (R181). -/
theorem test_decode_32_33 : [fmtV 0x32 0 8 (2 * 8 + 5), fmtV 0x32 1, fmtV 0x32 2 0 1, fmtV 0x32 3 5 7, fmtV 0x32 4].map dec =
      ([.vcvt hv 3 4 8 4 2 5, .vpack hv 3 4 5 4, .vunpk hv 3 4 4 true, .vqnt hv 3 4 5 4 7, .vdqnt hv 3 4 5 4] : List Instr).map some ∧
    [fmtV 0x33 0, fmtV 0x33 1, fmtV 0x33 2, fmtV 0x33 3 5 9, fmtV 0x33 4, fmtV 0x33 5, fmtV 0x33 6, fmtV 0x33 7, fmtV 0x33 8 5 31, fmtV 0x33 9 5 31,
      fmtV 0x33 10 0, fmtV 0x33 11 0].map dec =
      ([.vand hv 3 4 5 4, .vor hv 3 4 5 4, .vxor hv 3 4 5 4, .vlop3 hv 3 4 5 4 9, .vshl hv 3 4 5 4, .vshr hv 3 4 5 4, .vsra hv 3 4 5 4,
        .vrot hv 3 4 5 4, .vfunl hv 3 4 5 4 31, .vfunr hv 3 4 5 4 31, .vpopc hv 3 4 4, .vclz hv 3 4 4] : List Instr).map some := ⟨rfl, rfl⟩

/-- VPLOG has no type, p and psense (R187). -/
theorem test_decode_34_35 : [fmtV 0x34 0 5 3, fmtV 0x34 1 5 3, fmtV 0x34 2, (0x34 * 2 ^ 26 + 2 ^ 25 + 3 * 2 ^ 20 + 4 * 2 ^ 15 + 5 * 2 ^ 10 + 3 * 2 ^ 4, 2 * 2 ^ 16 + 7 * 2 ^ 5 + 3),
      fmtV 0x34 4 0 1, fmtV 0x34 5 0].map dec =
      ([.vcmp hv 3 4 5 4 3, .vfcmp hv 3 4 5 4 3, .vsel hv 3 4 5 4, .vplog ⟨true, 2, 7⟩ 3 4 5 3, .vvote hv 3 4 4 true,
        .vpcnt hv 3 4 4] : List Instr).map some ∧
    [fmtV 0x35 0, fmtV 0x35 1 0, fmtV 0x35 2, fmtV 0x35 3 5 2, fmtV 0x35 4 0 2, fmtV 0x35 5 0 2, fmtV 0x35 6 0,
      (0x35 * 2 ^ 26 + 2 ^ 25 + 3 * 2 ^ 20 + 7 * 2 ^ 4 + 4, 2 * 2 ^ 16 + 6 * 2 ^ 11 + 2 ^ 10 + 7 * 2 ^ 5 + 3)].map dec =
      ([.vperm hv 3 4 5 4, .vbcast hv 3 4 4, .vlane hv 3 4 5 4, .vshuf hv 3 4 5 4 2, .vred hv 3 4 4 2, .vscan hv 3 4 4 2, .vidx hv 3 4 4,
        .vcell hv 3 4 3] : List Instr).map some := ⟨rfl, rfl⟩

/-- Major 0x36: d, base 4, fn in [14:12], imm12 (R133); VLDR and VSTR: ring in [17:15], L in imm12[11:8] and aux[3:0] (R198, R199). -/
def fmtT (fn a i aux : Nat) : Nat × Nat :=
  (0x36 * 2 ^ 26 + 2 ^ 25 + 3 * 2 ^ 20 + a * 2 ^ 15 + fn * 2 ^ 12 + i, 2 * 2 ^ 16 + 6 * 2 ^ 11 + 2 ^ 10 + 7 * 2 ^ 5 + aux)

theorem test_decode_36_37 : [fmtT 0 4 0x5A3 0, fmtT 1 4 0x5A3 0, fmtT 2 4 0x5A3 9, fmtT 3 4 0x5A3 9, fmtT 4 4 0x5A3 9, fmtT 5 4 0x5A3 9,
      fmtT 6 4 (0x5 * 2 ^ 8 + 0xA3) 9, fmtT 7 4 (0x5 * 2 ^ 8) 9].map dec =
      ([.vld hv 3 4 0x5A3, .vst hv 3 4 0x5A3, .vlds hv 3 4 0x5A3 9, .vsts hv 3 4 0x5A3 9, .vldx hv 3 4 0x5A3 9, .vstx hv 3 4 0x5A3 9,
        .vldr hv 3 4 5 0xA3 9, .vstr hv 3 4 5 9] : List Instr).map some ∧
    ((List.range 5).map fun k => fmtV 0x37 k).map dec = ([.vaadd hv 3 4 5 4, .vafadd hv 3 4 5 4, .vamin hv 3 4 5 4, .vamax hv 3 4 5 4,
      .vaswap hv 3 4 5 4] : List Instr).map some := ⟨rfl, rfl⟩

/-- Major 0x39: code 41, d 3, a 4, b 5, e-present 1; the third input is word1 c, the second output aux (R133, R260). -/
theorem test_decode_38_39 : [fmtV 0x38 0 0, fmtV 0x38 1 0, fmtV 0x38 2 0, fmtV 0x38 3 0, fmtV 0x38 4 0, fmtV 0x38 5 5 7, fmtV 0x38 6 5 3, fmtV 0x38 7,
      fmtV 0x38 8].map dec =
      ([.vexp2 hv 3 4 4, .vlog2 hv 3 4 4, .vrcp hv 3 4 4, .vrsq hv 3 4 4, .vtanh hv 3 4 4, .vdiv hv 3 4 5 4 7, .vrnd hv 3 4 5 4 3,
        .vgumb hv 3 4 5 4, .vsamp hv 3 4 5 4] : List Instr).map some ∧
    dec (0x39 * 2 ^ 26 + 2 ^ 25 + 41 * 2 ^ 19 + 3 * 2 ^ 14 + 4 * 2 ^ 9 + 5 * 2 ^ 4 + 2 ^ 3, 2 * 2 ^ 16 + 6 * 2 ^ 11 + 2 ^ 10 + 7 * 2 ^ 5 + 21) =
      some (.mot ⟨true, 2, 6, true⟩ 41 3 4 5 true 7 21) := ⟨rfl, rfl⟩

/-- Major 0x3A: fn, dir-or-port 2, d 3, a, edge and tag-sel (R133, R221). -/
def fmtM (fn dr a eg tg : Nat) : Nat × Nat :=
  (0x3A * 2 ^ 26 + 2 ^ 25 + fn * 2 ^ 22 + dr * 2 ^ 20 + 3 * 2 ^ 15 + a * 2 ^ 10 + eg * 2 ^ 8 + tg, 2 * 2 ^ 16 + 6 * 2 ^ 11 + 2 ^ 10 + 7 * 2 ^ 5)

/-- Major 0x3B: fn, tile 41, [15:13] and [12:10], [9:4] = 37, M, T, Z, and aux (R133, R210). -/
def fmtX (fn ra rb n m tr z aux : Nat) : Nat × Nat :=
  (0x3B * 2 ^ 26 + 2 ^ 25 + fn * 2 ^ 22 + 41 * 2 ^ 16 + ra * 2 ^ 13 + rb * 2 ^ 10 + n * 2 ^ 4 + m * 2 ^ 2 + tr * 2 + z,
    2 * 2 ^ 16 + 6 * 2 ^ 11 + 2 ^ 10 + 7 * 2 ^ 5 + aux)

theorem test_decode_3A_3B : [fmtM 0 2 4 2 9, fmtM 1 0 4 0 9, fmtM 2 2 0 0 9, fmtM 3 2 0 0 9, fmtM 4 2 4 0 0].map dec =
      ([.vshift hv 2 3 4 2 9, .vxsend hv 3 4 9, .vxrecv hv 2 3 9, .vbord hv 2 3 9, .vjoin hv 2 3 4] : List Instr).map some ∧
    [fmtX 0 6 3 37 2 1 0 2, fmtX 1 6 3 37 2 1 0 5, fmtX 2 6 3 37 2 1 0 5, fmtX 3 0 0 37 0 0 0 0, fmtX 4 1 2 37 0 0 0 9,
      fmtX 5 6 0 37 2 0 1 0].map dec =
      ([.mma hv 41 6 3 37 2 true false false true, .mmaq hv 41 6 3 37 2 true false true false true, .mmab hv 41 6 3 37 2 true false true false true,
        .mzero hv 41 37, .mtov hv 41 10 37 9, .mtot hv 41 6 37 2 false true] : List Instr).map some := ⟨rfl, rfl⟩

/-- Major 0x3C: fn, card 4, queue-class 3 (R133, R229). -/
theorem test_decode_3C : ((List.range 6).map fun fn => (0x3C * 2 ^ 26 + 2 ^ 25 + fn * 2 ^ 22 + 4 * 2 ^ 15 + 3 * 2 ^ 12, 2 * 2 ^ 16 + 7 * 2 ^ 5)).map dec =
    ([.cfill ⟨true, 2, 0, false, 7⟩ 4 3 0, .cdrain ⟨true, 2, 0, false, 7⟩ 4 3 0, .cpair ⟨true, 2, 0, false, 7⟩ 4 3 0, .cgath ⟨true, 2, 0, false, 7⟩ 4 3 0,
      .ccopy ⟨true, 2, 0, false, 7⟩ 4 3 0, .cred ⟨true, 2, 0, false, 7⟩ 4 3 0] : List Instr).map some := rfl

/-! Witnesses: states and operands that meet the hypotheses of the statements. Each theorem is named for its statement; its
parts are the clauses. -/

/-- A context of panel 0 in which nothing has happened. -/
def bare : Ctx := loneCtx 0 []

/-- The bare context with values in scalars s1, s2, … -/
def withS (xs : List U64) : Ctx :=
  { bare with norm := { bare.norm with s := (xs.zipIdx.foldl (fun v x => vset v (x.2 + 1) x.1) (Vector.replicate 32 0#64)) } }

/-- The package with one context, of panel 0, whose instruction executes. -/
def lone (c : Ctx) : State := { State.reset with ctxs := [c], agenda := [] }

/-- ADD s3, s1, s2 with E = 1. -/
def addWord : Nat := 0x00 * 2 ^ 26 + 2 ^ 25 + 3 * 2 ^ 20 + 1 * 2 ^ 15 + 2 * 2 ^ 10

theorem witness_EncodedInstructionDecodesBack : (Instr.add true 3 1 2).wellFormed = true ∧ (Instr.vadd h2 1 2 3 4).wellFormed = true := by decide

theorem witness_DecodedWordsEncodeBack : (decodeWords addWord 0 = .ok (.add true 3 1 2) ∧ lengthOf addWord = 1) ∧
    decodeWords 0xDA148000 0x00020000 = .ok (.vld h2 1 9 0) ∧ lengthOf 0xDA148000 = 2 := ⟨⟨rfl, rfl⟩, rfl, rfl⟩

/-- Reserved majors at the ends of both ranges, an unassigned code of a major of each length, and a sequencer that would issue a word of a
reserved major, in its first packet and in the middle of one. -/
theorem witness_UnassignedEncodingsAreRefused : (∀ m ∈ [0x14, 0x1F, 0x20, 0x2F, 0x3D, 0x3F], reservedMajor m ∧ majorOf (m * 2 ^ 26) = m) ∧
    (0x00, 0, 10, 28) ∈ codeFields ∧ (0x30, 4, 6, 13) ∈ codeFields ∧ majorOf (0x30 * 2 ^ 26 + 13 * 2 ^ 4) = 0x30 ∧
    13 ≤ (0x30 * 2 ^ 26 + 13 * 2 ^ 4) / 2 ^ 4 % 2 ^ 6 ∧ Runs (lone bare) bare ∧
    (let c : Ctx := { (loneCtx 0 [0x50000000#32]) with issue := { pc := 0x4000000000#64, closed := false, done := 1, checked := true } }
     let s : State := { lone c with agenda := [.issue 0] }
     Issuing s 0 { s with cur := 0 } c ∧ Words c 0x50000000 0 ∧ decodeWords 0x50000000 0 = .error .reservedMajor) := by
  refine ⟨?_, by decide, by decide, by decide, by decide, rfl, ⟨[], _, rfl, rfl, rfl, rfl, ?_⟩, ⟨rfl, fun h => absurd h (by decide), fun _ => rfl⟩, rfl⟩
  · simp only [reservedMajor]; decide
  · simp

/-- The first instruction of a packet, and one after another of its packet. -/
theorem witness_StepRunsDecodedInstruction :
    (let s := State.reset.withFetchWord 32 addWord
     let c := loneCtx 0 [0x02000000#32 + 3#32 * 1048576#32 + 1#32 * 32768#32 + 2#32 * 1024#32, 0#32, 0x02000000#32, 0x02000000#32, 0x02000000#32]
     Issuing s 0 { s.putCtx (c.checkPacket (s.env 0)) with cur := 0 } (c.checkPacket (s.env 0)) ∧
       Holds (c.checkPacket (s.env 0)) (.add true 3 1 2)) ∧
    (let c : Ctx := { (loneCtx 0 [0x02000000#32]) with issue := { pc := 0x4000000000#64, closed := false, done := 1, checked := true } }
     let s : State := { lone c with agenda := [.issue 0] }
     Issuing s 0 { s with cur := 0 } c ∧ Holds c (.add true 0 0 0)) := by
  refine ⟨⟨⟨[.ev (.resultWriteback 0), .ev .boot], _, rfl, rfl, rfl, rfl, ?_⟩, ?_⟩, ⟨[], _, rfl, rfl, rfl, rfl, ?_⟩, ?_⟩
  · rw [if_pos (by decide)]; exact ⟨rfl, by decide, rfl⟩
  · exact ⟨addWord, 0, ⟨rfl, fun h => absurd h (by decide), fun _ => rfl⟩, rfl⟩
  · simp
  · exact ⟨0x02000000, 0, ⟨rfl, fun h => absurd h (by decide), fun _ => rfl⟩, rfl⟩

theorem witness_StepRunsEventsAndCycles : State.reset.agenda = .ev .boot :: [] ∧ names .boot .boot ∧ (lone bare).agenda = [] ∧
    bare ∈ (lone bare).ctxs := ⟨rfl, rfl, rfl, List.mem_singleton.2 rfl⟩

theorem witness_FirstStepRunsPlacedInstruction : addWord < 2 ^ 32 ∧ lengthOf addWord = 1 ∧ decodeWords addWord 0 = .ok (.add true 3 1 2) ∧
    lengthOf 0xDA148000 = 2 ∧ decodeWords 0xDA148000 0x00020000 = .ok (.vld h2 1 9 0) := ⟨by decide, rfl, rfl, rfl, rfl⟩

/-- A destination that discards its result with a full record, and one with 47 results in flight. -/
theorem witness_ArithmeticWritesItsResult :
    (let c := withS [5, 7]
     Runs (lone c) c ∧ arithmetic c (.add true 3 1 2) = some (true, 3, [.s 1, .s 2], 12#64) ∧ Reads c [.s 1, .s 2] ∧ Room c 3) ∧
    (let c : Ctx := { bare with landings := List.replicate 48 ⟨0, .seq, 5, false, .s 1 0#64, .zero⟩ }
     Runs (lone c) c ∧ Reads c [.s 1, .s 2] ∧ Room c 0 ∧ ¬ Room c 3) ∧
    (let c : Ctx := { bare with landings := List.replicate 47 ⟨0, .seq, 5, false, .s 1 0#64, .zero⟩ }
     Runs (lone c) c ∧ arithmetic c (.clz false 3 1) = some (false, 3, [.s 1], 64#64) ∧ Reads c [.s 1] ∧ Room c 3) ∧
    (majorOf 28 = 0 ∧ 28 ≤ 28 % 1024) ∧ majorOf (2 ^ 10 + 27) = 0 ∧ (2 ^ 10 + 27) % 1024 = 27 ∧ (2 ^ 10 + 27) / 1024 % 32 ≠ 0 := by
  refine ⟨⟨rfl, rfl, ⟨rfl, rfl⟩, .inr (by decide)⟩, ⟨rfl, ⟨rfl, rfl⟩, .inl rfl, ?_⟩, ⟨rfl, rfl, ⟨rfl, rfl⟩, .inr (by decide)⟩, ?_⟩
  · simp only [Room]; decide
  · decide

theorem witness_ImmediateFormsWriteTheirResults :
    (let c := withS [5]
     Runs (lone c) c ∧ immediate c (.addi true 2 1 0xFFF) = some (true, 2, [.s 1], 4#64) ∧ Reads c [.s 1] ∧ Room c 2) ∧
    (immediate bare (.lipc true 2 0xFFFFF) = some (true, 2, [], 0x3FFFFFF000#64) ∧ Reads bare []) ∧
    majorOf (0x01 * 2 ^ 26 + 2 ^ 9 + 6) = 0x01 ∧ (0x01 * 2 ^ 26 + 2 ^ 9 + 6) % 8 = 6 ∧ (0x01 * 2 ^ 26 + 2 ^ 9 + 6) / 512 % 64 ≠ 0 :=
  ⟨⟨rfl, rfl, ⟨rfl, rfl⟩, .inr (by decide)⟩, ⟨rfl, rfl, rfl⟩, by decide⟩

/-- The most negative number by -1, and a divisor of zero (R150). -/
theorem witness_ProductsAndQuotients :
    (let c := withS [BitVec.intMin 64, BitVec.ofInt 64 (-1)]
     Runs (lone c) c ∧ product c (.div true 3 1 2) = some (true, 3, [.s 1, .s 2], 24, BitVec.intMin 64) ∧
       product c (.rem true 3 1 2) = some (true, 3, [.s 1, .s 2], 24, 0#64) ∧ Reads c [.s 1, .s 2] ∧ Room c 3) ∧
    (let c := withS [7]
     product c (.divu true 3 1 2) = some (true, 3, [.s 1, .s 2], 24, 0xFFFFFFFFFFFFFFFF#64) ∧
       product c (.rem true 3 1 2) = some (true, 3, [.s 1, .s 2], 24, 7#64)) ∧
    majorOf (0x10 * 2 ^ 26 + 9) = 0x10 ∧ 9 ≤ (0x10 * 2 ^ 26 + 9) % 1024 :=
  ⟨⟨rfl, rfl, rfl, ⟨rfl, rfl⟩, .inr (by decide)⟩, ⟨rfl, rfl⟩, by decide⟩

/-- A load of s1 that was due in cycle 0 and has not returned. -/
def lateLoad : GAccess :=
  { id := 0, ord := 0, trap := false, kind := .load true, va := 0, width := 8, data := 0, expect := 0, dest := some 1, acquire := false,
    release := false, scope := 0, walk := .done 0x2000000000 false false, ready := 0, due := 0, pc := 0, performed := true, value := some 5,
    returned := false }

/-- The bare context one cycle on, with that load. -/
def lateCtx : Ctx := { bare with glob := { bare.glob with queue := [lateLoad] }, time := { bare.time with ptime := 1 } }

/-- A full record; a load that is late; and an early read. -/
theorem witness_FullRecordStallsAndEarlyReadTraps :
    (let c : Ctx := { bare with landings := List.replicate 48 ⟨0, .seq, 5, false, .s 1 0#64, .zero⟩ }
     Runs (lone c) c ∧ Reads c [.s 1, .s 2] ∧ Reads c [] ∧ Reads c [.b 0, .c 0] ∧ 48 ≤ c.inFlight ∧ Brings (lone c) c (.add true 3 1 2) True [.s 1, .s 2] ∧
       Brings (lone c) c (.brl true 0 0 true) True [.b 0, .c 0] ∧ Brings (lone c) c (.tapemk true 3) True []) ∧
    (Runs (lone lateCtx) lateCtx ∧ Brings (lone lateCtx) lateCtx (.ldd true 2 1 0) True [.s 1] ∧ lateCtx.late [.s 1] = true) ∧
    (let c : Ctx := { bare with landings := [⟨0, .seq, 5, false, .s 1 0#64, .zero⟩], sys := { bare.sys with debugCtl := 1#64 } }
     Runs (lone c) c ∧ Brings (lone c) c (.std true 1 1 0) False [.s 1, .s 1] ∧ bit c.sys.debugCtl 0 = true ∧ c.late [.s 1, .s 1] = false ∧
       ([Ref.s 1, .s 1].findSome? c.pending).isSome = true) := by
  refine ⟨⟨rfl, ⟨rfl, rfl⟩, ⟨rfl, rfl⟩, ⟨rfl, rfl⟩, by decide, .inl ⟨_, _, _, .inl rfl, by simp⟩, ?_, ?_⟩, ⟨rfl, ?_, rfl⟩, rfl, ?_, by decide, by decide, by decide⟩
  · exact .inr (.inr (.inr (.inl ⟨_, _, _, _, _, rfl, rfl, by simp [Ctx.rc]⟩)))
  · exact .inr (.inr (.inr (.inr (.inr (.inr (.inr (.inl ⟨_, _, .inr (.inr rfl), rfl, by simp⟩)))))))
  · exact .inr (.inr (.inr (.inr (.inl ⟨_, _, _, _, _, _, rfl, rfl, by simp⟩))))
  · exact .inr (.inr (.inr (.inr (.inr (.inr (.inl ⟨_, _, _, _, _, rfl, rfl, by simp⟩))))))

theorem witness_WritebackWritesOneRegister :
    (let c : Ctx := { bare with landings := [⟨0, .seq, 0, false, .s 1 9#64, .zero⟩] }
     (lone c).ctx? 0 = some c ∧ c.landings = [⟨c.ord, .seq, c.time.ptime, false, .s 1 9#64, .zero⟩] ∧ c.trap.tctx = false ∧ c.towerOps = [] ∧
       c.windows = [] ∧ c.flights = [] ∧ c.raised = [] ∧ c.issue.leaving = false ∧ c.glob.queue = []) ∧
    (let l : Landing := ⟨1, .seq, 3, false, .s 31 4#64, .zero⟩
     let m : Landing := ⟨0, .seq, 2, false, .s 31 5#64, .zero⟩
     l.trap = false ∧ m.trap = false ∧ l.write = .s 31 4#64 ∧ m.write = .s 31 5#64 ∧ l.due ≤ 3 ∧ m.due ≤ 3) :=
  ⟨⟨rfl, rfl, rfl, rfl, rfl, rfl, rfl, rfl, rfl⟩, rfl, rfl, rfl, rfl, by decide, by decide⟩

/-- Within a packet, at its end, and at the ends of the two delay slots. -/
theorem witness_InstructionEndMovesOnlyThePlace :
    (bare.loop = none ∧ bare.issue.again = none ∧ bare.issue.slots = 0 ∧ bare.issue.yields = false) ∧
    (let c : Ctx := { bare with issue := { bare.issue with slots := 2, taken := true, target := 64#64 } }
     c.loop = none ∧ c.issue.again = none ∧ c.issue.yields = false ∧ c.issue.slots = 2) ∧
    (let c : Ctx := { bare with issue := { bare.issue with slots := 1, taken := true, target := 64#64 } }
     c.loop = none ∧ c.issue.again = none ∧ c.issue.yields = false ∧ c.issue.slots = 1 ∧ c.issue.taken = true) ∧
    (let c : Ctx := { bare with issue := { bare.issue with slots := 1 } }
     c.loop = none ∧ c.issue.again = none ∧ c.issue.yields = false ∧ c.issue.slots = 1 ∧ c.issue.taken = false) := by
  refine ⟨⟨rfl, rfl, rfl, rfl⟩, ⟨rfl, rfl, rfl, rfl⟩, ⟨rfl, rfl, rfl, rfl, rfl⟩, rfl, rfl, rfl, rfl, rfl⟩

/-- The first byte of scratch, its last doubleword, and the last byte of trap memory, which a load may read in either context. -/
theorem witness_LocalLoadReadsBytes :
    (let c := withS [0x00FF000000000000]
     Runs (lone c) c ∧ load c (.ldb true 2 1 0) = some (true, 2, 1, 0x00FF000000000000, 1, true) ∧ Reads c [.s 1] ∧ Room c 2 ∧
       At 0x00FF000000000000#64 false 0 ∧ Unwatched c true false ∧ Sound c false 0) ∧
    (let c := withS [0x00FF00000001FFF0]
     load c (.ldacq true 2 1 4 1) = some (true, 2, 1, 0x00FF00000001FFF8, 8, true) ∧ At 0x00FF00000001FFF8#64 false 0x1FFF8 ∧
       (0x00FF00000001FFF8#64).toNat % 8 = 0 ∧ Sound c false 0x1FFF8) ∧
    (let c := withS [0x00FF000000101FFF]
     load c (.ldbu true 2 1 0) = some (true, 2, 1, 0x00FF000000101FFF, 1, false) ∧ c.trap.tctx = false ∧
       At 0x00FF000000101FFF#64 true 0x1FFF ∧ Unwatched c true false ∧ Sound c true 0x1FFF) := by
  refine ⟨⟨rfl, rfl, ⟨rfl, rfl⟩, .inr (by decide), .inl ?_, .inr ?_, rfl⟩, ⟨rfl, .inl ?_, ?_, rfl⟩, rfl, rfl, .inr ?_, .inr ?_, rfl⟩ <;> decide

/-- A halfword of scratch, and a doubleword of trap memory in trap context. -/
theorem witness_LocalStoreWritesItsBytes :
    (let c := withS [0x00FF00000001FFFE, 0xABCD]
     Runs (lone c) c ∧ store c (.sth true 2 1 0) = some (true, 2, 1, 0x00FF00000001FFFE, 2) ∧ Reads c [.s 1, .s 2] ∧
       At 0x00FF00000001FFFE#64 false 0x1FFFE ∧ (0x00FF00000001FFFE#64).toNat % 2 = 0 ∧ Unwatched c false true ∧
       Store.wf (c.localMem false) = true) ∧
    (let c : Ctx := { bare with trap := { bare.trap with tctx := true }, trapBank := (withS [0x00FF000000100000]).norm }
     Runs (lone c) c ∧ store c (.strel true 2 1 0 0) = some (true, 2, 1, 0x00FF000000100000, 8) ∧ Reads c [.s 1, .s 2] ∧
       At 0x00FF000000100000#64 true 0 ∧ c.trap.tctx = true ∧ Unwatched c false true ∧ Store.wf (c.localMem true) = true) := by
  refine ⟨⟨rfl, rfl, ⟨rfl, rfl⟩, .inl ?_, ?_, .inr ?_, rfl⟩, rfl, rfl, ⟨rfl, rfl⟩, .inr ?_, rfl, .inr ?_, rfl⟩ <;> decide

/-- A 32-bit ACAS that finds its value, one that does not, and a 64-bit add in trap memory. -/
theorem witness_LocalAtomicReadsAndWrites :
    (let c := withS [0x00FF00000001FFFC, 7]
     Runs (lone c) c ∧ (∃ f, atomic c (.acas true 3 1 2 0 0 false) = some (true, 9, 3, 1, 2, false, f) ∧ f 0 = some 7 ∧ f 1 = none) ∧
       Reads c (atomicReads 9 3 1 2) ∧ Room c 3 ∧ At (c.rs 1) false 0x1FFFC ∧ 0x1FFFC % widthOf false = 0 ∧ Unwatched c true true ∧
       Sound c false 0x1FFFC) ∧
    (let c : Ctx := { bare with trap := { bare.trap with tctx := true }, trapBank := (withS [0x00FF000000101FF8, 7]).norm }
     Runs (lone c) c ∧ (∃ f, atomic c (.aadd true 0 1 2 4 3 true) = some (true, 0, 0, 1, 2, true, f) ∧ f 5 = some 12) ∧
       Reads c (atomicReads 0 0 1 2) ∧ Room c 0 ∧ At (c.rs 1) true 0x1FF8 ∧ 0x1FF8 % widthOf true = 0 ∧ c.trap.tctx = true ∧
       Unwatched c true true ∧ Sound c true 0x1FF8) := by
  refine ⟨⟨rfl, ⟨_, rfl, rfl, rfl⟩, ⟨rfl, rfl⟩, .inr ?_, .inl ?_, rfl, .inr ?_, rfl⟩, rfl, ⟨_, rfl, rfl⟩, ⟨rfl, rfl⟩, .inl rfl, .inr ?_, rfl, rfl, .inr ?_, rfl⟩ <;>
    decide

/-- An access's address is the one in s1. -/
theorem access_at (x : U64) : accessOf (withS [x]) (.ldd true 2 1 0) = some ([.s 1], 2, x + 0#64, 8, true, false) := rfl

/-- Bits 63 to 56; a misaligned address; a place of the local window that is none, at the ends of its parts; a store to trap memory;
and a watched line in the window and outside. -/
theorem witness_AccessChecksTrapInOrder :
    (let c := withS [0x0100000000000000]
     Runs (lone c) c ∧ accessOf c (.ldd true 2 1 0) = some ([.s 1], 2, 0x0100000000000000, 8, true, false) ∧ Reads c [.s 1] ∧ Room c 2 ∧
       2 ^ 56 ≤ (0x0100000000000000#64).toNat) ∧
    (let c := withS [0x00FF000000000001]
     accessOf c (.ldd true 2 1 0) = some ([.s 1], 2, 0x00FF000000000001, 8, true, false) ∧ (0x00FF000000000001#64).toNat < 2 ^ 56 ∧
       (0x00FF000000000001#64).toNat % 8 ≠ 0) ∧
    (∀ x ∈ [0x00FF000000020000, 0x00FF0000000FFFF8, 0x00FF000000102000, 0x00FFFFFFFFFFFFF8], ∀ tm off, ¬ At (BitVec.ofNat 64 x) tm off) ∧
    (let c := withS [0x00FF000000100000]
     accessOf c (.std true 2 1 0) = some ([.s 1, .s 2], 0, 0x00FF000000100000, 8, false, true) ∧ At 0x00FF000000100000#64 true 0 ∧
       c.trap.tctx = false) ∧
    (let c : Ctx := { (withS [0x00FF000000000040]) with sys := { bare.sys with debugCtl := 0x00FF000000000048 } }
     accessOf c (.ldd true 2 1 0) = some ([.s 1], 2, 0x00FF000000000040, 8, true, false) ∧ At 0x00FF000000000040#64 false 0x40 ∧
       Watched c 0x00FF000000000040 true false) ∧
    (let c : Ctx := { (withS [0x78]) with sys := { bare.sys with debugCtl := 0x48 } }
     accessOf c (.ldd true 2 1 0) = some ([.s 1], 2, 0x78, 8, true, false) ∧ (0x78#64).toNat / 2 ^ 48 ≠ 0xFF ∧ Watched c 0x78 true false) := by
  refine ⟨⟨rfl, rfl, ⟨rfl, rfl⟩, .inr (by decide), by decide⟩, ⟨rfl, by decide, by decide⟩, ?_, ⟨rfl, .inr (by decide), rfl⟩,
    ⟨rfl, .inl (by decide), ?_⟩, rfl, by decide, ?_⟩
  · simp only [List.mem_cons, List.not_mem_nil, or_false]
    rintro x (rfl | rfl | rfl | rfl) tm off (⟨-, h, e⟩ | ⟨-, h, e⟩) <;> simp at e <;> omega
  · simp only [Watched]; decide
  · simp only [Watched]; decide

/-- An entry of a translation unit for the 64 KiB page at 0x10000, at physical 0x2000010000, with a leaf word. -/
def page (leaf : U64) : TlbEntry := { span := false, va := 0x10000, size := 0x10000, pa := 0x2000010000, leaf := leaf }

/-- The package with such an entry in every sheet. -/
def withTlb (s : State) (ts : List TlbEntry) : State := { s with sheets := Vector.replicate 8 { ({} : Sheet) with tlb := ts } }

/-- A load through a readable page, a store that a page without W refuses, and an access without a translation. -/
theorem witness_GlobalAccessIsHandedOver :
    (let c := withS [0x1FFF8]
     let s := withTlb (lone c) [page 0x7#64]
     Runs s c ∧ accessOf c (.ldd true 2 1 0) = some ([.s 1], 2, 0x1FFF8, 8, true, false) ∧
       asked c (.ldd true 2 1 0) = some (true, .load true, 0, 0, false, false, 0) ∧ Reads c [.s 1] ∧ Room c 2 ∧
       (0x1FFF8#64).toNat / 2 ^ 48 ≠ 0xFF ∧ (0x1FFF8#64).toNat % 8 = 0 ∧ Unwatched c true false ∧ c.committed = false ∧
       tlbFind (s.sheet (sheetOf s.cur)).tlb false (0x1FFF8#64).toNat = some (page 0x7#64) ∧ ¬ PageRefuses 0x7#64 (.load true)) ∧
    (let c := withS [0x10000]
     let s := withTlb (lone c) [page 0x3#64]
     Runs s c ∧ accessOf c (.std true 2 1 0) = some ([.s 1, .s 2], 0, 0x10000, 8, false, true) ∧
       asked c (.std true 2 1 0) = some (true, .store, 0, 0, false, false, 0) ∧ Reads c [.s 1, .s 2] ∧ Room c 0 ∧
       Unwatched c false true ∧ tlbFind (s.sheet (sheetOf s.cur)).tlb false (0x10000#64).toNat = some (page 0x3#64) ∧
       PageRefuses 0x3#64 .store ∧ ¬ PageRefuses 0x57#64 (.atomic 9) ∧ PageRefuses 0x57#64 (.atomic 5)) ∧
    (let c := withS [0x20000]
     let s := withTlb (lone c) [page 0x7#64]
     Runs s c ∧ accessOf c (.ldd true 2 1 0) = some ([.s 1], 2, 0x20000, 8, true, false) ∧
       tlbFind (s.sheet (sheetOf s.cur)).tlb false (0x20000#64).toNat = none) := by
  refine ⟨⟨rfl, rfl, rfl, ⟨rfl, rfl⟩, .inr ?_, ?_, ?_, .inr ?_, rfl, rfl, ?_⟩, ⟨rfl, rfl, rfl, ⟨rfl, rfl⟩, .inl rfl, .inr ?_, rfl, ?_, ?_, ?_⟩,
    rfl, rfl, rfl⟩
  · decide
  · decide
  · decide
  · decide
  · simp [PageRefuses]
  · decide
  · exact .inl ⟨.inl rfl, by decide⟩
  · simp [PageRefuses]
  · exact .inr ⟨5, rfl, by decide, by simp⟩

theorem witness_TargetsAndConditions :
    (let c := withS [5, 7]
     Runs (lone c) c ∧ target c (.ptgt true 1 0x1FFFF9) = some (true, [], .b 1 0x3FFFFFFFE4#64) ∧
       target c (.cmplt true 7 1 2) = some (true, [.s 1, .s 2], .c 7 true) ∧ Reads c [.s 1, .s 2] ∧ c.inFlight < 48) ∧
    target bare (.cand true 1 0 7) = some (true, [.c 0, .c 7], .c 1 false) ∧
    (8#5 ∈ condFields (.cmpeq true 8 1 2) ∧ 31#5 ∈ condFields (.cand true 1 2 31) ∧ 8#5 ∈ condFields (.ctos true 1 8)) := by
  refine ⟨⟨rfl, rfl, rfl, ⟨rfl, rfl⟩, by decide⟩, rfl, by decide, by decide, by decide⟩

/-- One packet of a context's TEXT: ADD s0, s0, s0 with E = 1, n times. -/
def pad (n : Nat) : List U32 := List.replicate n 0x02000000#32

/-- A loop of one word, three stages and four iterations, in its pass 2. -/
def loop3 : LoopState :=
  { body := 0x4000000000#64, len := 1, stages := 3, first := 0, total := 4, passes := 6, pass := 2, pending := false, whole := 4, leftAt := 0,
    draining := false }

/-- With E = 0; in a loop body; to a misaligned target; taken; and not taken, whatever the target. -/
theorem witness_BranchesDecideAtIssue :
    (Runs (lone bare) bare ∧ branch (.br false 1 2 true) = some (false, 1, 2, true, false) ∧ Reads bare [.b 1, .c 2]) ∧
    (let c : Ctx := { bare with loop := some loop3 }
     Runs (lone c) c ∧ c.loop ≠ none ∧ c.trap.tctx = false) ∧
    (let c : Ctx := { bare with norm := { bare.norm with b := vset bare.norm.b 1 2#64 } }
     Runs (lone c) c ∧ c.rc 0 = true ∧ (c.rb 1).toNat % 4 ≠ 0 ∧ ¬ (c.loop ≠ none ∧ c.trap.tctx = false)) ∧
    (let c : Ctx := { bare with norm := { bare.norm with b := vset bare.norm.b 1 64#64 } }
     branch (.brl true 1 0 true) = some (true, 1, 0, true, true) ∧ c.rc 0 = true ∧ (c.rb 1).toNat % 4 = 0 ∧ c.inFlight < 48) ∧
    (let c : Ctx := { bare with norm := { bare.norm with b := vset bare.norm.b 1 2#64 } }
     c.rc 7 ≠ true ∧ branch (.br true 1 7 true) = some (true, 1, 7, true, false)) := by
  refine ⟨⟨rfl, rfl, rfl, rfl⟩, ⟨rfl, by simp, rfl⟩, ⟨rfl, rfl, by decide, by simp [bare, loneCtx]⟩, ⟨rfl, rfl, by decide, by decide⟩, by decide, rfl⟩

/-- A LOOP in trap context, one of no iteration and one of 2^32 - 1 iterations; and an LBREAK outside a loop, of a stage beyond S, with its
condition 0 and with it 1. -/
theorem witness_LoopsStartAndBreak :
    (let c : Ctx := { bare with trap := { bare.trap with tctx := true } }
     Runs (lone c) c ∧ Reads c [.s 1]) ∧
    (let c : Ctx := { (withS [0]) with code := { base := 0x4000000000#64, words := pad 3 } }
     Runs (lone c) c ∧ c.trap.tctx = false ∧ c.loop = none ∧ c.code.endsPacket 65 (c.issue.pc + 4) 1 = true ∧ (c.rs 1).toNat % 2 ^ 32 = 0) ∧
    (let c : Ctx := { (withS [0xFFFFFFFF]) with code := { base := 0x4000000000#64, words := pad 65 } }
     Runs (lone c) c ∧ c.trap.tctx = false ∧ c.loop = none ∧ c.code.endsPacket 65 (c.issue.pc + 4) 64 = true ∧
       (c.rs 1).toNat % 2 ^ 32 = 2 ^ 32 - 1) ∧
    (let c : Ctx := { bare with loop := some loop3, norm := { bare.norm with c := 2#8 } }
     Runs (lone c) c ∧ c.trap.tctx = false ∧ loop3.stages < (4#3).toNat ∧ (3#3).toNat ≤ loop3.stages ∧ c.rc ((2#5).setWidth 3) = false ∧
       c.rc ((1#5).setWidth 3) = true ∧ Reads c [.c 1]) := by
  refine ⟨⟨rfl, rfl, rfl⟩, ⟨rfl, rfl, rfl, by decide, by decide⟩, ⟨rfl, rfl, rfl, by decide, by decide⟩, rfl, rfl, by decide, by decide, by decide, by decide, rfl, rfl⟩

/-- An entry that issued in the packet of a TSTART, with a start field of 5. -/
def entryAt (i : Instr) (due : Option Nat) : QEntry :=
  { instr := i, seq := 0, ord := 0, issued := 0, due := due, trap := false, iter := none, scal := (0, 0), rng := ⟨0, 0, 0⟩, srctr := 0,
    rmode := .rne, ftz := false, admode := .off, ringPos := [], pc := 0 }

theorem witness_AnchorsAndTwait :
    (let c : Ctx := { bare with trap := { bare.trap with tctx := true } }
     Runs (lone c) c ∧ c.trap.tctx = true) ∧
    (let x := entryAt (.vadd { h2 with start := 5 } 1 2 3 4) (some 5)
     let c : Ctx := { bare with eng := { bare.eng with q := vset bare.eng.q 0 [x] }, ord := 1, issue := { bare.issue with done := 1 } }
     Runs (lone c) c ∧ c.trap.tctx = false ∧ c.loop = none ∧ x ∈ vget [] c.eng.q 0 ∧ x.trap = false ∧ c.ord - c.issue.done ≤ x.ord ∧ x.due ≠ none) ∧
    (let c := withS [5]
     Runs (lone c) c ∧ Reads c [.s 1] ∧ ((c.rs 1 + (0xFFB#12).signExtend 64).toInt ≤ (c.tcyc : Int)) ∧
       (c.tcyc : Int) < (c.rs 1 + (0xFFC#12).signExtend 64).toInt) := by
  refine ⟨⟨rfl, rfl⟩, ⟨rfl, rfl, rfl, List.mem_singleton.2 rfl, rfl, by decide, by simp [entryAt]⟩, rfl, ⟨rfl, rfl⟩, by decide, by decide⟩

/-- A ring of four slots of two lines at tower offset 0, with one position filled, in every cell. -/
def ring4 : Ring :=
  { conf := true, base := 0, size := 2, count := 4, head := 1, tail := 2, ttail := 2, claimed := 2, nexttag := 2, hslot := 1, fslot := 2,
    tags := [0, 1, 0, 0] }

/-- The bare context with the same contents in every cell. -/
def withCell (x : Cell) : Ctx := { bare with cells := Vector.replicate 16 x }

/-- The bare context with ring m in every cell. -/
def withRing (m : Nat) (r : Ring) : Ctx := withCell (Cell.setRing {} m r)

theorem replicate_get {α : Type} (n : Nat) (x d : α) (k : Nat) : (List.replicate n x).getD k d = x ∨ (List.replicate n x).getD k d = d := by
  by_cases h : k < n
  · left; simp [List.getD, h]
  · right; simp [List.getD, h]

theorem cell_cases (x : Cell) (n : Nat) : (withCell x).cell n = x ∨ (withCell x).cell n = {} := replicate_get 16 x {} n

theorem set_get {α : Type} (xs : List α) (m : Nat) (x d : α) (k : Nat) : (xs.set m x).getD k d = x ∨ (xs.set m x).getD k d = xs.getD k d := by
  simp only [List.getD, List.getElem?_set]
  split <;> simp_all
  split <;> simp_all

theorem ring_cases (m : Nat) (r : Ring) (n k : Nat) : ((withRing m r).cell n).ring k = r ∨ ((withRing m r).cell n).ring k = {} := by
  rcases cell_cases (Cell.setRing {} m r) n with h | h
  · rw [withRing, h]
    rcases set_get (List.replicate 8 ({} : Ring)) m r {} k with g | g
    · exact .inl g
    · exact .inr (g.trans ((replicate_get 8 ({} : Ring) {} k).elim (·) (·)))
  · rw [withRing, h]
    exact .inr ((replicate_get 8 ({} : Ring) {} k).elim (·) (·))

theorem slots_fit (c : Ctx) (h : c.motif.slots = Vector.replicate 8 .empty) (n : Nat) : slotFits (vget .empty c.motif.slots n) := by
  rw [h]
  rcases replicate_get 8 Slot.empty .empty n with g | g <;> exact (congrArg slotFits g).mpr trivial

/-- Every ring of a context with one ring fits, and RSTAT of a configured and of an unconfigured ring. -/
theorem witness_StateReadsComplete :
    (let c := withRing 3 ring4
     Runs (lone c) c ∧ stateRead (lone c) c (.rstat true 2 3 7 15) = some (true, 2, [], 2, 1#64) ∧
       stateRead (lone c) c (.rstat true 2 3 0 0) = some (true, 2, [], 2, 1#64) ∧
       stateRead (lone c) c (.rstat true 2 4 8 0) = some (true, 2, [], 2, 0#64) ∧ Reads c [] ∧ Room c 2 ∧ (∀ m : Reg, ¬ DescriptorOwed c m.toNat) ∧
       (∀ n m, ((c.cell n).ring m).conf = true → ringFits ((c.cell n).ring m)) ∧ (∀ n, slotFits (vget .empty c.motif.slots n))) ∧
    (let c := withS [0, 6, 7]
     stateRead (lone c) c (.sel true 1 2 3) = some (true, 1, [.s 1, .s 2, .s 3], 1, 7#64) ∧
       stateRead (lone c) c (.ctos true 2 0) = some (true, 2, [.c 0], 1, 1#64) ∧
       stateRead (lone c) c (.tread true 2 3) = some (true, 2, [], 1, 0#64) ∧ stateRead (lone c) c (.mstat true 2 7) = some (true, 2, [], 1, 0#64)) ∧
    (let a : GAccess := { lateLoad with kind := .rcfg 3, dest := none, performed := false }
     let c : Ctx := { lateCtx with glob := { lateCtx.glob with queue := [a] } }
     Runs (lone c) c ∧ Room c 2 ∧ DescriptorOwed c (3#3).toNat) := by
  refine ⟨⟨rfl, rfl, rfl, rfl, ⟨rfl, rfl⟩, .inr (by decide), ?_, ?_, slots_fit _ rfl⟩, ⟨rfl, rfl, rfl, rfl⟩, rfl, .inr (by decide),
    _, List.mem_singleton.2 rfl, rfl, by decide, rfl, rfl⟩
  · rintro m ⟨a, h, -⟩; exact absurd h List.not_mem_nil
  intro n m h
  rcases ring_cases 3 ring4 n m with g | g
  · rw [g]; simp only [ringFits]; decide
  · rw [g] at h; exact absurd h (by decide)

/-- Registers at the ends of the ranges, and numbers between them. -/
theorem witness_SystemRegisterRights : (Runs (lone bare) bare ∧ Reads bare [.s 1] ∧ Room bare 2) ∧
    (∀ n ∈ [0x000, 0x004, 0x010, 0x027, 0x064, 0x074, 0x0B1], listed n) ∧ (∀ n ∈ [0x005, 0x00F, 0x014, 0x028, 0x065, 0x075, 0x0B2, 0xFFF], ¬ listed n) ∧
    (∀ n ∈ [0x000, 0x010, 0x013, 0x074, 0x0A0], readOnlyReg n) ∧ (∀ n ∈ [0x020, 0x027], trapOnlyReg n) ∧ bare.trap.tctx = false := by
  refine ⟨⟨rfl, ⟨rfl, rfl⟩, .inr (by decide)⟩, ?_, ?_, ?_, ?_, rfl⟩ <;> simp only [listed, readOnlyReg, trapOnlyReg] <;> decide

/-- A reserved value; a register of the adjoint group with the mode on; and values that are taken: of a plain register, HOLDMAX, PREEMPT, REFSTAT
and STATUS, the last two in trap context. -/
theorem witness_SwrWritesItsRegister :
    (let c := withS [0x100000000]
     Runs (lone c) c ∧ Reads c [.s 1] ∧ RegRefuses 0x012 (c.rs 1) ∧ listed 0x012 ∧ ¬ readOnlyReg 0x012 ∧ ¬ trapOnlyReg 0x012) ∧
    (let c : Ctx := { bare with adj := { bare.adj with mode := .fwd } }
     Runs (lone c) c ∧ ¬ RegRefuses 0x050 (c.rs 1) ∧ ¬ RegRefuses 0x05F (c.rs 1) ∧ c.adj.mode ≠ .off ∧ listed 0x05F ∧
       ¬ readOnlyReg 0x05F) ∧
    (let c := withS [255]
     Runs (lone c) c ∧ ¬ RegRefuses 0x012 (c.rs 1) ∧ ¬ RegRefuses 0x030 (c.rs 1) ∧ plainReg 0x030 ∧ listed 0x030 ∧
       ¬ readOnlyReg 0x030 ∧ ¬ trapOnlyReg 0x030 ∧ ¬ RegRefuses 0x0B1 0 ∧ listed 0x0B1 ∧ ¬ readOnlyReg 0x0B1 ∧ c.adj.mode = .off) ∧
    (let c : Ctx := { bare with trap := { bare.trap with tctx := true } }
     Runs (lone c) c ∧ trapOnlyReg 0x020 ∧ trapOnlyReg 0x026 ∧ c.trap.tctx = true ∧ ¬ RegRefuses 0x026 0x40000 ∧
       ¬ RegRefuses 0x020 0xC ∧ listed 0x026 ∧ ¬ readOnlyReg 0x026) := by
  refine ⟨⟨rfl, ⟨rfl, rfl⟩, ?_, ?_, ?_, ?_⟩, ⟨rfl, ?_, ?_, by decide, ?_, ?_⟩, ⟨rfl, ?_, ?_, ?_, ?_, ?_, ?_, ?_, ?_, ?_, rfl⟩, rfl, ?_, ?_, rfl, ?_, ?_, ?_, ?_⟩ <;>
    simp only [listed, readOnlyReg, trapOnlyReg, plainReg, RegRefuses, anyBit] <;> decide

/-- Of each register with reserved values, one at the end of its range, and the nearest that is taken. -/
theorem witness_SwrWritesItsRegister_refused :
    (∀ p ∈ ([(0x012, 0x100000000), (0x020, 6), (0x021, 0x40000), (0x021, 0x200000), (0x022, 2), (0x025, 0x00FF000000101940), (0x025, 0x00FF0000000FFFC0),
        (0x025, 0x00FF000000100020), (0x027, 4), (0x027, 0x800020), (0x027, 0x100000000000000), (0x031, 0x100000000), (0x040, 5), (0x040, 0x80000000),
        (0x041, 8), (0x041, 0x20000), (0x042, 0x80000000), (0x042, 0x7F800000), (0x042, 1), (0x042, 0x200000000), (0x050, 0x20), (0x057, 0x100000000000000),
        (0x058, 0x2000000000000000), (0x05F, 0x0100000000000000), (0x060, 8), (0x062, 0x800000), (0x063, 0x100000000), (0x0B0, 0x10000)] : List (Nat × U64)),
      RegRefuses p.1 p.2) ∧
    (∀ p ∈ ([(0x012, 0xFFFFFFFF), (0x020, 4), (0x021, 0x13FFFF), (0x022, 4), (0x025, 0x00FF000000101900), (0x027, 0x800000), (0x040, 0xC),
        (0x041, 0x10007), (0x042, 0x100800000), (0x050, 0x40), (0x058, 0x1000000000000000), (0x060, 0x10), (0x0B0, 0xFFFF)] : List (Nat × U64)),
      ¬ RegRefuses p.1 p.2) := by
  constructor <;> simp only [List.mem_cons, forall_eq_or_imp, forall_eq, List.not_mem_nil, or_false] <;>
    refine ⟨?_, ?_, ?_, ?_, ?_, ?_, ?_, ?_, ?_, ?_, ?_, ?_, ?_⟩ <;> (try (simp only [RegRefuses, anyBit]; decide))
  refine ⟨?_, ?_, ?_, ?_, ?_, ?_, ?_, ?_, ?_, ?_, ?_, ?_, ?_, ?_, ?_, ?_⟩ <;> simp only [RegRefuses, anyBit] <;> decide

theorem idle (q : Nat) (h : q < 4) : QueueIdle bare q := by
  have : q = 0 ∨ q = 1 ∨ q = 2 ∨ q = 3 := by omega
  rcases this with rfl | rfl | rfl | rfl <;> (simp only [QueueIdle]; decide)

/-- Queues that are done and one that is not, in either context of execution; a fence that goes on; one that waits for a job; and one that
waits for a write of the context, which a view has not applied. -/
theorem witness_QueueControlAndFences :
    (Runs (lone bare) bare ∧ (∀ q : Nat, q < 4 → QueueIdle bare q) ∧ StoresSeen (lone bare) bare 0x1F ∧ JobsDone bare) ∧
    (let c : Ctx := { bare with jobs := 1 }
     Runs (lone c) c ∧ (8#4).getLsbD 3 = true ∧ ¬ QueueIdle c 3 ∧ (0x10#5).getLsbD 4 = true ∧ ¬ JobsDone c) ∧
    (let c : Ctx := { bare with jobs := 1, trap := { bare.trap with tctx := true } }
     Runs (lone c) c ∧ QueueIdle c 3) ∧
    (let w : GWrite := { id := 1, agent := bare.agent, born := 0, onHost := false, addr := 0x2000000000, data := [5#8], views := 1, needs := [],
                         together := 0 }
     let s : State := { lone bare with writes := [w] }
     Runs s bare ∧ (8#5).getLsbD 3 = true ∧ ¬ StoresSeen s bare (scopeViews (dieOf bare.id.panel) 4) ∧
       StoresSeen s bare (scopeViews (dieOf bare.id.panel) 0) ∧
       ofJobs bare { w with agent := .job 0 bare.id.taskId.toNat bare.index }) := by
  refine ⟨⟨rfl, idle, ⟨by simp [bare, loneCtx], by simp [lone, State.reset]⟩, rfl, by decide⟩,
    ⟨rfl, by decide, fun h => absurd (h.2.2.2.2.2 rfl) (by decide), by decide, fun h => absurd h.1 (by decide)⟩, ⟨rfl, ?_⟩,
    rfl, by decide, fun h => absurd (h.2 _ (List.mem_singleton.2 rfl) rfl) (by decide), ⟨by simp [bare, loneCtx], ?_⟩, 0, rfl⟩
  · simp only [QueueIdle]; decide
  · intro x hx _; rw [List.mem_singleton.1 hx]; decide

/-- A context whose handler runs. -/
def inTrap : Ctx := { bare with trap := { bare.trap with tctx := true } }

theorem witness_TrapReturnExitYieldAndEvents :
    (Runs (lone bare) bare ∧ bare.trap.tctx = false ∧ bare.loop = none ∧ bare.preempt.req = false ∧ bare.latch.bits &&& 15#4 = 0#4) ∧
    (Runs (lone inTrap) inTrap ∧ inTrap.trap.tctx = true ∧ inTrap.trapIdle = true) ∧
    (let c : Ctx := { inTrap with landings := [⟨0, .q0, 9, true, .v 0 1 0#512 0, .zero⟩] }
     Runs (lone c) c ∧ c.trapIdle = false) ∧
    (let c : Ctx := { bare with preempt := { bare.preempt with req := true }, latch := { job := true } }
     Runs (lone c) c ∧ c.preempt.req = true ∧ c.trap.tctx = false ∧ c.loop = none ∧ c.latch.bits &&& 1#4 ≠ 0#4) ∧
    (let c : Ctx := { bare with loop := some loop3 }
     Runs (lone c) c ∧ c.loop ≠ none) := by
  refine ⟨⟨rfl, rfl, rfl, rfl, by decide⟩, ⟨rfl, rfl, by decide⟩, ⟨rfl, by decide⟩, ⟨rfl, rfl, rfl, rfl, by decide⟩, rfl, by simp⟩

/-- ILLEGAL raised at an instruction, and an uncorrectable error. -/
def illegalHere : Raise := ⟨0x01#8, 0x02#8, 28#64, none, 0x4000000000#64, false, none, false⟩
def uncorrectable : Raise := ⟨0x10#8, 0#8, 0#64, some 3, 0#64, false, none, false⟩

/-- A trap in normal context in a delay slot, one in trap context, and an uncorrectable error of a re-executable node. -/
theorem witness_TrapEntrySavesAndVectors :
    (let c : Ctx := { (withS [5]) with raised := [illegalHere], issue := { bare.issue with slots := 1, taken := true, target := 64 } }
     (lone c).ctx? 0 = some c ∧ Idle c ∧ Ready c ∧ illegalHere.access = none ∧ Store.wf c.trapMem = true ∧ c.trap.tctx = false ∧
       illegalHere.code ≠ 0x10#8) ∧
    (let c : Ctx := { inTrap with raised := [illegalHere] }
     (lone c).ctx? 0 = some c ∧ Idle c ∧ Ready c ∧ c.trap.tctx = true ∧ Store.wf c.trapMem = true) ∧
    (let c : Ctx := { bare with raised := [uncorrectable], id := { bare.id with node := true } }
     (lone c).ctx? 0 = some c ∧ Idle c ∧ Ready c ∧ uncorrectable.code = 0x10#8 ∧ c.id.node = true ∧ uncorrectable.access = none) := by
  refine ⟨⟨rfl, ⟨rfl, rfl, rfl, rfl, rfl, rfl⟩, ⟨rfl, rfl, rfl, rfl⟩, rfl, rfl, rfl, by decide⟩,
    ⟨rfl, ⟨rfl, rfl, rfl, rfl, rfl, rfl⟩, ⟨rfl, rfl, rfl, rfl⟩, rfl, rfl⟩, rfl, ⟨rfl, rfl, rfl, rfl, rfl, rfl⟩, ⟨rfl, rfl, rfl, rfl⟩, rfl, rfl, rfl⟩

/-- A plain return, one with a deferred fault, and one after UNCORRECTABLE. -/
theorem witness_ReturnRestoresTheRecord :
    (let c : Ctx := { inTrap with issue := { bare.issue with leaving := true } }
     (lone c).ctx? 0 = some c ∧ Idle c ∧ c.raised = [] ∧ c.trap.tctx = true ∧ c.issue.leaving = true ∧ c.trap.pacc = false ∧
       c.trap.deferred = none ∧ c.trap.fatal = false) ∧
    (let c : Ctx := { inTrap with issue := { bare.issue with leaving := true }, trap := { inTrap.trap with deferred := some ⟨0x130007, 9⟩ } }
     (lone c).ctx? 0 = some c ∧ Idle c ∧ c.trap.deferred = some ⟨0x130007, 9⟩) ∧
    (let c : Ctx := { inTrap with issue := { bare.issue with leaving := true }, trap := { inTrap.trap with fatal := true } }
     (lone c).ctx? 0 = some c ∧ Idle c ∧ c.trap.deferred = none ∧ c.trap.fatal = true) := by
  exact ⟨⟨rfl, ⟨rfl, rfl, rfl, rfl, rfl, rfl⟩, rfl, rfl, rfl, rfl, rfl, rfl⟩, ⟨rfl, ⟨rfl, rfl, rfl, rfl, rfl, rfl⟩, rfl⟩,
    rfl, ⟨rfl, rfl, rfl, rfl, rfl, rfl⟩, rfl, rfl⟩

theorem witness_TrapPriority : [illegalHere, uncorrectable] ≠ [] ∧ ([] : List Raise) = [] := by simp

/-- A ring of four empty slots, a full one, and an explicit one. -/
def ringEmpty : Ring := { ring4 with head := 2, tail := 2, ttail := 2, claimed := 2, nexttag := 2, hslot := 2 }
def ringFull : Ring := { ring4 with head := 2, tail := 6, ttail := 6, claimed := 6, nexttag := 6, hslot := 2, fslot := 2 }
def ringOut : Ring := { ring4 with head := 2, tail := 2, ttail := 4, claimed := 4, nexttag := 4, hslot := 2, fslot := 0, explicit := true }

theorem same_cell (x : Cell) (n : Nat) (h : n < 16) : (withCell x).cell n = x := by
  change (List.replicate 16 x).getD n {} = x
  simp only [List.getD, List.getElem?_replicate, h, if_true, Option.getD_some]

/-- Nothing is owed to a ring of a context without accesses. -/
theorem not_owed (c : Ctx) (m : Nat) (h : c.glob.queue = []) : ¬ DescriptorOwed c m := by
  rintro ⟨a, ha, -⟩; exact absurd (h ▸ ha) List.not_mem_nil

/-- Without changes under way, a ring instruction sees the ring as it stands. -/
theorem seen_now (c : Ctx) (k m : Nat) (h : c.landings = []) : ringSeen c k m = (c.cell k).ring m := by simp [ringSeen, h]

/-- The context of a load of s1 that is late, with the descriptor of ring m owed instead. -/
def owing (m : Nat) : Ctx :=
  { lateCtx with glob := { lateCtx.glob with queue := [{ lateLoad with kind := .rcfg m, dest := none, performed := false }] } }

theorem owing_owes (m : Nat) : DescriptorOwed (owing m) m := ⟨_, List.mem_singleton.2 rfl, rfl, by simp [owing, lateCtx, lateLoad, Ctx.now, bare, loneCtx], rfl, rfl⟩

/-- Ring 7: a field above 7; owed; unconfigured; with a count of COUNT that is there for a fill and not for a drain, and the other way; an explicit
one, with as many tentative fills and with one fewer. -/
theorem witness_RingInstructions :
    (Runs (lone bare) bare ∧ ringNames (.rpub true 8 257) = some (8, 257) ∧ ringNames (.waitf true 7 256) = some (7, 256) ∧ ¬ Conf bare 7 ∧
       ¬ DescriptorOwed bare (7#5).toNat ∧ (7#5).toNat < 8 ∧ (256#9).toNat ≤ 256) ∧
    (Runs (lone (owing 7)) (owing 7) ∧ DescriptorOwed (owing 7) (7#5).toNat) ∧
    (let c := withRing 7 ringEmpty
     Runs (lone c) c ∧ Conf c 7 ∧ ¬ DescriptorOwed c 7 ∧ ((c.cell 0).ring 7).count < (5#9).toNat ∧ (4#9).toNat ≤ ((c.cell 0).ring 7).count ∧
       (∀ k, k < 16 → (4#9).toNat ≤ ((c.cell k).ring 7).free) ∧ ((c.cell 0).ring 7).filled = 0 ∧ ((c.cell 0).ring 7).explicit = false) ∧
    (let c := withRing 7 ringFull
     Runs (lone c) c ∧ Conf c 7 ∧ (∀ k, k < 16 → (4#9).toNat ≤ ((c.cell k).ring 7).filled) ∧ (∀ k, k < 16 → ringSeen c k 7 = (c.cell k).ring 7) ∧
       ((c.cell 0).ring 7).free = 0 ∧ (ringSeen c 0 7).free < (1#9).toNat) ∧
    (let c := withRing 7 ringOut
     Runs (lone c) c ∧ Conf c 7 ∧ ((ringSeen c 0 7).ttail - (ringSeen c 0 7).tail).toNat < (3#9).toNat ∧ ((c.cell 0).ring 7).explicit = true ∧ ((c.cell 0).ring 7).spec = false ∧
       (∀ k, k < 16 → (2#9).toNat ≤ (((c.cell k).ring 7).ttail - ((c.cell k).ring 7).tail).toNat)) ∧
    (let c := withS [0x1000]
     Runs (lone c) c ∧ Reads c [.s 1] ∧ (c.rs 1 + (0xFF8#12).signExtend 64).toNat = 0xFF8 ∧ Unwatched c true false ∧
       tlbFind ((lone c).sheet (sheetOf (lone c).cur)).tlb false (c.rs 1 + (0xFF8#12).signExtend 64).toNat = none ∧
       tlbFind ((withTlb (lone c) [page 0x7#64]).sheet (sheetOf (lone c).cur)).tlb false 0x10000 = some (page 0x7#64)) := by
  refine ⟨⟨rfl, rfl, rfl, ?_, not_owed _ _ rfl, by decide, by decide⟩, ⟨rfl, owing_owes 7⟩,
    ⟨rfl, ⟨by decide, rfl⟩, not_owed _ _ rfl, by decide, by decide, ?_, by decide, rfl⟩,
    ⟨rfl, ⟨by decide, rfl⟩, ?_, fun k _ => seen_now _ k 7 rfl, by decide, by decide⟩, ⟨rfl, ⟨by decide, rfl⟩, by decide, rfl, rfl, ?_⟩, rfl, ⟨rfl, rfl⟩,
    by decide, .inr (by decide), by decide, rfl⟩
  · simp only [Conf]; decide
  · intro k hk; rw [withRing, same_cell _ k hk]; decide
  · intro k hk; rw [withRing, same_cell _ k hk]; decide
  · intro k hk; rw [withRing, same_cell _ k hk]; decide

/-- RCFG of a ring above 7; with an address beyond 56 bits, one that is no multiple of 8, one outside the window's parts, and one in scratch; and
a watched one. -/
theorem witness_RingInstructions_rcfg :
    (let c := withS [0x100000000000000, 4, 0xFF000000020000, 0xFF000000000008]
     Runs (lone c) c ∧ (Reads c [.s 1] ∧ Reads c [.s 2] ∧ Reads c [.s 3] ∧ Reads c [.s 4]) ∧ 8 ≤ (8#5).toNat ∧ 2 ^ 56 ≤ (c.rs 1).toNat ∧
       (c.rs 2).toNat % 8 ≠ 0 ∧ ((c.rs 3).toNat / 2 ^ 48 = 0xFF ∧ ∀ tm off, ¬ At (c.rs 3) tm off) ∧ At (c.rs 4) false 8 ∧ Unwatched c true false ∧
       Sound c false 8) ∧
    (let c : Ctx := { (withS [0x78]) with sys := { bare.sys with debugCtl := 0x48 } }
     Runs (lone c) c ∧ Watched c (c.rs 1) true false) := by
  refine ⟨⟨rfl, ⟨⟨rfl, rfl⟩, ⟨rfl, rfl⟩, ⟨rfl, rfl⟩, rfl, rfl⟩, by decide, by decide, by decide, ⟨by decide, ?_⟩, .inl (by decide), .inr (by decide), rfl⟩,
    rfl, ?_⟩
  · rintro tm off (⟨-, h, e⟩ | ⟨-, h, e⟩)
    · exact absurd (show 0xFF000000020000 = 0x00FF000000000000 + off from e) (by omega)
    · exact absurd (show 0xFF000000020000 = 0x00FF000000100000 + off from e) (by omega)
  · simp only [Watched]; decide

theorem witness_RingCountsMove : 1 ≤ ringFull.count ∧ ringFull.hslot < ringFull.count ∧ 4 ≤ ringFull.count ∧ 4 ≤ ringFull.filled := by decide

/-- A ring in speculation with two tentative fills. -/
def ringSpec : Ring := { ring4 with tail := 2, ttail := 4, claimed := 4, nexttag := 4, fslot := 0, spec := true, mark := 2, mfslot := 2 }

/-- Ring 3 of the spec's example, after step 2. -/
def ring3 : Ring := { ring4 with tail := 1, ttail := 4, claimed := 4, nexttag := 4, fslot := 0, spec := true, mark := 1, mfslot := 1, tags := [0, 1, 2, 3] }

theorem witness_SpeculationMarksAndEnds :
    (Runs (lone bare) bare ∧ (0x80#8).getLsbD 7 = true ∧ ((bare.cell 0).ring 7).conf = false ∧ bare.spec.active = false ∧ Reads bare [.s 1] ∧
       (∀ k, ¬ DescriptorOwed bare k)) ∧
    (Runs (lone (owing 7)) (owing 7) ∧ (0x80#8).getLsbD 7 = true ∧ DescriptorOwed (owing 7) 7) ∧
    (let c := withRing 7 ring4
     Runs (lone c) c ∧ (∀ k, k < 8 → (0x80#8).getLsbD k = true → ((c.cell 0).ring k).conf = true ∧ ((c.cell 0).ring k).explicit = false) ∧
       c.spec.active = false) ∧
    (let c : Ctx := { (withRing 7 ringSpec) with spec := ⟨0x80, true, 5⟩, norm := (withS [2, 3]).norm }
     Runs (lone c) c ∧ c.spec.active = true ∧ (∀ k, ¬ DescriptorOwed c k) ∧ Reads c [.s 1] ∧ (c.rs 1).toNat = 2 ∧ (c.rs 2).toNat = 3 ∧
       (∀ k, k < 16 → ((((c.cell k).ring 7).ttail - ((c.cell k).ring 7).mark).toInt = 2 ∧ ((c.cell k).ring 7).spec = true)) ∧
       (∀ k, ringSeen c k 7 = (c.cell k).ring 7) ∧
       c.spec.rings.getLsbD 7 = true ∧ c.spec.rings.getLsbD 6 = false) := by
  refine ⟨⟨rfl, by decide, by decide, rfl, ⟨rfl, rfl⟩, fun k => not_owed _ k rfl⟩, ⟨rfl, by decide, owing_owes 7⟩, ⟨rfl, by decide, rfl⟩,
    rfl, rfl, fun k => not_owed _ k rfl, ⟨rfl, rfl⟩, by decide, by decide, ?_, fun k => seen_now _ k 7 rfl, by decide, by decide⟩
  · intro k hk
    have h : ((withRing 7 ringSpec).cell k) = _ := same_cell _ k hk
    exact (by rw [h]; decide : ((((withRing 7 ringSpec).cell k).ring 7).ttail - (((withRing 7 ringSpec).cell k).ring 7).mark).toInt = 2 ∧
      (((withRing 7 ringSpec).cell k).ring 7).spec = true)

/-- A mark, an accept of 2 of 3 tentative fills (the spec's example) and of all, and a fill that ends before a mark and behind it. -/
theorem witness_SpeculationMarksAndEnds_ring :
    (∀ w ∈ ([.ring 3 .mark, .ring 3 (.accept 2), .ring 3 (.accept 3), .fillDone 4 3 7] : List Write),
      let c : Ctx := { (withRing 3 ring3) with landings := [⟨0, .seq, (withRing 3 ring3).now, false, w, .zero⟩] }
      let s : State := { (lone c) with gcyc := 5 }
      s.ctx? 0 = some c ∧ OnlyWrite c 0 w ∧ 0 < s.gcyc) ∧
    (0 < ring3.count ∧ ring3.tags.length = ring3.count ∧ ring3.spec = true ∧ 0 < (ring3.nexttag - (ring3.mark + 2)).toInt ∧
      (ring3.nexttag - (ring3.mark + 2)).toNat ≤ ring3.count ∧ ¬ 0 < (ring3.nexttag - (ring3.mark + 3)).toInt) ∧
    (∀ n ∈ ([0, 4] : List U32), let f : Fill := ⟨n, n.toNat % 4, some 7, [], none, false⟩
      let r : Ring := { ring3 with fills := [f] }
      r.fills = [f] ∧ f.slot < r.tags.length ∧ r.spec = true ∧ r.explicit = false ∧ ((f.tag - r.mark).toInt < 0 ↔ n = 0)) := by
  refine ⟨?_, by decide, fun n hn => ⟨rfl, ?_⟩⟩
  rotate_left
  · simp only [List.mem_cons, List.not_mem_nil, or_false] at hn
    obtain rfl | rfl := hn <;> exact ⟨by decide, rfl, rfl, by decide⟩
  intro w hw
  simp only [List.mem_cons, List.not_mem_nil, or_false] at hw
  obtain rfl | rfl | rfl | rfl := hw <;> exact ⟨rfl, ⟨rfl, rfl, rfl, rfl, rfl, rfl⟩, by decide⟩

/-- A flag at the last place of the partition and one beyond it; a target word, and one with a reserved bit. -/
theorem witness_FlagInstructions :
    (let c : Ctx := { (withS [0x10, 0x100000001, 1]) with id := { bare.id with flagBase := 0x0F00 } }
     Runs (lone c) c ∧ (4#3).toNat ≤ 4 ∧ Reads c [.s 1] ∧ c.flagSize ≤ (16#8).toNat ∧ (15#8).toNat < c.flagSize ∧ Room c 2 ∧
       c.issue.again = none ∧ Reads c [.s 1, .s 1] ∧ (c.rs 1).toNat / 2 ^ 32 = 0 ∧ (c.rs 1).toNat % 16 = 0 ∧ (c.rs 2).toNat / 2 ^ 32 ≠ 0 ∧
       (c.rs 3).toNat % 16 ≠ 0) := by
  refine ⟨rfl, by decide, ⟨rfl, rfl⟩, by decide, by decide, .inr (by decide), rfl, ⟨rfl, rfl⟩, by decide, by decide, by decide, by decide⟩

theorem no_vector (c : Ctx) (h : vget [] c.eng.q 0 = []) (g : c.landings = []) (k : c.towerOps = []) : ¬ VectorUnder c := by
  simp [VectorUnder, h, g, k]

theorem no_reverse (c : Ctx) (h : vget [] c.eng.q 3 = []) (g : c.revJobs = 0) : ¬ ReverseUnder c := by simp [ReverseUnder, h, g]

/-- ADMODE with work under way, with nothing under way, and with a region that fails a check; and marks ahead of the tape, spilled, and at it. -/
theorem witness_AdjointModeAndTapeMarks :
    (Runs (lone inTrap) inTrap ∧ inTrap.trap.tctx = true) ∧
    (let c : Ctx := { bare with revJobs := 1 }
     Runs (lone c) c ∧ c.trap.tctx = false ∧ ReverseUnder c) ∧
    (let c : Ctx := { bare with eng := { bare.eng with q := vset bare.eng.q 0 [entryAt (.vadd h2 1 2 3 4) (some 2)] }, ord := 1 }
     Runs (lone c) c ∧ VectorUnder c ∧ TapeWaits c) ∧
    (let c : Ctx := { (withS [0x100000010, 0x10, 0x100000020, 0x1, 0x200000000]) with adj := { bare.adj with tapePtr := 0x10, tapeSpill := 1 } }
     Runs (lone c) c ∧ c.trap.tctx = false ∧ ¬ VectorUnder c ∧ ¬ ReverseUnder c ∧ ¬ TapeWaits c ∧ (∀ r ∈ c.adj.regions, ¬ RegionFails c r) ∧ Room c 2 ∧
       Reads c [.s 1] ∧
       ((c.rs 1).toNat / 2 ^ 32 = c.adj.tapeSpill.toNat ∧ (c.rs 1).toNat % 2 ^ 23 ≤ c.adj.tapePtr.toNat ∧ (c.rs 1).toNat / 2 ^ 23 % 2 ^ 9 = 0 ∧
         (c.rs 1).toNat % 16 = 0) ∧
       (c.rs 2).toNat / 2 ^ 32 < c.adj.tapeSpill.toNat ∧ c.adj.tapePtr.toNat < (c.rs 3).toNat % 2 ^ 23 ∧ (c.rs 4).toNat % 16 ≠ 0 ∧
       c.adj.tapeSpill.toNat < (c.rs 5).toNat / 2 ^ 32) ∧
    (let c : Ctx := { bare with adj := { bare.adj with dregCtl := vset bare.adj.dregCtl 5 0x8000000100000000 } }
     Runs (lone c) c ∧ ¬ VectorUnder c ∧ ¬ ReverseUnder c ∧ ∃ r, r ∈ c.adj.regions ∧ r.n = 5 ∧ RegionFails c r ∧
       ∀ q ∈ c.adj.regions, RegionFails c q → r.n ≤ q.n) := by
  refine ⟨⟨rfl, rfl⟩, ⟨rfl, rfl, .inl (by decide)⟩, ⟨rfl, .inl ⟨_, List.mem_singleton.2 rfl, rfl, by decide⟩, _, List.mem_singleton.2 rfl, rfl, by decide⟩,
    ⟨rfl, rfl, ?_, ?_, ?_, ?_, .inr (by decide), ⟨rfl, rfl⟩, by decide, by decide, by decide, by decide, by decide⟩,
    rfl, no_vector _ rfl rfl rfl, no_reverse _ rfl rfl, ⟨5, false, 4, 0, 64, 0, 64⟩, by decide, rfl, ?_, ?_⟩
  · exact no_vector _ rfl rfl rfl
  · exact no_reverse _ rfl rfl
  · exact fun ⟨x, h, _⟩ => List.not_mem_nil (show x ∈ [] from h)
  · exact fun r h => (List.not_mem_nil (show r ∈ [] from h)).elim
  · exact .inr (.inl ⟨_, by decide, rfl, .inr (.inl ⟨0, by decide, by decide, by decide, by decide⟩)⟩)
  · intro q h _
    rw [List.eq_of_mem_singleton (show q ∈ [⟨5, false, 4, 0, 64, 0, 64⟩] from h)] <;> exact Nat.le_refl _

theorem witness_LaunchAndCommit :
    (let c := withS [0x20, 0x00FF000000000040, 0x40]
     Runs (lone c) c ∧ Reads c [.s 1] ∧ Room c 5 ∧ (c.rs 1).toNat % 64 ≠ 0 ∧ (c.rs 2).toNat / 2 ^ 48 = 0xFF ∧ (c.rs 2).toNat % 64 = 0 ∧
       (c.rs 3).toNat % 64 = 0 ∧ (c.rs 3).toNat / 2 ^ 48 ≠ 0xFF ∧ Unwatched c true true ∧
       tlbFind ((lone c).sheet (sheetOf (lone c).cur)).tlb false (c.rs 3).toNat = none ∧ c.trap.tctx = false ∧ JobsDone c ∧ AllSeen (lone c) c) ∧
    (let c : Ctx := { bare with jobs := 1 }
     Runs (lone c) c ∧ ¬ JobsDone c) ∧
    (let c : Ctx := { (withS [0x40]) with committed := true }
     Runs (lone c) c ∧ store c (.std true 2 1 0) = some (true, 2, 1, 0x40, 8) ∧ c.committed = true ∧ Reads c [.s 1, .s 2] ∧
       Unwatched c false true) := by
  refine ⟨⟨rfl, ⟨rfl, rfl⟩, .inr (by decide), by decide, by decide, by decide, by decide, by decide, .inr (by decide), by decide, rfl, ⟨rfl, by decide⟩,
    ⟨⟨?_, ?_⟩, ?_, ?_⟩⟩, ⟨rfl, fun h => absurd h.1 (by decide)⟩, rfl, rfl, rfl, ⟨rfl, rfl⟩, .inr (by decide)⟩ <;>
    simp [withS, bare, loneCtx, lone, State.reset]

/-- A motif that has been loaded. -/
def motif1 : Motif := { nin := 1, ein := false, nout := 1, lat := 1, y0 := 0, y1 := 0, units := [] }

theorem witness_FormatWordsAndMotifSlots :
    (let c := withS [0x21, 0x00FF000000000040, 0x40]
     Runs (lone c) c ∧ Reads c [.s 1] ∧ c.fmt.queue.length < 16 ∧ ¬ MotifUnder c ∧ (c.rs 1).toNat % 64 ≠ 0 ∧
       ((c.rs 2).toNat % 64 = 0 ∧ (c.rs 2).toNat / 2 ^ 48 = 0xFF) ∧ ((c.rs 3).toNat % 64 = 0 ∧ (c.rs 3).toNat / 2 ^ 48 ≠ 0xFF) ∧
       vget .empty c.motif.slots 7 = .empty) ∧
    (let c : Ctx := { bare with fmt := { bare.fmt with queue := List.replicate 16 0#64, pushAt := 1 } }
     Runs (lone c) c ∧ 16 ≤ c.fmt.queue.length ∧ c.fmt.pushAt ≠ (lone c).gcyc) ∧
    (let c : Ctx := { bare with fmt := { bare.fmt with queue := [0, 0], pushAt := 0, pushed := 1 },
                                motif := { bare.motif with load := some { slot := 2, addr := 0, left := 5, ord := 0, pc := 0, trap := false },
                                                           slots := vset (vset (vset bare.motif.slots 2 .loading) 1 (.loaded motif1)) 0 (.failed 2) } }
     Runs (lone c) c ∧ c.fmt.pushAt = (lone c).gcyc ∧ MotifUnder c ∧ vget .empty c.motif.slots 2 = .loading ∧
       vget .empty c.motif.slots 1 = .loaded motif1 ∧ vget .empty c.motif.slots 0 = .failed 2) := by
  refine ⟨⟨rfl, ⟨rfl, rfl⟩, by decide, ?_, by decide, by decide, by decide, rfl⟩, ⟨rfl, by decide, by decide⟩, rfl, rfl, .inl (by simp), rfl, rfl, rfl⟩
  simp only [MotifUnder]; decide

/-- A context in panel time 1 with one command at the head of queue n, due now. -/
def atHead (n : Nat) (i : Instr) : Ctx :=
  { bare with time := { bare.time with ptime := 1 }, eng := { bare.eng with q := vset bare.eng.q n [entryAt i (some 1)] }, ord := 1 }

/-- No ADMODE keeps back a command of the first mode. -/
theorem not_kept_back (c : Ctx) (i : Instr) (t : Option Nat) : ¬ KeptBack c (entryAt i t) :=
  fun ⟨_, _, _, _, _, _, _, _, h⟩ => Nat.not_lt_zero _ h

/-- No descriptor is late in a context without accesses. -/
theorem not_ring_late (c : Ctx) (i : Instr) (h : c.glob.queue = []) : ¬ RingLate c i := by
  rintro ⟨m, -, g⟩; simp [Ctx.lateRing, h] at g

/-- The hypotheses that a command of queue n starts. -/
theorem head_starts (n : Nat) (hn : n < 4) (i : Instr) (h : (engineOf i).isSome = true) :
    Starts (lone (atHead n i)) 0 n (atHead n i) (entryAt i (some 1)) := by
  have e : vget [] (atHead n i).eng.q n = [entryAt i (some 1)] := by
    rcases n with _ | _ | _ | _ | n <;> first | rfl | omega
  obtain ⟨g, hg⟩ := Option.isSome_iff_exists.1 h
  refine ⟨⟨rfl, ?_, Nat.zero_lt_one, ?_, fun _ => (by decide : (0 : Nat) < 8), not_kept_back _ _ _⟩, ⟨g, hg, .inl rfl⟩, not_ring_late _ _ rfl,
    (by decide : bit (0#64) 0 = false), rfl⟩
  · rw [e]; rfl
  · rcases n with _ | _ | _ | _ | n <;> exact Nat.zero_le _

/-- A context outside a loop keeps every command whose guard reads 1. -/
theorem kept_outside (c : Ctx) (k : BitVec 3) (h : c.rc k = true) (g : c.loop = none) : Kept c k :=
  ⟨h, fun l m i e => by rw [g] at e; exact absurd e (by simp)⟩

/-- The hypotheses under which a command that reads no ring enters its queue, in normal context outside a loop. -/
theorem may_enter (c : Ctx) (i : Instr) (st : BitVec 16) (h : i.staticFault = none) (hs : ¬ Reserved st) (hp : bit c.sys.debugCtl 0 = false)
    (hk : c.loop = none) (hq : c.glob.queue = []) (ho : ¬ OperandBad c i) (ht : c.trap.tctx = false) : MayEnter c i st 0 := by
  refine ⟨h, hs, ?_, kept_outside c _ rfl hk, ⟨?_, ?_⟩, fun m _ => ?_, ho, .inl ht⟩
  · simp [Ctx.early, hp]
  · simp [Ctx.late, hq]
  · simp [Ctx.early, hp]
  · simp [Ctx.lateRing, hq]

/-- A timed and a ready command into an empty queue and one with 63 entries; and a VLDR of a configured ring. -/
theorem witness_CommandEntersItsQueue :
    (Runs (lone bare) bare ∧ header (.vadd h2 1 2 3 4) = some (true, 2, 0) ∧ MayEnter bare (.vadd h2 1 2 3 4) 2 0 ∧
      misplaced bare (.vadd h2 1 2 3 4) = none ∧ queueOf (.vadd h2 1 2 3 4) = 0 ∧ (vget [] bare.eng.q 0).length < 64) ∧
    (let i : Instr := .cfill { h2 with start := 0xFFFF } 1 3 0
     let c : Ctx := { (withS [0x40]) with eng := { bare.eng with q := vset bare.eng.q 3 (List.replicate 63 (entryAt i none)) } }
     Runs (lone c) c ∧ header i = some (true, 0xFFFF, 0) ∧ MayEnter c i 0xFFFF 0 ∧ misplaced c i = none ∧ queueOf i = 3 ∧
       (vget [] c.eng.q 3).length = 63) ∧
    (let i : Instr := .vldr h2 1 7 1 3 0
     let c := withRing 7 ring4
     Runs (lone c) c ∧ header i = some (true, 2, 0) ∧ MayEnter c i 2 0 ∧ misplaced c i = none ∧ queueOf i = 0) ∧
    (TakesCounter bare (.mtot h2 0 0 0 0 false false) ∧ TakesCounter bare (.vfadd h2 1 2 3 8 4) ∧ ¬ TakesCounter bare (.vfadd h2 1 2 3 8 0)) := by
  refine ⟨⟨rfl, rfl, may_enter _ _ _ rfl ?_ rfl rfl rfl (by simp [OperandBad]) rfl, rfl, by decide, by decide⟩,
    ⟨rfl, rfl, may_enter _ _ _ rfl ?_ rfl rfl rfl (by simp [OperandBad]) rfl, rfl, by decide, rfl⟩,
    ⟨rfl, rfl, may_enter _ _ _ rfl ?_ rfl rfl rfl ?_ rfl, rfl, by decide⟩, trivial, ⟨4, rfl, rfl⟩, ?_⟩
  · simp only [Reserved]; decide
  · simp only [Reserved]; decide
  · simp only [Reserved]; decide
  · simp only [OperandBad]; decide
  · rintro ⟨rm, h, g⟩; cases h; exact absurd g (by decide)

/-- Fields of a sequencer instruction and of commands at the values their entries refuse first, and the last that they take. -/
theorem witness_CommandThatDoesNotEnter_fields :
    (Runs (lone bare) bare ∧ (∀ i ∈ ([.fset true 1 5 0, .finc true 1 2 3 0, .cmpeq true 8 1 2, .loop true 1 0 3, .exit false, .rcfg true 8 1 0, .rpop true 7 257,
        .rstat true 1 0 9 0, .qsync true 0, .admode true 3] : List Instr), SeqFieldOut i) ∧
      (∀ i ∈ ([.fset true 1 4 0, .finc true 0 2 3 0, .exit true, .rpop true 7 256, .rstat true 1 0 8 0] : List Instr), ¬ SeqFieldOut i ∧ header i = none)) ∧
    (SpareSet (.vplog ⟨true, 2, 0⟩ 1 2 3 5) ∧ ¬ SpareSet (.vplog ⟨true, 2, 0⟩ 1 2 3 4) ∧ ¬ SpareSet (.vplog ⟨true, 2, 0⟩ 1 2 0 6)) ∧
    (TypeRefused (.vadd h2 1 2 3 6) ∧ ¬ TypeRefused (.vadd h2 1 2 3 5) ∧ TypeRefused (.vcvt h2 1 2 8 13 0 0) ∧ ¬ TypeRefused (.vcvt h2 1 2 7 13 0 0) ∧
      TypeRefused (.vred h2 1 2 12 3) ∧ ¬ TypeRefused (.vred h2 1 2 13 0) ∧ ¬ TypeRefused (.vqnt h2 1 2 1 13 0)) ∧
    (FieldOut (.vfadd h2 1 2 3 8 5) ∧ ¬ FieldOut (.vfadd h2 1 2 3 8 7) ∧ FieldOut (.vcvt h2 1 2 6 1 2 0) ∧
      FieldOut (.mzero h2 63 1) ∧ ¬ FieldOut (.mzero h2 63 0) ∧ FieldOut (.mtov h2 63 1 63 0) ∧ ¬ FieldOut (.mtov h2 63 1 63 8)) ∧
    (header (.vadd { h2 with start := 0xFFF0 } 1 2 3 4) = some (true, 0xFFF0, 0) ∧ Reserved 0xFFF0 ∧ ¬ Reserved 2 ∧
      header (.vqnt { h2 with start := 0xFFF0 } 1 2 1 0 0) = some (true, 0xFFF0, 0)) := by
  refine ⟨⟨rfl, ?_, ?_⟩, ⟨?_, ?_, ?_⟩, ⟨?_, ?_, ?_, ?_, ?_, ?_, ?_⟩, ⟨?_, ?_, ?_, ?_, ?_, ?_, ?_⟩, rfl, ?_, ?_, rfl⟩ <;>
    first
    | (simp [SeqFieldOut, condFields, header, SpareSet, TypeRefused, typeField, FieldOut, roundField, ints, floats, bitsOf, Reserved]; done)
    | exact .inl ⟨_, _, rfl, by decide⟩
    | exact .inl ⟨_, rfl, .inl rfl⟩
    | exact .inr (by decide)

/-- A guard of 0, and a command that an LBREAK discards; a full queue; a scalar and a descriptor that are late; the lowest guard field and the
ends of the start values that are refused; operands beyond their limits; a timed command in trap context; and misplaced addresses. -/
theorem witness_CommandThatDoesNotEnter :
    (Runs (lone bare) bare ∧ header (.vadd { h2 with c := 7 } 1 2 3 4) = some (true, 2, 7) ∧ ¬ Kept bare (guard 7) ∧ ¬ Reserved 2 ∧
      (Instr.vadd { h2 with c := 7 } 1 2 3 4).staticFault = none ∧ bare.early [.c (guard 7)] = none) ∧
    (let c : Ctx := { bare with loop := some { loop3 with cut := some 1 } }
     Runs (lone c) c ∧ c.rc (guard 0) = true ∧ iteration c 0 = some 2 ∧ ¬ Kept c (guard 0)) ∧
    (let c : Ctx := { bare with eng := { bare.eng with q := vset bare.eng.q 0 (List.replicate 64 (entryAt (.vadd h2 1 2 3 4) none)) } }
     Runs (lone c) c ∧ MayEnter c (.vadd h2 1 2 3 4) 2 0 ∧ 64 ≤ (vget [] c.eng.q 0).length) ∧
    (Runs (lone lateCtx) lateCtx ∧ header (.vbcast h2 2 1 8) = some (true, 2, 0) ∧ Kept lateCtx (guard 0) ∧
      lateCtx.late (scalarRefs (.vbcast h2 2 1 8)) = true) ∧
    (Runs (lone (owing 7)) (owing 7) ∧ Kept (owing 7) (guard 0) ∧ (7#3) ∈ ringsNamed (.vstr h2 1 7 0 0) ∧ (owing 7).lateRing (7#3).toNat = true) ∧
    ((8#5).toNat = 8 ∧ (plain (.vadd { h2 with c := 8, start := 0xFFF0 } 1 2 3 4)).staticFault = none ∧ Reserved 0xFFF0 ∧ Reserved 0xFFFE ∧
      ¬ Reserved 0xFFEF ∧ ¬ Reserved 0xFFFF ∧ (Instr.vadd h2 1 2 3 8).staticFault = some 0x04#8) ∧
    (OperandBad bare (.vldr h2 1 7 0 0 0) ∧ OperandBad (withS [0x7000000]) (.vqnt h2 1 2 1 0 0) ∧ ¬ OperandBad (withS [0x3000000]) (.vqnt h2 1 2 1 0 0) ∧
      (plain (.vldr h2 1 7 0 0 0)).staticFault = none ∧ bare.late (scalarRefs (.vldr h2 1 7 0 0 0)) = false) ∧
    (Runs (lone inTrap) inTrap ∧ inTrap.trap.tctx = true ∧ (2#16) ≠ 0xFFFF#16 ∧ ¬ OperandBad inTrap (.vadd h2 1 2 3 4)) ∧
    (let c := withS [0x44, 0x00FF000000000040]
     MayEnter c (.vld h2 1 1 0) 2 0 ∧ misplaced c (.vld h2 2 1 0) = some (0x03, 0x44) ∧ misplaced c (.vlds h2 2 1 0 1) = none ∧
       misplaced c (.cfill h2 1 3 0) = some (0x03, 0x44) ∧ misplaced c (.cfill h2 2 3 0) = some (0x05, 0x00FF000000000040)) := by
  refine ⟨⟨rfl, rfl, fun h => absurd h.1 (by decide), ?_, rfl, rfl⟩, ⟨rfl, rfl, rfl, fun h => absurd (h.2 _ 1 2 rfl rfl rfl) (by decide)⟩,
    ⟨rfl, may_enter _ _ _ rfl ?_ rfl rfl rfl (by simp [OperandBad]) rfl, by decide⟩, ⟨rfl, rfl, kept_outside _ _ rfl rfl, rfl⟩,
    ⟨rfl, kept_outside _ _ rfl rfl, by decide, rfl⟩, ⟨rfl, rfl, ?_⟩, ⟨.inl rfl, ?_⟩, ⟨rfl, rfl, by decide, by simp [OperandBad]⟩,
    may_enter _ _ _ rfl ?_ rfl rfl rfl (by simp [OperandBad]) rfl, rfl, rfl, rfl, rfl⟩
  · simp only [Reserved]; decide
  · simp only [Reserved]; decide
  · simp only [Reserved]; decide
  · simp only [OperandBad]; decide
  · simp only [Reserved]; decide

/-- Before the due cycle, after it, in it with a start that is done, and with a residue check that fails; in it with a fault, with a fault that
takes a format word, and with a hold; an early read; a descriptor that is late; and a ready command, before a result that it reads and
without one. -/
theorem witness_HeadWaitsStartsOrIsLate :
    (let i : Instr := .vadd h2 1 2 3 4
     (∀ t : Nat, ∃ c : Ctx, Presented (lone c) 0 0 c (entryAt i (some t)) ∧ c.now = 1) ∧
     (∃ g d, engineOf i = some g ∧ g.start ((lone (atHead 0 i)).env 0) (atHead 0 i) (entryAt i (some 1)) = .done d ∧ d.trap = (atHead 0 i).trap) ∧
     (let c : Ctx := { (atHead 0 i) with eng := { (atHead 0 i).eng with residue := [(0, 5, 3)] } }
      Presented (lone c) 0 0 c (entryAt i (some 1)) ∧ c.eng.residue.find? (fun r => r.1 == 0) = some (0, 5, 3)) ∧
     (let c : Ctx := { (atHead 0 i) with landings := [⟨0, .q0, 5, false, .v 0 2 0 1, .zero⟩], sys := { bare.sys with debugCtl := 1 } }
      Presented (lone c) 0 0 c (entryAt i (some 1)) ∧ ∃ g, engineOf i = some g ∧ (c.early ((g.sees.getD g.reads) c)).isSome = true) ∧
     (let c : Ctx := { (atHead 0 i) with eng := { (atHead 0 i).eng with q := vset bare.eng.q 0 [{ (entryAt i none) with ord := 1 }] },
                                         landings := [⟨0, .q0, 5, false, .v 0 2 0 1, .zero⟩] }
      Presented (lone c) 0 0 c { (entryAt i none) with ord := 1 } ∧ ∃ g, engineOf i = some g ∧ Ref.v 2 ∈ g.reads c ∧ Owed c 1 (.v 2)) ∧
     (∃ g, engineOf i = some g ∧ Turn bare (entryAt i none) g)) ∧
    (let i : Instr := .vstr h2 1 7 0 0
     let c : Ctx := { (atHead 0 i) with cells := Vector.replicate 16 (Cell.setRing {} 7 ringFull) }
     let d : Ctx := { (atHead 0 i) with glob := (owing 7).glob }
     Presented (lone c) 0 0 c (entryAt i (some 1)) ∧ (entryAt i (some 1)).due = some c.now ∧
       (∃ g x, engineOf i = some g ∧ g.start ((lone c).env 0) c (entryAt i (some 1)) = .fault 0x06 0 x) ∧
       Presented (lone d) 0 0 d (entryAt i (some 1)) ∧ RingLate d i) ∧
    (let i : Instr := .vxrecv h2 0 1 0
     Starts (lone (atHead 2 i)) 0 2 (atHead 2 i) (entryAt i (some 1)) ∧
       ∃ g, engineOf i = some g ∧ g.start ((lone (atHead 2 i)).env 0) (atHead 2 i) (entryAt i (some 1)) = .hold 1) ∧
    (let i : Instr := .mma h2 0 0 0 0 0 true false false false
     let c : Ctx := { (atHead 1 i) with cells := Vector.replicate 16 (Cell.setRing {} 0 { ring4 with size := 64 }), fmt := { bare.fmt with queue := [0xF] } }
     Presented (lone c) 0 1 c (entryAt i (some 1)) ∧
       ∃ g d, engineOf i = some g ∧ g.start ((lone c).env 0) c (entryAt i (some 1)) = .spoilt d 0x01 0x0B 0xF) := by
  refine ⟨⟨?_, ⟨_, _, rfl, rfl, rfl⟩, ⟨⟨rfl, rfl, by decide, by decide, by decide, not_kept_back _ _ _⟩, rfl⟩,
      ⟨⟨rfl, rfl, by decide, by decide, by decide, not_kept_back _ _ _⟩, _, rfl, rfl⟩,
      ⟨⟨rfl, rfl, by decide, by decide, by decide, fun ⟨_, _, _, _, _, _, _, _, h⟩ => Nat.not_lt_zero _ h⟩, _, rfl, by decide, by decide, by decide,
        by decide, .inl ⟨_, List.mem_singleton.2 rfl, by decide, .inr rfl, _, rfl, rfl⟩⟩, _, rfl, .inr ⟨rfl, ?_⟩⟩,
    ⟨⟨rfl, rfl, by decide, by decide, by decide, not_kept_back _ _ _⟩, rfl, ⟨_, _, rfl, rfl⟩,
      ⟨rfl, rfl, by decide, by decide, by decide, not_kept_back _ _ _⟩, 7, by decide, rfl⟩,
    ⟨head_starts 2 (by decide) _ rfl, _, rfl, rfl⟩,
    ⟨rfl, rfl, by decide, by decide, by decide, not_kept_back _ _ _⟩, _, _, rfl, rfl⟩
  · intro t
    exact ⟨{ (atHead 0 (.vadd h2 1 2 3 4)) with eng := { bare.eng with q := vset bare.eng.q 0 [entryAt (.vadd h2 1 2 3 4) (some t)] } },
      ⟨rfl, rfl, Nat.zero_lt_one, Nat.zero_le 1, fun h => absurd h (by decide), not_kept_back _ _ _⟩, rfl⟩
  · rintro r - ⟨-, -, -, ⟨l, h, -⟩ | ⟨q, hq, e, h, -⟩ | ⟨f, h, -⟩ | ⟨o, h, -⟩⟩
    · exact List.not_mem_nil (show l ∈ [] from h)
    · rcases q with _ | _ | _ | _ | q <;> first | exact List.not_mem_nil (show e ∈ [] from h) | omega
    · exact List.not_mem_nil (show f ∈ [] from h)
    · exact List.not_mem_nil (show o ∈ [] from h)

/-- A command alone at the head of the queue of the vector engine starts. -/
theorem starts0 (i : Instr) (h : (engineOf i).isSome = true) : Starts (lone (atHead 0 i)) 0 0 (atHead 0 i) (entryAt i (some 1)) :=
  head_starts 0 (by decide) i h

/-- An addition, a saturating one that clamps, a shift and a permutation. -/
theorem witness_VectorElementResults :
    (let i : Instr := .vadd h2 1 2 3 4
     Starts (lone (atHead 0 i)) 0 0 (atHead 0 i) (entryAt i (some 1)) ∧
       ∀ n x k, ∃ v, element (atHead 0 i) (entryAt i (some 1)) n x k i = some (h2, 1#5, 32, 2, v)) ∧
    (let i : Instr := .vadds h2 1 2 3 1
     Starts (lone (atHead 0 i)) 0 0 (atHead 0 i) (entryAt i (some 1)) ∧
       ∀ n x k, ∃ v, element (atHead 0 i) (entryAt i (some 1)) n x k i = some (h2, 1#5, 8, 2, v)) ∧
    clamped (8, false) 256 = (255, true) ∧ clamped (8, true) (-129) = (-128, true) ∧ clamped (8, true) 127 = (127, false) ∧
    (let i : Instr := .vperm h2 1 2 3 0
     Starts (lone (atHead 0 i)) 0 0 (atHead 0 i) (entryAt i (some 1)) ∧
       ∀ n x k, ∃ v, element (atHead 0 i) (entryAt i (some 1)) n x k i = some (h2, 1#5, 8, 3, v)) := by
  refine ⟨⟨starts0 _ rfl, fun n x k => ⟨_, rfl⟩⟩, ⟨starts0 _ rfl, fun n x k => ⟨_, rfl⟩⟩, ?_, ?_, ?_,
    starts0 _ rfl, fun n x k => ⟨_, rfl⟩⟩ <;> decide

/-- Classes at the edges of F32: NaN, infinity, zero, a subnormal and a normal number; and each of the other forms. -/
theorem witness_FloatSignsAndClasses :
    (let i : Instr := .vfclass h2 1 2 8
     Starts (lone (atHead 0 i)) 0 0 (atHead 0 i) (entryAt i (some 1)) ∧ floatType 8 = some (8, 23) ∧ (entryAt i (some 1)).instr = .vfclass h2 1 2 8) ∧
    isNan (8, 23) 0x7F800001 ∧ isInf (8, 23) 0xFF800000 ∧ isZero (8, 23) 0x80000000 ∧ expAt (8, 23) 0x007FFFFF = 0 ∧ expAt (8, 23) 0x00800000 = 1 ∧
    (∀ i ∈ ([.vfmin h2 1 2 3 6, .vfmax h2 1 2 3 7, .vred h2 1 2 13 2, .vscan h2 1 2 0 5, .vrcp h2 1 2 8, .vrsq h2 1 2 8, .vexp2 h2 1 2 8,
        .vlog2 h2 1 2 8, .vtanh h2 1 2 8, .vrnd h2 1 2 3 5 3, .vgumb h2 1 2 3 8, .vsamp h2 1 2 3 8] : List Instr),
      Starts (lone (atHead 0 i)) 0 0 (atHead 0 i) (entryAt i (some 1))) ∧
    floatType 7 ≠ none ∧ (form 7).isSome = true ∧ anyType 13 = some 4 ∧ (3 ≤ (2#3).toNat → intType 13 ≠ none) ∧ intType 0 ≠ none := by
  refine ⟨⟨starts0 _ rfl, rfl, rfl⟩, ?_⟩
  simp only [isNan, isInf, isZero]
  refine ⟨by decide, by decide, by decide, by decide, by decide, ?_, by decide, rfl, rfl, by decide, by decide⟩
  simp only [List.mem_cons, List.not_mem_nil, or_false]
  rintro i (rfl | rfl | rfl | rfl | rfl | rfl | rfl | rfl | rfl | rfl | rfl | rfl) <;> exact starts0 _ rfl

theorem witness_FloatSpecialOperands :
    (let i : Instr := .vfadd h2 1 2 3 8 0
     Starts (lone (atHead 0 i)) 0 0 (atHead 0 i) (entryAt i (some 1)) ∧ floatType 8 = some (8, 23)) ∧
    (let i : Instr := .vfmul h2 1 2 3 6 0
     Starts (lone (atHead 0 i)) 0 0 (atHead 0 i) (entryAt i (some 1)) ∧ floatType 6 = some (5, 10) ∧ (entryAt i (some 1)).ftz = false) ∧
    (isInf (8, 23) 0x7F800000 ∧ isInf (8, 23) 0xFF800000 ∧ signAt (8, 23) 0xFF800000 = 1 ∧ isZero (5, 10) 0x8000) ∧
    (∀ i ∈ ([.vfsub h2 1 2 3 8 7, .vfma h2 1 2 3 7 1, .vfscl h2 1 2 3 6 2, .vdiv h2 1 2 3 8 3, .vcvt h2 1 2 6 9 1 4, .vqnt h2 1 2 3 13 0,
        .vdqnt h2 1 2 3 0] : List Instr), Starts (lone (atHead 0 i)) 0 0 (atHead 0 i) (entryAt i (some 1))) ∧
    (anyType 6 = some 16 ∧ anyType 9 = some 8 ∧ (1#2).toNat * 8 < 16) ∧
    (intType4 13 = some (4, false) ∧ 4 * ((entryAt (.vqnt h2 1 2 3 13 0) (some 1)).scal.2.toNat / 2 ^ 24 % 8) < 32) := by
  refine ⟨⟨starts0 _ rfl, rfl⟩, ⟨starts0 _ rfl, rfl, rfl⟩, ?_, ?_, ?_, ?_⟩
  · simp only [isInf, isZero]; decide
  · simp only [List.mem_cons, List.not_mem_nil, or_false]
    rintro i (rfl | rfl | rfl | rfl | rfl | rfl | rfl) <;> exact starts0 _ rfl
  · decide
  · decide

theorem witness_PredicateResults :
    (let i : Instr := .vcmp h2 1 2 3 4 5
     Starts (lone (atHead 0 i)) 0 0 (atHead 0 i) (entryAt i (some 1)) ∧ intType 4 = some (32, true) ∧ (5#3).toNat < 6) ∧
    (let i : Instr := .vplog ⟨true, 2, 0⟩ 1 2 0 6
     Starts (lone (atHead 0 i)) 0 0 (atHead 0 i) (entryAt i (some 1)) ∧ (6#3).toNat < 7) ∧
    (let i : Instr := .vvote h2 7 2 13 true
     Starts (lone (atHead 0 i)) 0 0 (atHead 0 i) (entryAt i (some 1)) ∧ anyType 13 = some 4 ∧ (7#5).toNat < 8) ∧
    (∀ i ∈ ([.vfcmp h2 1 2 3 6 6, .vsel h2 1 2 3 11, .vpcnt h2 1 2 2] : List Instr),
      Starts (lone (atHead 0 i)) 0 0 (atHead 0 i) (entryAt i (some 1))) ∧
    floatType 6 ≠ none ∧ (form 6).isSome = true ∧ anyType 11 = some 4 :=
  ⟨⟨starts0 _ rfl, rfl, by decide⟩, ⟨starts0 _ rfl, by decide⟩,
    ⟨starts0 _ rfl, rfl, by decide⟩, by
      simp only [List.mem_cons, List.not_mem_nil, or_false]
      rintro i (rfl | rfl | rfl) <;> exact starts0 _ rfl, by decide, rfl, rfl⟩

theorem no_debug : bit (0#64) 0 = false := by decide

/-- What makes the one entry of a queue start, in normal context. -/
theorem starts_of (n : Nat) (c : Ctx) (e : QEntry) (h1 : (lone c).ctx? 0 = some c) (h2 : vget [] c.eng.q n = [e]) (h3 : e.trap = false)
    (h4 : c.trap.tctx = false) (h5 : e.issued < c.now) (h6 : vget 0 c.eng.free n ≤ c.now) (h7 : c.jobs < 8) (h8 : e.gen = 0)
    (h9 : (engineOf e.instr).isSome = true) (h10 : e.due = some c.now) (h11 : c.glob.queue = []) (h12 : bit c.sys.debugCtl 0 = false)
    (h13 : c.eng.residue = []) : Starts (lone c) 0 n c e := by
  obtain ⟨g, hg⟩ := Option.isSome_iff_exists.1 h9
  refine ⟨⟨h1, ?_, h5, ?_, fun _ => h7, ?_⟩, ⟨g, hg, .inl h10⟩, not_ring_late _ _ h11, h12, h13⟩
  · rw [h2]; simp [h3, h4]
  · rw [h4]; exact h6
  · rintro ⟨-, -, q, -, f, -, -, -, h⟩; rw [h8] at h; exact Nat.not_lt_zero _ h

/-- The context of one command of queue n, due now, with the same contents in every cell. -/
def cellsAt (n : Nat) (i : Instr) (x : Cell) : Ctx := { (atHead n i) with cells := Vector.replicate 16 x }

theorem quiet_cells (c : Ctx) (x : Cell) (h : c.cells = Vector.replicate 16 x) (hs : c.sys.debugCtl = 0#64) (hb : x.badLines = []) : Quiet c := by
  refine ⟨hs, fun n => ?_⟩
  rw [Ctx.cell, h]
  rcases replicate_get 16 x {} n with g | g <;> exact (congrArg Cell.badLines g).trans (by first | exact hb | rfl)

theorem slots_cells (c : Ctx) (x : Cell) (h : c.cells = Vector.replicate 16 x) (hb : x.badSlots = []) (n : Nat) : (c.cell n).badSlots = [] := by
  rw [Ctx.cell, h]
  rcases replicate_get 16 x {} n with g | g <;> exact (congrArg Cell.badSlots g).trans (by first | exact hb | rfl)

/-- Every cell of such a context is the one given. -/
theorem cellsAt_cell (n : Nat) (i : Instr) (x : Cell) (k : Nat) (h : k < 16) : (cellsAt n i x).cell k = x := same_cell x k h

/-- A VLD and a VST of an aligned line, and the strided and indexed forms; a read and a write in their bank cycle, of the tower's last line. -/
theorem witness_TowerLinesMoveInTheirBankCycle :
    (∀ i ∈ ([.vld h2 1 0 0xFFF, .vst h2 1 0 0, .vlds h2 1 0 1 3, .vsts h2 1 0 1 31, .vldx h2 1 0 1 2, .vstx h2 1 0 1 2] : List Instr),
      Starts (lone (atHead 0 i)) 0 0 (atHead 0 i) (entryAt i (some 1)) ∧ Quiet (atHead 0 i) ∧ (entryAt i (some 1)).admode = .off ∧
        (entryAt i (some 1)).scal.1 = 0) ∧
    (0 + 64 * (0xFFF#12).toNat) % 2 ^ 23 % 64 = 0 ∧
    (let x : TowerOp := { ord := 0, rank := 0, cell := 15, cycle := 0, trap := false, unit := .q0, off := 0x7FFFC0, act := .write 1 (BitVec.allOnes 64) }
     let c : Ctx := { bare with towerOps := [x] }
     (lone c).ctx? 0 = some c ∧ x.trap = c.trap.tctx ∧ x.cycle = c.now ∧ x.cell < 16 ∧ x.off < 2 ^ 23 ∧ x.keep = none ∧ c.windows = [] ∧
       c.landings = [] ∧ c.flights = [] ∧ c.raised = [] ∧ c.glob.queue = [] ∧ c.issue.leaving = false ∧ Store.wf (c.cell x.cell).tower = true) ∧
    (let x : TowerOp := { ord := 0, rank := 0, cell := 0, cycle := 0, trap := false, unit := .q0, off := 0, act := .read 64 (.vreg 1 0 1 5) }
     let c : Ctx := { bare with towerOps := [x] }
     (lone c).ctx? 0 = some c ∧ x.cycle = c.now ∧ c.now < 5 ∧ x.cell < 16) := by
  refine ⟨?_, by decide, ⟨rfl, rfl, rfl, by decide, by decide, rfl, rfl, rfl, rfl, rfl, rfl, rfl, rfl⟩, rfl, rfl, by decide, by decide⟩
  have q (i : Instr) : Quiet (atHead 0 i) := quiet_cells _ {} rfl rfl rfl
  simp only [List.mem_cons, List.not_mem_nil, or_false]
  rintro i (rfl | rfl | rfl | rfl | rfl | rfl) <;> exact ⟨starts0 _ rfl, q _, rfl, rfl⟩

theorem lane_zero (w i : Nat) : lane w 0#512 i = 0 := by rw [lane, BitVec.toNat_zero, Nat.zero_div, Nat.zero_mod]

/-- A command of queue 0 due now in a mode, with region 5 of the towers enabled: F32, its line at 0 and its adjoints at 64. -/
def adjCtx (i : Instr) (m : AdMode) (ptr lim : BitVec 23) (spill : U32) (x : Cell) : Ctx :=
  { (cellsAt 0 i x) with
    adj := { bare.adj with dregCtl := vset bare.adj.dregCtl 5 0x8000000100000001, tapeBase := 0x100, tapePtr := ptr, tapeLim := lim, tapeSpill := spill }
    eng := { bare.eng with q := vset bare.eng.q 0 [{ (entryAt i (some 1)) with admode := m }] } }

theorem adj_regions (i : Instr) (m : AdMode) (ptr lim : BitVec 23) (spill : U32) (x : Cell) :
    (adjCtx i m ptr lim spill x).adj.regions = [⟨5, false, 4, 0, 64, 64, 64⟩] := by simp only [adjCtx, Adjoint.regions]; decide

theorem adj_starts (i : Instr) (m : AdMode) (ptr lim : BitVec 23) (spill : U32) (x : Cell) (h : (engineOf i).isSome = true) :
    let c := adjCtx i m ptr lim spill x
    Starts (lone c) 0 0 c { (entryAt i (some 1)) with admode := m } :=
  starts_of 0 _ _ rfl rfl rfl rfl Nat.zero_lt_one (Nat.zero_le _) (Nat.zero_lt_succ 7) rfl h rfl rfl no_debug rfl

theorem adj_quiet (i : Instr) (m : AdMode) (ptr lim : BitVec 23) (spill : U32) (x : Cell) (h : x.badLines = []) : Quiet (adjCtx i m ptr lim spill x) :=
  quiet_cells _ x rfl rfl h

/-- A load in REV mode that reaches 16 elements; a store in FWD mode on a tape that has just room, and on one that has not; in REV mode with
nothing on the tape, spilled or not, with a record of another size, and with its own; a VSTR that pushes; and a write whose old bytes go to a
line of the tape that is written in its cycle. -/
theorem witness_TowerLinesMoveInTheirBankCycle_modes :
    (∀ i ∈ ([.vld h2 1 0 0, .vst h2 1 0 0] : List Instr), ∀ (m : AdMode) (ptr lim : BitVec 23) (spill : U32) (t : Bytes),
      let x : Cell := { tower := t }
      let e := { (entryAt i (some 1)) with admode := m }
      let c := adjCtx i m ptr lim spill x
      Starts (lone c) 0 0 c e ∧ Quiet c ∧ c.windows = [] ∧ (∀ g ∈ c.adj.regions, g.base % 64 = 0) ∧
        (∀ n, n < 16 → ∀ a ∈ partsOf e (c.cell n), a.off % a.len = 0) ∧ Meets_ c e ∧
        (adjoints c x h2 (partsOf e x)).length = 16 ∧ e.admode = m ∧ c.adj.tapePtr = ptr ∧ c.adj.tapeLim = lim ∧ c.adj.tapeSpill = spill ∧
        c.adj.tapeBase = 0x100) ∧
    (loadForm (.vld h2 1 0 0) = some (h2, 1, 6) ∧ storeForm (.vst h2 1 0 0) = some (h2, 1) ∧ spanOf (partsOf (entryAt (.vst h2 1 0 0) none) {}) = 80 ∧
      0x14F < 0x100 + 80 ∧ 0x100 + 80 ≤ 0x150) ∧
    (bytesAt [(0x102, (0x80 : Byte))] 0x100 8 % 2 ^ 23 = 0 ∧ bytesAt [(0x102, (0x80 : Byte))] 0x100 8 / 2 ^ 23 % 2 = 1 ∧ bytesAt [] 0x100 8 / 2 ^ 23 % 2 = 0) ∧
    (let i : Instr := .vstr h2 1 7 0 0
     let c := adjCtx i .fwd 0x100 0x150 0 (Cell.setRing {} 7 ring4)
     Starts (lone c) 0 0 c { (entryAt i (some 1)) with admode := .fwd } ∧ Quiet c ∧ c.adj.regions ≠ [] ∧ c.adj.tapePtr.toNat + 80 ≤ c.adj.tapeLim.toNat) ∧
    (let x : TowerOp := { ord := 0, rank := 100, cell := 0, cycle := 0, trap := false, unit := .q0, off := 0, act := .write 1 1, keep := some (0x20010, 64) }
     let y : TowerOp := { ord := 0, rank := 200, cell := 0, cycle := 0, trap := false, unit := .q0, off := 0x20000, act := .write 0 0xFFFFFFFFFFFFFFFF }
     let c : Ctx := { bare with towerOps := [x, y] }
     (lone c).ctx? 0 = some c ∧ x.off / 2 ^ 17 ≠ y.off / 2 ^ 17 ∧ (0x20010 + 0) / 64 * 64 = y.off ∧ (0xFFFFFFFFFFFFFFFF#64).getLsbD ((0x20010 + 0) % 64) = true ∧
       0x20010 + 64 ≤ 2 ^ 23 ∧ x.cycle = c.now ∧ y.cycle = c.now ∧ y.keep = none ∧ c.windows = [] ∧ Store.wf (c.cell 0).tower = true) := by
  refine ⟨?_, ⟨rfl, rfl, rfl, by decide, by decide⟩, by decide, ⟨adj_starts _ _ _ _ _ _ rfl, adj_quiet _ _ _ _ _ _ rfl, ?_, by decide⟩,
    rfl, by decide, by decide, by decide, by decide, rfl, rfl, rfl, rfl, rfl⟩
  · intro i hi m ptr lim spill t
    simp only [List.mem_cons, List.not_mem_nil, or_false] at hi
    have g : ∀ g ∈ (adjCtx i m ptr lim spill { tower := t }).adj.regions, g.base % 64 = 0 := by rw [adj_regions]; decide
    have a (o : Nat) (h : o = 0) : (regionAt (adjCtx i m ptr lim spill { tower := t }) o) = some ⟨5, false, 4, 0, 64, 64, 64⟩ := by
      rw [regionAt, adj_regions, h]; rfl
    have k : (adjoints (adjCtx i m ptr lim spill { tower := t }) { tower := t } h2 [⟨0, 0, 64, 0⟩]).length = 16 := by
      have b : activeBytes { tower := t } h2 = ~~~(0#64) := rfl
      simp only [adjoints, List.flatMap_cons, List.flatMap_nil, a 0 rfl, b]; decide
    have e : regionAt (adjCtx i m ptr lim spill { tower := t }) 0 ≠ none := by rw [a 0 rfl]; simp
    obtain rfl | rfl := hi <;>
      refine ⟨adj_starts _ _ _ _ _ _ rfl, adj_quiet _ _ _ _ _ _ rfl, rfl, g, ?_, ⟨⟨0, 0, 64, 0⟩, List.mem_singleton.2 rfl, e⟩, k, rfl, rfl, rfl, rfl, rfl⟩ <;>
      (rintro n - b hb; rw [List.mem_singleton.1 hb]; rfl)
  · rw [adj_regions]; simp

/-- A VLDR of a line that is there, of one still to come, and of another lap; a VSTR of the next line, of another, of a fill of a full ring,
and in REV with a region; and an atomic outside every region and inside one. -/
theorem witness_TowerLinesMoveInTheirBankCycle_rings :
    (∀ x ∈ ([[0, 1, 0, 0], [0xFFFFFFFC, 1, 0, 0], [7, 1, 0, 0]] : List (List U32)),
      let i : Instr := .vldr h2 1 7 0 0 0
      let c := cellsAt 0 i (Cell.setRing {} 7 { ring4 with tags := x })
      Starts (lone c) 0 0 c (entryAt i (some 1)) ∧ Quiet c ∧ ∀ n, n < 16 → tagFound c (entryAt i (some 1)) 7 n = x.getD 0 0) ∧
    ((0xFFFFFFFC : U32) = 0 - BitVec.ofNat 32 4 ∧ (7 : U32) ≠ 0 ∧ (7 : U32) ≠ 0 - BitVec.ofNat 32 4) ∧
    (let i : Instr := .vstr h2 1 7 0 0
     let c := cellsAt 0 i (Cell.setRing {} 7 ring4)
     Starts (lone c) 0 0 c (entryAt i (some 1)) ∧ Quiet c ∧ ∀ n, n < 16 → ((c.cell n).ring 7).conf = true ∧ ((c.cell n).ring 7).opened = 0 ∧
       ¬ ((c.cell n).ring 7).count ≤ (((c.cell n).ring 7).nexttag - ((c.cell n).ring 7).head).toNat ∧ ((c.cell n).ring 7).fills = []) ∧
    (let i : Instr := .vstr h2 1 7 1 0
     let c := cellsAt 0 i (Cell.setRing {} 7 ring4)
     Starts (lone c) 0 0 c (entryAt i (some 1)) ∧ ((c.cell 0).ring 7).opened ≠ 1) ∧
    (let i : Instr := .vstr h2 1 7 0 0
     let c := cellsAt 0 i (Cell.setRing {} 7 ringFull)
     Starts (lone c) 0 0 c (entryAt i (some 1)) ∧ ((c.cell 0).ring 7).count ≤ (((c.cell 0).ring 7).nexttag - ((c.cell 0).ring 7).head).toNat) ∧
    (let i : Instr := .vstr h2 1 7 0 0
     let e : QEntry := { (entryAt i (some 1)) with admode := .rev }
     let c : Ctx := { (cellsAt 0 i (Cell.setRing {} 7 ring4)) with
       adj := { bare.adj with dregCtl := vset bare.adj.dregCtl 5 0x8000000100000000 }, eng := { bare.eng with q := vset bare.eng.q 0 [e] } }
     Starts (lone c) 0 0 c e ∧ e.admode = .rev ∧ ∃ x ∈ c.adj.regions, x.global = false) ∧
    (let i : Instr := .vaadd h2 1 2 3 4
     Starts (lone (atHead 0 i)) 0 0 (atHead 0 i) (entryAt i (some 1)) ∧ Quiet (atHead 0 i) ∧ (atHead 0 i).windows = [] ∧
       (atomicForm false i).isSome = true ∧ (entryAt i (some 1)).admode = .off) ∧
    (let i : Instr := .vafadd h2 1 2 3 8
     let e : QEntry := { (entryAt i (some 1)) with admode := .fwd }
     let c : Ctx := { (atHead 0 i) with
       adj := { bare.adj with dregCtl := vset bare.adj.dregCtl 5 0x8000000100000000 }, eng := { bare.eng with q := vset bare.eng.q 0 [e] } }
     Starts (lone c) 0 0 c e ∧ (atomicForm e.ftz i).isSome = true ∧ e.admode ≠ .off ∧ (c.cell 0).rv 2 = 0#512 ∧ lane 32 0#512 0 % 2 ^ 23 / 4 * 4 = 0 ∧
       active (c.cell 0) h2 32 0 = true ∧ ∃ x ∈ c.adj.regions, x.global = false ∧ x.base = 0 ∧ 0 < x.len) := by
  have st (i : Instr) (x : Cell) (h : (engineOf i).isSome = true) : Starts (lone (cellsAt 0 i x)) 0 0 (cellsAt 0 i x) (entryAt i (some 1)) :=
    starts_of 0 _ _ rfl rfl rfl rfl Nat.zero_lt_one (Nat.zero_le _) (Nat.zero_lt_succ 7) rfl h rfl rfl no_debug rfl
  refine ⟨?_, by decide, ⟨st _ _ rfl, quiet_cells _ _ rfl rfl rfl, ?_⟩, ⟨st _ _ rfl, by decide⟩, ⟨st _ _ rfl, by decide⟩,
    ⟨starts_of 0 _ _ rfl rfl rfl rfl (by decide) (by decide) (by decide) rfl rfl rfl rfl (by decide) rfl, rfl, ⟨5, false, 4, 0, 64, 0, 64⟩, by decide, rfl⟩,
    ⟨starts0 _ rfl, quiet_cells _ {} rfl rfl rfl, rfl, rfl, rfl⟩,
    starts_of 0 _ _ rfl rfl rfl rfl (by decide) (by decide) (by decide) rfl rfl rfl rfl (by decide) rfl, rfl, by decide, rfl,
      by rw [lane_zero] <;> decide, rfl, ⟨5, false, 4, 0, 64, 0, 64⟩, by decide, rfl, rfl, by decide⟩
  · intro x _
    refine ⟨st _ _ rfl, quiet_cells _ _ rfl rfl rfl, fun n hn => ?_⟩
    rw [tagFound, cellsAt_cell _ _ _ n hn]; rfl
  · intro n hn; rw [cellsAt_cell _ _ _ n hn]; decide

/-- A clear and a column command. -/
theorem witness_ClearsAndColumnCommandsStart :
    (let i : Instr := .mzero h2 63 63
     Starts (lone (atHead 1 i)) 0 1 (atHead 1 i) (entryAt i (some 1))) ∧
    (let i : Instr := .cred h2 1 3 0
     Starts (lone (atHead 3 i)) 0 3 (atHead 3 i) (entryAt i (some 1)) ∧
       (entryAt i (some 1)).instr ∈ ([.cfill h2 1 3 0, .cdrain h2 1 3 0, .cpair h2 1 3 0, .cgath h2 1 3 0, .ccopy h2 1 3 0, .cred h2 1 3 0] : List Instr)) := by
  refine ⟨head_starts 1 (by decide) _ rfl, head_starts 3 (by decide) _ rfl, ?_⟩
  simp [entryAt]

/-- A ring of four slots of 64 lines. -/
def ring64 : Ring := { ring4 with size := 64 }

/-- A format word of F32, and one that no row takes. -/
def wordF32 : U64 := 0x8880000000000000
def wordBad : U64 := 0x1230000000000000

/-- A product of ring 0 and ring 1 in tile 0, of 16 rows and 16 columns. -/
def product1 : Instr := .mma h2 0 0 1 0 0 true false false false

theorem takes_f32 : Takes wordF32 8#4 0 := by
  refine ⟨.inl ⟨rfl, .inl ⟨⟨?_, ?_⟩, ?_⟩⟩, ?_, ?_, ?_, ?_, ?_, ?_⟩ <;> decide

theorem takes_none (b : BitVec 4) : ¬ Takes wordBad b 0 := by
  have e : typeAcc wordBad = 3#4 := by decide
  simp [Takes, RowOf, e]

/-- A context in which a command of queue 1 starts, with rings 0 and 1 and a format queue. -/
def matAt (i : Instr) (r : Ring) (ws : List U64) : Ctx :=
  { (cellsAt 1 i ((Cell.setRing {} 0 r).setRing 1 r)) with fmt := { bare.fmt with queue := ws } }

theorem mat_starts (i : Instr) (r : Ring) (ws : List U64) (h : (engineOf i).isSome = true) :
    Starts (lone (matAt i r ws)) 0 1 (matAt i r ws) (entryAt i (some 1)) :=
  starts_of 1 _ _ rfl rfl rfl rfl Nat.zero_lt_one (Nat.zero_le _) (Nat.zero_lt_succ 7) rfl h rfl rfl no_debug rfl

theorem mat_rings (i : Instr) (r : Ring) (ws : List U64) (n m : Nat) : ((matAt i r ws).cell n).ring m = r ∨ ((matAt i r ws).cell n).ring m = {} := by
  rcases replicate_get 16 ((Cell.setRing {} 0 r).setRing 1 r) {} n with h | h
  · rw [show (matAt i r ws).cell n = _ from h]
    rcases set_get ((List.replicate 8 ({} : Ring)).set 0 r) 1 r {} m with g | g
    · exact .inl g
    · rcases set_get (List.replicate 8 ({} : Ring)) 0 r {} m with k | k
      · exact .inl (g.trans k)
      · exact .inr ((g.trans k).trans ((replicate_get 8 ({} : Ring) {} m).elim (·) (·)))
  · rw [show (matAt i r ws).cell n = _ from h]
    exact .inr ((replicate_get 8 ({} : Ring) {} m).elim (·) (·))

/-- A product with slots that are too small, without a format word, with a word that it does not take, with tags of another lap and still to
come, and one that starts; and its last operand line. -/
theorem witness_ClearsAndColumnCommandsStart_products :
    (∀ ws, Starts (lone (matAt product1 ring64 ws)) 0 1 (matAt product1 ring64 ws) (entryAt product1 (some 1)) ∧ Quiet (matAt product1 ring64 ws) ∧
      (∀ n, ((matAt product1 ring64 ws).cell n).badSlots = []) ∧
      (∀ n m, n < 16 → (((matAt product1 ring64 ws).cell n).ring m).conf = true →
        (((matAt product1 ring64 ws).cell n).ring m).hslot < (((matAt product1 ring64 ws).cell n).ring m).count)) ∧
    productOf product1 = some ⟨h2, 0, 0, 0, 1, 16, 16, true, false, false, false, false⟩ ∧
    (Short (matAt product1 ring4 []) 0 16 ∧ ¬ Short (matAt product1 ring64 []) 0 16 ∧ ¬ Short (matAt product1 ring64 []) 1 16) ∧
    (Takes wordF32 (typeB wordF32) 0 ∧ ¬ Takes wordBad (typeB wordBad) 0 ∧ TagThere (matAt product1 ring64 [wordF32]) 5 1 ∧
      TagWrong (matAt product1 { ring64 with tags := [0, 7] } [wordF32]) 5 1 ∧
      ¬ TagThere (matAt product1 { ring64 with tags := [0, 0xFFFFFFFD] } [wordF32]) 5 1 ∧
      ¬ TagWrong (matAt product1 { ring64 with tags := [0, 0xFFFFFFFD] } [wordF32]) 5 1) ∧
    (let x : TowerOp := { ord := 0, rank := 0, cell := 3, cycle := 1, trap := false, unit := .q1, off := 64, act := .read 64 (.operand 1 15) }
     let f : Flight := { ord := 0, trap := false, start := 0, entry := entryAt product1 (some 0), fmt := wordF32, active := List.replicate 16 true,
                         lines := [], olds := [] }
     let c : Ctx := { (atHead 1 product1) with towerOps := [x], flights := [f], eng := bare.eng }
     (lone c).ctx? 0 = some c ∧ x.cycle = c.now ∧ x.cell < 16 ∧ x.off % 64 = 0 ∧ x.ord = f.ord ∧ c.windows = [] ∧ c.raised = [] ∧ c.glob.queue = [] ∧
       c.issue.leaving = false ∧ f.active.length = 16 ∧ c.now < f.start + 16 * 16 / 16 + 5 ∧ c.landings = []) := by
  have eq0 (r : Ring) (ws : List U64) (k : Nat) (hk : k < 16) : ((matAt product1 r ws).cell k).ring 0 = r :=
    congrArg (fun x : Cell => x.ring 0) (same_cell ((Cell.setRing {} 0 r).setRing 1 r) k hk)
  have eq1 (r : Ring) (ws : List U64) (k : Nat) (hk : k < 16) : ((matAt product1 r ws).cell k).ring 1 = r :=
    congrArg (fun x : Cell => x.ring 1) (same_cell ((Cell.setRing {} 0 r).setRing 1 r) k hk)
  refine ⟨fun ws => ⟨mat_starts _ _ _ rfl, quiet_cells _ _ rfl rfl rfl, slots_cells _ _ rfl rfl, ?_⟩, rfl, ⟨?_, ?_, ?_⟩, ⟨?_, ?_, ?_, ?_, ?_, ?_⟩,
    rfl, rfl, by decide, by decide, rfl, rfl, rfl, rfl, rfl, rfl, by decide, rfl⟩
  · intro n m _ h
    rcases mat_rings product1 ring64 ws n m with g | g
    · rw [g]; decide
    · rw [g] at h; exact absurd h (by decide)
  · exact ⟨0, by decide, .inr (by rw [eq0 _ _ 0 (by decide)]; decide)⟩
  · rintro ⟨n, hn, h⟩; rw [eq0 _ _ n hn] at h; exact absurd h (by decide)
  · rintro ⟨n, hn, h⟩; rw [eq1 _ _ n hn] at h; exact absurd h (by decide)
  · exact takes_f32
  · exact takes_none _
  · simp only [TagThere, tagAt]; rw [eq1 _ _ 5 (by decide)]; decide
  · simp only [TagWrong, TagThere, tagAt]; rw [eq1 _ _ 5 (by decide)]; decide
  · simp only [TagThere, tagAt]; rw [eq1 _ _ 5 (by decide)]; decide
  · simp only [TagWrong, TagThere, tagAt]; rw [eq1 _ _ 5 (by decide)]; decide

/-- A format word of I8 products with the checksum on. -/
def wordChk : U64 := 0x0040008000000000

theorem sum_zero (n : Nat) (f : Nat → Rat) (h : ∀ i, f i = 0) : ((List.range n).map f).sum = 0 := by
  rw [show f = fun _ => 0 from funext h]
  induction n with
  | zero => rfl
  | succ n ih => rw [List.range_succ, List.map_append, List.sum_append, ih]; simp [Rat.add_zero]

/-- A checksum's verdict, of either mode; a product whose first column fails, its operands zero and slot 0 grown by 1; and a route that is
congested, or is not. -/
theorem witness_ClearsAndColumnCommandsStart_checks :
    (∀ count, let l : Landing := ⟨0, .q1, 1, false, .checksum 5 count, .zero⟩
      let c : Ctx := { bare with time := { bare.time with ptime := 1 }, landings := [l] }
      (lone c).ctx? 0 = some c ∧ Idle { c with landings := [] } ∧ c.raised = [] ∧ c.trap.tctx = false ∧ c.issue.leaving = false ∧
        l.due = c.time.ptime) ∧
    (let o : Product := ⟨h2, 0, 0, 0, 1, 16, 16, true, false, false, false, false⟩
     Takes wordChk (typeB wordChk) 0 ∧ wordChk.getLsbD 39 = true ∧
       LineFails o wordChk [] 0 false 0 (fun k => if k = 0 then 1 else 0) (fun _ => 0) 0x3A800000) ∧
    ((lone bare).net = [] ∧ passes 13 [3] = [(3, 13)] ∧ ∃ x ∈ ([(3, 32501)] : List (Nat × Nat)), x.1 = 3 ∧ 2500 * 13 < x.2) := by
  refine ⟨fun _ => ⟨rfl, ⟨rfl, rfl, rfl, rfl, rfl, rfl⟩, rfl, rfl, rfl, rfl⟩, ⟨?_, by decide, ?_⟩, rfl, rfl, _, .head _, rfl, by decide⟩
  · refine ⟨.inl ⟨rfl, ?_⟩, ?_, ?_, ?_, ?_, ?_, ?_⟩ <;> decide
  · have a : ∀ n i k, factorA wordChk [] n i k = (.real 0 false, false) := by
      intro n i k
      have e : scaleMode wordChk ≠ 2 := by decide
      rw [factorA, if_neg e]
      exact congrArg (fun x => (value (typeA wordChk) (wordChk.getLsbD 38) x, false)) (lane_zero _ _)
    have b : ∀ (o : Product) n i k, factorB o wordChk [] n i k = (.real 0 false, false) := by
      intro o n i k
      have e : scaleMode wordChk ≠ 2 := by decide
      have e1 : scaleMode wordChk ≠ 1 := by decide
      simp only [factorB, if_neg e, if_neg e1]
      exact congrArg (fun x => (value (typeB wordChk) (wordChk.getLsbD 38) x, false)) (lane_zero _ _)
    rw [LineFails]
    simp only [a, b, ite_self]
    rw [if_pos (by decide)]
    refine ⟨1, 0, ?_, ?_, by decide⟩
    · have e (i : Nat) : ((match value (typeAcc wordChk) (wordChk.getLsbD 38) (if (if false = true then 0 * 16 + i else i * 16 + 0) = 0 then 1 else 0) with
          | .real v _ => v | _ => 0) - match value (typeAcc wordChk) (wordChk.getLsbD 38) 0 with | .real v _ => v | _ => 0) = if i = 0 then (1 : Rat) else 0 := by
        cases i with
        | zero =>
          show ((1 : Int) : Rat) - ((0 : Int) : Rat) = 1
          rw [← Rat.intCast_sub]; rfl
        | succ i => 
          rw [if_neg (by simp), if_neg (by simp)]
          exact Rat.sub_self
      refine Eq.trans ?_ (congrArg (fun f => ((List.range 16).map f).sum) (funext e)).symm
      simp [List.range, List.range.loop, Rat.add_zero]
    refine (sum_zero _ _ fun q => ?_).symm
    exact Rat.mul_zero _

/-- MTOV and MTOT; the movement commands; and a motif call without a motif, barred, and of a loaded motif. -/
theorem witness_ClearsAndColumnCommandsStart_moves :
    (let i : Instr := .mtov h2 63 1 63 9
     let c : Ctx := { (atHead 1 i) with fmt := { bare.fmt with word := wordF32 } }
     Starts (lone c) 0 1 c (entryAt i (some 1)) ∧ anyType 9 = some 8 ∧ typeAcc c.fmt.word = 8#4) ∧
    (let i : Instr := .mtot h2 0 0 0 0 true true
     (∀ r ∈ [ring64, { ringFull with size := 64 }, ring4, {}], ∀ ws,
       Starts (lone (matAt i r ws)) 0 1 (matAt i r ws) (entryAt i (some 1)) ∧ ∀ n, n < 16 → ((matAt i r ws).cell n).ring 0 = r) ∧
     Takes wordF32 (typeA wordF32) 0 ∧ ¬ Takes wordBad (typeA wordBad) 0 ∧ 16 * 16 * 32 ≤ 512 * ring64.size ∧ 512 * ring4.size < 16 * 16 * 32) ∧
    (∀ i ∈ ([.vshift h2 3 1 2 2 4, .vxsend h2 1 2 4, .vxrecv h2 3 1 4, .vbord h2 3 1 4, .vjoin h2 3 1 2] : List Instr),
      Starts (lone (atHead 2 i)) 0 2 (atHead 2 i) (entryAt i (some 1))) ∧
    (let own := placeOf bare.id.panel
     bare.tx ≤ own.2 ∧ bare.ty ≤ own.1 ∧ own.2 + bare.width ≤ 16 + bare.tx ∧ own.1 + bare.height ≤ 16 + bare.ty) ∧
    (WordBad 1 0x40000 ∧ WordBad 1 0x18000 ∧ WordBad 1 0x1000 ∧ WordBad 1 1 ∧ ¬ WordBad 1 0x8F00 ∧ ¬ WordBad 256 0x300FF) ∧
    (let i : Instr := .mot ⟨true, 2, 0, false⟩ 63 1 2 3 false 4 5
     let c : Ctx := { (atHead 0 i) with motif := { bare.motif with slots := vset bare.motif.slots 7 (.loaded motif1), bind := vset bare.motif.bind 63 (some 7) } }
     Starts (lone (atHead 0 i)) 0 0 (atHead 0 i) (entryAt i (some 1)) ∧ vget none (atHead 0 i).motif.bind 63 = none ∧
       Starts (lone c) 0 0 c (entryAt i (some 1)) ∧ vget none c.motif.bind 63 = some 7 ∧ vget .empty c.motif.slots 7 = .loaded motif1 ∧
       motif1.ein = false ∧ (∀ u ∈ motif1.units, UnitOk u) ∧ UnitOk { op := 10, sub := 22, ready := 0, imm := 0, src := (0x40, 0x41, 0x48) }) := by
  refine ⟨⟨starts_of 1 _ _ rfl rfl rfl rfl (by decide) (by decide) (by decide) rfl rfl rfl rfl (by decide) rfl, rfl, rfl⟩,
    ⟨fun r _ ws => ⟨mat_starts _ _ _ rfl, fun n hn => congrArg (fun x : Cell => x.ring 0) (same_cell ((Cell.setRing {} 0 r).setRing 1 r) n hn)⟩, ?_, ?_, ?_, ?_⟩,
    ?_, by decide, ?_, starts0 _ rfl, rfl,
    starts_of 0 _ _ rfl rfl rfl rfl (by decide) (by decide) (by decide) rfl rfl rfl rfl (by decide) rfl, rfl, rfl, rfl, by simp [motif1], ?_⟩
  · exact takes_f32
  · exact takes_none _
  · decide
  · decide
  · simp only [List.mem_cons, List.not_mem_nil, or_false]
    rintro i (rfl | rfl | rfl | rfl | rfl) <;> exact head_starts 2 (by decide) _ rfl
  · simp only [WordBad]; decide
  · simp only [UnitOk]; decide

/-- A global access that has been translated, from s1 to s2. -/
def access1 (k : GKind) (d : Option Reg) : GAccess :=
  { id := 7, ord := 0, trap := false, kind := k, va := 0x10000, width := 8, data := 5, expect := 0, dest := d, acquire := false, release := false,
    scope := 0, walk := .done 0x2000010000 false false, ready := 0, due := 11, pc := 0x4000000000, performed := false, value := none, returned := false }

/-- The bare context with a wait. -/
def waiting (w : Wait) : Ctx := { bare with issue := { bare.issue with wait := w } }

/-- A hold at HOLDMAX and beyond it; the waits, each with its condition false and true; passes at the first and the last; a motif image that
came and one that failed, and one with too few units; a load and a store. -/
theorem witness_HoldsWaitsPassesAndReturns :
    ((let c : Ctx := { bare with time := { bare.time with held := 257, holdmax := 256, holding := 0x2A } }
      (lone c).ctx? 0 = some c ∧ bit c.time.holding 1 = true ∧ c.trap.tctx = false ∧ c.time.holdmax.toNat < c.time.held) ∧
     (let c : Ctx := { bare with time := { bare.time with held := 256, holdmax := 256 } }
      (lone c).ctx? 0 = some c ∧ c.time.held ≤ c.time.holdmax.toNat)) ∧
    ((lone (waiting (.until 0))).ctx? 0 = some (waiting (.until 0)) ∧ (lone (waiting (.waitev 8))).ctx? 0 = some (waiting (.waitev 8)) ∧
     (waiting (.waitev 8)).latch.bits &&& 8#4 = 0#4 ∧
     (let c : Ctx := { (waiting (.waitev 8)) with latch := { preempt := true } }
      c.issue.wait = .waitev 8 ∧ c.latch.bits &&& 8#4 ≠ 0#4) ∧
     (let c : Ctx := { (withRing 7 ringFull) with issue := { bare.issue with wait := .waitf 7 4 } }
      (lone c).ctx? 0 = some c ∧ ∀ k, k < 16 → 4 ≤ ((c.cell k).ring 7).filled) ∧
     (let c : Ctx := { (withRing 7 ringEmpty) with issue := { bare.issue with wait := .waite 7 4 } }
      (lone c).ctx? 0 = some c ∧ ∀ k, k < 16 → 4 ≤ ((c.cell k).ring 7).free)) ∧
    ((lone (waiting (.flag 0 0 0 false))).ctx? 0 = some (waiting (.flag 0 0 0 false)) ∧
     ((lone bare).flag bare 0 - 0x80000001#32).toNat = 2 ^ 31 - 1 ∧ ((lone bare).flag bare 0 - 0x80000000#32).toNat = 2 ^ 31 ∧
     (lone (waiting (.wake 1))).ctx? 0 = some (waiting (.wake 1)) ∧ ¬ 1 ≤ (waiting (.wake 1)).now ∧ 0 ≤ (waiting (.wake 0)).now ∧
     (lone (waiting (.twait 0))).ctx? 0 = some (waiting (.twait 0)) ∧ (0 : Int) ≤ (waiting (.twait 0)).tcyc) ∧
    ((let l : LoopState := { loop3 with pending := true, pass := 5 }
      let c : Ctx := { bare with loop := some l }
      (lone c).ctx? 0 = some c ∧ l.pending = true ∧ c.preempt.req = false ∧ l.pass < l.passes ∧ l.stages ≤ 7) ∧
     (let l : LoopState := { loop3 with pending := true, pass := 6 }
      let c : Ctx := { bare with loop := some l }
      (lone c).ctx? 0 = some c ∧ l.draining = false ∧ l.passes ≤ l.pass)) ∧
    (∀ l ∈ ([{ slot := 7, addr := 0, left := 0, ord := 0, pc := 0, trap := false, failed := true }, { slot := 0, addr := 0, left := 0, ord := 0, pc := 0, trap := false, got := [(0, 0)], asked := 1 },
        { slot := 0, addr := 0, left := 0, ord := 0, pc := 0, trap := false, got := [(0, 49#64 * 0x40000)], asked := 1 }] : List Loading),
      let c : Ctx := { bare with motif := { bare.motif with load := some l } }
      (lone c).ctx? 0 = some c ∧ c.motif.load = some l ∧ l.left = 0 ∧ l.slot < 8 ∧ (l.asked ≤ l.got.length ∨ l.failed = true)) ∧
    access1 (.load true) (some 2) ∈ [access1 (.load true) (some 2), access1 .store none] ∧ (access1 (.load true) (some 2)).dest = some 2 ∧
    (access1 .store none).release = false ∧
    (∀ a ∈ [access1 (.load true) (some 2), access1 .store none],
      let c : Ctx := { bare with glob := { bare.glob with queue := [a] } }
      (lone c).ctx? 0 = some c ∧ a.performed = false ∧ a.ready ≤ (lone c).gcyc ∧ a.walk = .done 0x2000010000 false false ∧
        (lone c).corrupt false 0x2000010000 a.width = false ∧ (∀ b ∈ c.glob.queue, ¬ Precedes c b a false 0x2000010000)) ∧
    (let a := access1 .store none
     let b : GAccess := { (access1 (.load true) none) with id := 6, ord := 3, walk := .walking }
     let a' : GAccess := { a with ord := 4 }
     let c : Ctx := { bare with glob := { bare.glob with queue := [b, a'] } }
     (lone c).access? 0 7 = some a' ∧ a'.performed = false ∧ a'.ready ≤ (lone c).gcyc ∧ ∃ x ∈ c.glob.queue, Precedes c x a' false 0x2000010000) ∧
    (let a := access1 .store none
     let c : Ctx := { bare with glob := { bare.glob with queue := [a] } }
     (lone c).access? 0 7 = some a ∧ Store.wf (lone c).hbm = true ∧ Store.wf (lone c).hostMem = true) := by
  refine ⟨⟨⟨rfl, rfl, rfl, by decide⟩, rfl, by decide⟩, ⟨rfl, rfl, by decide, ⟨rfl, by decide⟩, ⟨rfl, ?_⟩, rfl, ?_⟩,
    ⟨rfl, by decide, by decide, rfl, by decide, by decide, rfl, by decide⟩, ⟨⟨rfl, rfl, rfl, by decide, by decide⟩, rfl, rfl, by decide⟩, ?_, by decide, rfl, rfl, ?_,
    ⟨rfl, rfl, by decide, _, .head _, by decide, rfl, ?_, .inr (.inr (.inr (.inr ⟨rfl, fun pb h y e => by cases e⟩)))⟩, rfl, rfl, rfl⟩
  · intro k hk; exact (by rw [same_cell _ k hk]; decide : 4 ≤ (((withCell (Cell.setRing {} 7 ringFull)).cell k).ring 7).filled)
  · intro k hk; exact (by rw [same_cell _ k hk]; decide : 4 ≤ (((withCell (Cell.setRing {} 7 ringEmpty)).cell k).ring 7).free)
  · intro l h
    simp only [List.mem_cons, List.not_mem_nil, or_false] at h
    rcases h with rfl | rfl | rfl <;> exact ⟨rfl, rfl, rfl, by decide, by decide⟩
  · intro a h
    simp only [List.mem_cons, List.not_mem_nil, or_false] at h
    rcases h with rfl | rfl <;>
      exact ⟨rfl, rfl, by decide, rfl, rfl, fun b hb h => by cases List.mem_singleton.1 hb; exact absurd h.1 (Nat.lt_irrefl _)⟩
  · rintro (⟨h, -⟩ | h | ⟨h, -⟩) <;> cases h

/-- The translation of the first 2^30 virtual addresses, to physical 2^30 on, readable and writable. -/
def wide : TlbEntry := ⟨false, 0, 2 ^ 30, 2 ^ 30, 0x40000205⟩

/-- The image of R346's example, and with READY one later. -/
def imageOf (ready : Nat) (k : Nat) : U64 :=
  if k = 0 then 0x0000000000046E01 else if k = 1 then 0x4500 else if k = 2 then BitVec.ofNat 64 (0x41434003 + ready * 2 ^ 32) else 0

/-- One access of each kind, alone; a wait on a flag, alone, performed, and behind an acquire; a valid image and one that is not; a queue that
is not fed, full, and with room; and a descriptor that is due. -/
theorem witness_HoldsWaitsPassesAndReturns_returns :
    (∀ k ∈ ([.atomic 9, .finc 3, .fset 3, .fread 3, .fwait 3, .rcfg 7, .image, .launch 63] : List GKind),
      let a := access1 k none
      let c : Ctx := { bare with glob := { bare.glob with queue := [a] } }
      (lone c).access? 0 7 = some a ∧ a.performed = false ∧ a.ready ≤ (lone c).gcyc ∧ Store.wf (lone c).hbm = true ∧
        Store.wf (lone c).hostMem = true ∧ Store.wf ((lone c).sheet c.flagHome).flags = true ∧ c.flagHome < 8 ∧
        a.walk = .done 0x2000010000 false false ∧ a.release = false ∧ a.dest = none ∧ (lone c).corrupt false 0x2000010000 a.width = false ∧
        c.imageWatched a = false ∧ a.data ≠ 1#64 ∧ c.committed = false ∧ (lone c).writes = []) ∧
    (let w := access1 (.fwait 3) none
     let c (q : List GAccess) : Ctx := { bare with issue := { bare.issue with wait := .flag 3 5 0 false }, glob := { bare.glob with queue := q } }
     let b := { access1 .store none with acquire := true }
     lowHalf w.data = 5 ∧ w.trap = (c []).trap.tctx ∧ 2 ^ 31 ≤ ((lone (c [w])).flag (c [w]) 3 - 5).toNat ∧
       { w with performed := true }.performed = true ∧ (¬ Stands (c [b, { w with ord := 1 }]) b) ∧ b.ord < { w with ord := 1 }.ord) ∧
    (ImageOk (imageOf 3) ∧ ¬ ImageOk (imageOf 4)) ∧
    (let h : HostQueue := { ctl := 5 }
     let full : HostQueue := { ctl := 5, tail := 16 }
     h.ctl.getLsbD 0 = true ∧ h.ctl.getLsbD 2 = true ∧ (h.tail - h.head).toNat < 2 ^ (slice h.ctl 4 4 + 4) ∧
       ¬ (full.tail - full.head).toNat < 2 ^ (slice full.ctl 4 4 + 4) ∧ ({} : HostQueue).ctl.getLsbD 0 = false ∧
       tlbFind [wide] false (h.base.toNat + 64 * (h.tail.toNat % 16)) = some wide ∧ wide.leaf.getLsbD 2 = true) ∧
    (let a := { access1 (.rcfg 7) none with performed := true, value := some 0x0000000000800040 }
     let c : Ctx := { bare with glob := { bare.glob with queue := [a] }, time := { bare.time with ptime := 12 } }
     (lone c).ctx? 0 = some c ∧ Idle { c with glob := { c.glob with queue := [] } } ∧ c.raised = [] ∧ c.issue.leaving = false ∧ a.due < c.now) := by
  refine ⟨?_, ⟨by decide, rfl, by decide, rfl, ?_, by decide⟩, ⟨?_, ?_⟩, by decide, rfl, ⟨rfl, rfl, rfl, rfl, rfl, rfl⟩, rfl, rfl, by decide⟩
  · intro k h
    simp only [List.mem_cons, List.not_mem_nil, or_false] at h
    rcases h with rfl | rfl | rfl | rfl | rfl | rfl | rfl | rfl <;>
      exact ⟨rfl, rfl, by decide, rfl, rfl, rfl, by decide, rfl, rfl, rfl, by decide, rfl, by decide, rfl, rfl⟩
  · rintro (⟨h, -⟩ | h | ⟨h, -⟩) <;> cases h
  · refine ⟨by decide, by decide, by decide, by decide, by decide, by decide, by decide, ?_, ?_, by decide⟩
    · intro k hk
      have : k = 0 := Nat.lt_one_iff.1 (show k < 1 from hk)
      subst this
      refine ⟨by decide, by decide, by decide, by decide, 3, 3, 0, fun _ => 0, by decide, fun j h g => absurd g (Nat.not_lt.2 h), ?_, ⟨0, by decide, rfl⟩, by decide⟩
      intro j hj
      match j, hj with
      | 0, _ => exact ⟨.input 0 (by decide) (by decide), Nat.le_refl _⟩
      | 1, _ => exact ⟨.scalar rfl, Nat.le_refl _⟩
      | 2, _ => exact ⟨.input 1 (by decide) (by decide), Nat.le_refl _⟩
    · rintro y (rfl | rfl)
      · exact ⟨_, .unit 0 (by decide) (by decide), by decide⟩
      · exact ⟨_, .zero, by decide⟩
  · rintro ⟨-, -, -, -, -, -, -, h, -⟩
    obtain ⟨-, -, -, -, ops, lat, top, t, e, -, r, ⟨j, hj, rfl⟩, ready⟩ := h 0 (by decide)
    cases (show (3, 3) = (ops, lat) from Option.some.inj e)
    have q := (r j hj).1
    have z (x y : Nat) (q : ReadyAt 2 true (fun k => (unitAt (imageOf 4) k).ready) 0 true x y) : 0x30 ≤ x → y = 0 := by
      cases q <;> intro h <;> first | rfl | omega
    have : t j = 0 := by
      match j, hj, q with
      | 0, _, q => exact z _ _ q (by decide)
      | 1, _, q => exact z _ _ q (by decide)
      | 2, _, q => exact z _ _ q (by decide)
    rw [this] at ready
    exact absurd ready (by decide)

/-- A column fill of one line at a tower offset, its line still to be written, or written in wall cycle 0. -/
def fillOf (ls : List (Nat × Line)) (w : Option Nat) : Fill := { tag := 2, slot := 2, ord := none, lines := ls, written := w, discarded := false }

/-- HBM with page tables that map the first 192 MiB of virtual addresses to physical 2^30 on, readable and writable. -/
def tables : Bytes :=
  [(0, 0x100003), (0x100000, 0x102003), (0x102000, 0x40000205), (0x102008, 0x40000205), (0x102010, 0x40000205)].foldl
    (fun m x => Store.setNum m x.1 8 x.2) []

theorem tables_walk (s : State) (h : s.hbm = tables) (hw : s.writes = []) (va : Nat) (hv : va < 3 * 2 ^ 26) :
    s.walk 0 false va = .leaf 0 (2 ^ 30) (2 ^ 30) 0x40000205 := by
  have rd (a : Nat) : s.readNum (0 / 2) .steward false a 8 = Store.num tables a 8 := by
    simp only [State.readNum, State.readBytes, State.readByte, hw, byteAfter, State.memByte, h, Store.num]
    rfl
  have h0 : va / 2 ^ 46 % 1024 = 0 := by omega
  have h1 : va / 2 ^ 36 % 1024 = 0 := by omega
  have h2 : va / 2 ^ 26 % 1024 < 3 := by omega
  have hb : va / 2 ^ 30 * 2 ^ 30 = 0 := by omega
  have e0 : BitVec.ofNat 64 (Store.num tables 0 8) = 0x100003#64 := by decide
  have e1 : BitVec.ofNat 64 (Store.num tables 0x100000 8) = 0x102003#64 := by decide
  have e2 : ∀ k, k < 3 → BitVec.ofNat 64 (Store.num tables (0x102000 + 8 * k) 8) = 0x40000205#64 := by decide
  have f1 : fieldOf 0x100003#64 13 43 * 8192 = 0x100000 := by decide
  have f2 : fieldOf 0x102003#64 13 43 * 8192 = 0x102000 := by decide
  simp only [State.walk, rootOf, walkFrom, rd, Bool.false_eq_true, if_false, Nat.reduceMul, Nat.reduceAdd, Nat.reduceSub, h0, h1, Nat.mul_zero, Nat.add_zero,
    e0, f1, e1, f2, e2 _ h2]
  rw [if_neg (by decide), if_pos (by decide), if_neg (by decide), if_neg (by decide), if_pos (by decide), if_neg (by decide), if_neg (by decide),
    if_neg (by decide), if_neg (by decide)]
  have l : leafSize 0x40000205#64 2 = 2 ^ 30 := by decide
  simp only [l, hb]
  rfl

/-- A slot of state n for one panel, with its save area at virtual address 0 and nothing else set. -/
def slotOf (n : Nat) : BindSlot := { words := vset (Vector.replicate 8 0#64) 0 (BitVec.ofNat 64 (16 * n)), task := some { bind := [], packet := none, panels := [0] } }

/-- The package with slot 0, and with that translation in the unit of sheet 0. -/
def withSlot (s : State) (b : BindSlot) : State := { s with slots := vset s.slots 0 b, sheets := vset s.sheets 0 { tlb := [wide] } }

theorem wide_area (s : State) (h : s.sheet 0 = { tlb := [wide] }) (k : Nat) (hk : k ≤ 3072) : ∃ ps, s.areaPages 0 k = (some ps, s) := by
  induction k with
  | zero => exact ⟨[], rfl⟩
  | succ k ih =>
    obtain ⟨ps, e⟩ := ih (by omega)
    have hit : tlbFind [wide] false (0 + 65536 * k) = some wide := by
      simp [tlbFind, wide]; omega
    have tr : s.translate 0 false (0 + 65536 * k) = (.leaf (2 ^ 30 + (0 + 65536 * k - 0)) 0x40000205, s) := by
      simp only [State.translate, h, hit]; rfl
    rw [State.areaPages, e]
    simp only [tr]
    exact ⟨_, rfl⟩

theorem slot_area (s : State) (b : BindSlot) (r : BindSlot) (h : r.save = 0) (hn : r.w * r.h = 1) :
    ∃ ps, (withSlot s b).savePages r = (some ps, withSlot s b) := by
  rw [State.savePages, h, hn]
  exact wide_area (withSlot s b) (by simp [State.sheet, withSlot, vget, vset]) (areaPageCount 1) (of_decide_eq_true rfl)

theorem no_area (s : State) (h : s.hbm = []) (hw : s.writes = []) (ht : s.sheet 0 = {}) (save k : Nat) : s.areaPages save (k + 1) = (none, s) := by
  have rd (a : Nat) : s.readNum (0 / 2) .steward false a 8 = 0 := by
    simp only [State.readNum, State.readBytes, State.readByte, hw, byteAfter, State.memByte, h, Store.get, List.range, List.range.loop, List.map, natOfBytes, Bool.false_eq_true,
      if_false, BitVec.ofNat_eq_ofNat, BitVec.toNat_zero]
  have wk (va : Nat) : s.walk 0 false va = .absent 0 := by
    unfold State.walk walkFrom
    simp only [rd]
    exact if_pos (by decide)
  have tr (va : Nat) : s.translate 0 false va = (.absent 0, s) := by simp only [State.translate, ht, wk]; rfl
  induction k with
  | zero => simp only [State.areaPages, tr]
  | succ k ih => unfold State.areaPages; simp only [ih]

theorem drained_of (c : Ctx) (h1 : c.eng.q = Vector.replicate 4 []) (h2 : c.landings = []) (h3 : c.towerOps = []) (h4 : c.flights = [])
    (h5 : c.jobs = 0) (h6 : c.glob.queue = []) : Drained c := by
  refine ⟨fun k _ => ?_, h2, h3, h4, h5, fun a h => absurd (h6 ▸ h) List.not_mem_nil⟩
  rw [h1]
  rcases replicate_get 4 ([] : List QEntry) [] k with g | g <;> exact g

theorem witness_LandingsRefreshAndStops :
    ((let f := fillOf [(0x7FFFC0, 5)] none
      let c := withCell (Cell.setRing {} 7 { ring4 with fills := [f] })
      (lone c).ctx? 0 = some c ∧ ((c.cell 15).ring 7).fills = [f] ∧ f.ord = none ∧ f.written = none ∧ Store.wf (c.cell 15).tower = true ∧
        (15, 0x7FFFC0 / 131072) ∉ c.time.taken ∧ (15, 0x7FFFC0 / 131072) ∉ c.time.landed ∧
        2 * ((lone c).gcyc - ((c.cell 15).ages.getD (0x7FFFC0 / 131072) {}).oldest.2) = 0 ∧ c.time.refreshUntil ≤ (lone c).gcyc) ∧
     (let f := fillOf [] (some 0)
      let c := withCell (Cell.setRing {} 7 { ring4 with fills := [f] })
      let s : State := { (lone c) with gcyc := 1 }
      s.ctx? 0 = some c ∧ ((c.cell 0).ring 7).fills = [f] ∧ f.ord = none ∧ f.written = some 0 ∧ 0 < s.gcyc ∧ f.discarded = false ∧
        ((c.cell 0).ring 7).explicit = false ∧ ((c.cell 0).ring 7).spec = false ∧ f.slot < ((c.cell 0).ring 7).tags.length)) ∧
    ((let m : SendMsg := ⟨5, 9, 0x30F00, 0⟩
      let c := withCell { ({} : Cell) with send := [m] }
      (lone c).ctx? 0 = some c ∧ (c.cell 15).send = [m] ∧ (lone c).mate c (m.dest.toNat % 256) = some c ∧ c.preempt.stop = .none ∧
        bit m.dest 15 = false ∧ vget none (c.cell (m.dest.toNat / 256 % 16)).ports (m.dest.toNat / 65536 % 4) = none) ∧
     (let m : SendMsg := ⟨5, 9, 0, 0⟩
      let c := withCell { ({} : Cell) with send := [m], ports := Vector.replicate 4 (some ⟨1, 2⟩) }
      (lone c).ctx? 0 = some c ∧ (lone c).mate c (m.dest.toNat % 256) = some c ∧
        (vget none (c.cell (m.dest.toNat / 256 % 16)).ports (m.dest.toNat / 65536 % 4)).isSome = true) ∧
     (let m : BorderMsg := ⟨0, 0, 3, 3, 5, 9⟩
      let s : State := { (lone bare) with borderFlight := [(0, 0, m)] }
      s.ctx? 0 = some bare ∧ s.borderFlight = [(0, 0, m)] ∧ 0 ≤ s.gcyc ∧ m.side < 4 ∧ m.entry < 4)) ∧
    ((lone bare).ctx? 0 = some bare ∧ bare.time.refreshUntil ≤ (lone bare).gcyc ∧
     (let s : State := { (lone bare) with gcyc := 2 ^ 40 }
      1048576 * (s.island 0).fbase.toNat + 1024 * 65535 ≤ s.gcyc - ((bare.cell 15).ages.getD 63 {}).oldest.2) ∧
     (∀ n k, (lone bare).gcyc - ((bare.cell n).ages.getD k {}).oldest.2 < 1048576 * ((lone bare).island 0).fbase.toNat) ∧
     (let c := withCell { ({} : Cell) with badLines := [0] }
      (lone c).ctx? 0 = some c ∧ 0 ∈ (c.cell 3).badLines ∧ 0 ∉ (c.cell 3).poisoned ∧ (3, 0) ∉ c.time.landed ∧ c.time.ran = false ∧
        ((c.cell 3).ages.getD 0 {}).oldest.1 = 0) ∧
     (bare.cell 3).ages[63]? = some ({} : BankAge) ∧ (∀ n, (bare.cell n).badLines = [])) ∧
    ((let c : Ctx := { bare with preempt := { bare.preempt with deadline := some 1 } }
      (lone c).ctx? 0 = some c ∧ (lone c).gcyc < 1) ∧
     (let c : Ctx := { bare with preempt := { bare.preempt with deadline := some 0, stop := .draining } }
      (lone c).ctx? 0 = some c ∧ 0 ≤ (lone c).gcyc ∧ c.finished = false ∧ c.trap.halted = none ∧ Drained c ∧ c.trap.tctx = false) ∧
     (let c : Ctx := { bare with preempt := { bare.preempt with stop := .draining }, jobs := 1 }
      (lone c).ctx? 0 = some c ∧ ¬ Drained c) ∧
     (let c : Ctx := { bare with preempt := { bare.preempt with stop := .forced } }
      (lone c).ctx? 0 = some c ∧ c.jobs = 0 ∧ c.glob.queue = []) ∧
     (let c : Ctx := { bare with preempt := { bare.preempt with req := true }, issue := { bare.issue with wait := .waitev 7 } }
      (lone c).ctx? 0 = some c ∧ c.preempt.stop = .none ∧ c.preempt.notify = false ∧ c.trap.tctx = false ∧ Drained c ∧
        c.issue.exited = false ∧ bit (7 : BitVec 4) 3 = false)) ∧
    (let c : Ctx := { bare with preempt := { bare.preempt with stop := .quiet } }
     let s := withSlot (lone c) (slotOf 3)
     let t : Task := { bind := [], packet := none, panels := [0] }
     s.ctx? 0 = some c ∧ c.id.slot < 64 ∧ (s.slot c.id.slot).task = some t ∧ t.ending = none ∧ GangStill s c.id.slot ∧
       ∃ ps, s.savePages t.record = (some ps, s)) ∧
    (let c : Ctx := { bare with issue := { bare.issue with exited := true } }
     let other : Ctx := { bare with id := { bare.id with panel := 1 } }
     let s : State := { (lone c) with ctxs := [c, other] }
     s.ctx? 0 = some c ∧ c.trap.tctx = false ∧ Drained c ∧ c.glob.queue = [] ∧ other ∈ s.ctxs ∧ other.id.slot = c.id.slot ∧ other.id.panel ≠ 0 ∧
       other.finished = false ∧
       (let u := withSlot (lone c) (slotOf 2)
        let t : Task := { bind := [], packet := none, panels := [0] }
        u.ctx? 0 = some c ∧ (u.slot 0).task = some t ∧ t.saved = none ∧ t.ending = none)) := by
  refine ⟨⟨⟨rfl, rfl, rfl, rfl, rfl, by decide, by decide, rfl, by decide⟩, rfl, rfl, rfl, rfl, by decide, rfl, rfl, rfl, by decide⟩,
    ⟨⟨rfl, rfl, rfl, rfl, by decide, rfl⟩, ⟨rfl, rfl, rfl⟩, rfl, rfl, by decide, by decide, by decide⟩,
    ⟨rfl, by decide, by decide, fun n k => Nat.lt_of_le_of_lt (Nat.sub_le _ _) (by decide), ⟨rfl, by decide, by decide, by decide, rfl, rfl⟩, rfl, fun n => ?_⟩,
    ⟨⟨rfl, by decide⟩, ⟨rfl, by decide, rfl, rfl, drained_of _ rfl rfl rfl rfl rfl rfl, rfl⟩, ⟨rfl, fun h => absurd h.2.2.2.2.1 (by decide)⟩, ⟨rfl, rfl, rfl⟩,
      rfl, rfl, rfl, rfl, drained_of _ rfl rfl rfl rfl rfl rfl, rfl, by decide⟩,
    ⟨rfl, by decide, rfl, rfl, ⟨by decide, fun x hx _ => ?_, fun x hx => absurd hx List.not_mem_nil, fun x hx j hj => ?_⟩, slot_area _ (slotOf 3) _ rfl rfl⟩,
    rfl, rfl, drained_of _ rfl rfl rfl rfl rfl rfl, rfl, by simp, rfl, by decide, rfl, rfl, rfl, rfl, rfl⟩
  · exact (quiet_cells bare {} rfl rfl rfl).2 n
  · cases List.mem_singleton.1 hx
    refine ⟨.inr rfl, rfl, fun y hy r hr => ?_⟩
    cases (List.mem_replicate.1 hy).2
    cases (List.mem_replicate.1 hr).2
    rfl
  · have : ∀ x ∈ (withSlot (lone bare) (slotOf 3)).sheets.toList, x.jobs = [] := by decide
    rw [this x hx] at hj
    exact absurd hj List.not_mem_nil

/-- A card of 256 bytes: CTRL with I32 on both sides, COMPLETE, TOWER with CELLMASK 1, GBASE 0, and one dimension of 16 elements. -/
def card (complete : Nat) : List Byte :=
  bytesOfNat 8 0x44 ++ bytesOfNat 8 complete ++ bytesOfNat 8 1 ++ bytesOfNat 8 0 ++ bytesOfNat 4 16 ++ List.replicate 220 0#8

/-- A drain of panel 0 in a phase. -/
def jobIn (k : Nat) (phase : JobPhase) : Job :=
  { id := k, panel := some 0, form := 1, stream := 0, cardAddr := 0x40, card := card 0, phase := phase, ready := 0 }

/-- The package with a context of panel 0 and jobs in sheet 0. -/
def withJobs (c : Ctx) (js : List Job) : State := { (lone c) with sheets := vset State.reset.sheets 0 { ({} : Sheet) with jobs := js } }

/-- A card of 256 bytes: CTRL, TOWER, GBASE, GBASE2 and GSTRIDE2_0, and one dimension of 16 elements with stride 1. -/
def cardOf (ctrl tower base base2 rows : Nat) : List Byte :=
  bytesOfNat 8 ctrl ++ bytesOfNat 8 0 ++ bytesOfNat 8 tower ++ bytesOfNat 8 base ++ bytesOfNat 4 16 ++ List.replicate 28 0#8 ++ bytesOfNat 8 1 ++
    List.replicate 56 0#8 ++ bytesOfNat 8 base2 ++ bytesOfNat 8 rows ++ List.replicate 112 0#8

/-- A running job of panel 0 between I32 and cell 0, in a page that grants everything; with bit 17 of TOWER it names ring 0. -/
def jobOf (form : Nat) (ctrl : Nat := 0x44) (tower : Nat := 1) (base : Nat := 0x10000) (rows : Nat := 0) : Job :=
  { id := 1, panel := some 0, form := form, stream := 0, cardAddr := 0x40, card := cardOf ctrl tower base 0x10080 rows, phase := .running, ready := 0 }
def inSheet (c : Ctx) (j : Job) : State :=
  { (lone c) with sheets := vset State.reset.sheets 0 { ({} : Sheet) with jobs := [j], tlb := [page 0x87] } }

theorem steps_here (c : Ctx) (j : Job) (hp : c.id.panel = 0) (h : j.id = 1 ∧ j.panel = some 0 ∧ j.packet = none ∧ j.phase = .running ∧
    j.fault = none ∧ j.ready = 0 ∧ j.walk = .walking ∧ j.pos < j.total ∧ (towerType j).toNat < 14 ∧ (globalType j).toNat < 14 ∧
    (j.num 0 8).testBit 19 = false ∧ j.run = []) : Steps (inSheet c j) 0 j c := by
  obtain ⟨h1, h2, h3, h4, h5, h6, h7, h8, h9, h10, h11, h12⟩ := h
  have e : (inSheet c j).sheet 0 = { ({} : Sheet) with jobs := [j], tlb := [page 0x87] } := rfl
  refine ⟨⟨?_, h2, ?_⟩, h3, h4, h5, h6 ▸ Nat.zero_le _, h7, h8, h9, h10, h11, ⟨rfl, rfl⟩, ?_⟩
  · show (((inSheet c j).sheet 0).jobs.find? fun i => i.id == j.id) = _
    rw [e]; simp
  · show ([c].find? fun d => d.id.panel == 0) = _
    simp [hp]
  · rw [h12]; exact ⟨.nil, fun _ h => absurd h List.not_mem_nil⟩

/-- Every access of a job to that page is granted at an aligned address. -/
theorem granted_here (c : Ctx) (j : Job) (a : JobAccess) (va : U64) (n : Nat) (h : va.toNat < 0x20000) (h0 : 0x10000 ≤ va.toNat) (hn : va.toNat % n = 0)
    (hl : isLocal va = false) : Granted (inSheet c j) 0 a va n (0x2000010000 + (va.toNat - 0x10000)) false := by
  refine ⟨Nat.lt_trans h (by decide), hn, hl, ⟨0x87, ⟨page 0x87, ?_, rfl, rfl⟩, rfl, fun _ => by decide, fun _ => by decide, fun _ => by decide⟩, fun _ => rfl⟩
  exact List.find?_cons_of_pos (show ((false == false && decide (0x10000 ≤ va.toNat)) && decide (va.toNat < 0x10000 + 0x10000)) = true by
    rw [decide_eq_true h0, decide_eq_true (show va.toNat < 0x10000 + 0x10000 from h)]; rfl)

/-- A job in each phase; jobs handed over before that let it start, and that do not; a card with an action; a fault; and a COPY's. -/
theorem witness_ColumnJobsRunAndEnd :
    (∀ ph ∈ [JobPhase.waiting, .draining, .action], Engaged (withJobs bare [jobIn 1 ph]) 0 (jobIn 1 ph) bare ∧ (jobIn 1 ph).phase = ph ∧
      (jobIn 1 ph).acks = 0 ∧ (jobIn 1 ph).ready ≤ (withJobs bare [jobIn 1 ph]).gcyc) ∧
    (let j : Job := { (jobIn 1 .waiting) with ord := 5 }
     let c : Ctx := { bare with glob := { bare.glob with queue := [access1 (.load true) (some 2)] } }
     Engaged (withJobs c [j]) 0 j c ∧ (∃ a ∈ c.glob.queue, HoldsJob c j a) ∧ ∀ a ∈ bare.glob.queue, ¬ HoldsJob bare j a) ∧
    (let j : Job := { (jobIn 2 .matched) with foot := [⟨1, 0x80, 0x40⟩] }
     let i (ph : JobPhase) (n : Nat) : Job := { (jobIn 1 ph) with foot := [⟨2, 0x40, n⟩], stream := 1 }
     let s (ph : JobPhase) (n : Nat) : State := withJobs bare [i ph n, j]
     (∀ ph n, Engaged (s ph n) 0 j bare ∧ ((s ph n).sheet 0).jobs = [i ph n] ++ [j] ∧ ∀ x ∈ [i ph n], x.id ≠ j.id) ∧
       Lets (i .action 0x41) j ∧ Lets (i .running 0x40) j ∧ Lets (i .draining 0x40) j ∧ Lets (i .matched 0x40) j ∧
       ¬ Lets (i .running 0x41) j ∧ ¬ Lets (i .draining 0x41) j ∧ ¬ Lets (i .matched 0x41) j ∧
       ¬ Lets { (i .matched 0x40) with stream := 0 } j ∧ ¬ Lets (i .card 0x40) j) ∧
    (let j : Job := { (jobIn 1 .draining) with acks := 1 }
     Engaged (withJobs bare [j]) 0 j bare ∧ j.acks ≠ 0) ∧
    (let j : Job := { (jobIn 1 .draining) with card := card 0x100, rev := true }
     Engaged (withJobs bare [j]) 0 j bare ∧ j.acts = true ∧ (jobIn 1 .draining).acts = false ∧
       Store.wf ((withJobs bare [j]).sheet bare.flagHome).flags = true) ∧
    (∀ tctx : Bool, let j : Job := { (jobIn 1 .running) with fault := some (0x04, 0, 9) }
     let c : Ctx := { bare with trap := { bare.trap with tctx := tctx } }
     Engaged (withJobs c [j]) 0 j c ∧ (0x04#8) ≠ 0x10#8 ∧ c.outbox = [] ∧ c.trap.tctx = tctx ∧ c.trap.deferred = none ∧ c.preempt.stop = .none) ∧
    (∀ ph ∈ [JobPhase.running, .draining], let q : Packet := { id := 3, queue := 0, count := 0, bytes := [] }
     let j : Job := { (jobIn 1 ph) with panel := none, packet := some 3, fault := some (0x04, 0, 9) }
     let s : State := { (withJobs bare [j]) with packets := [q] }
     s.job? 0 1 = some j ∧ j.panel = none ∧ j.packet = some q.id ∧ s.packet? q.id = some q ∧ q.result = none ∧ j.acks = 0) ∧
    (∀ tower ∈ [1, 0x10001], (jobOf 1 0x44 tower).packet = none ∧ (towerType (jobOf 1 0x44 tower)).toNat < 14 ∧
      (List.range 16).filter (fun n => ((jobOf 1 0x44 tower).num 16 8).testBit n) ≠ []) := by
  refine ⟨?_, ⟨⟨rfl, rfl, rfl⟩, ⟨_, .head _, by decide, rfl, (fun _ _ h => by cases h), (fun h => by cases h)⟩, fun a h => absurd h List.not_mem_nil⟩,
    ⟨fun ph n => ⟨⟨rfl, rfl, rfl⟩, rfl, fun x h => by cases List.mem_singleton.1 h; show 1 ≠ 2; decide⟩, trivial, ?_, ?_, ⟨by decide, ?_⟩, ?_, ?_,
      fun h => h.2 ?_, fun h => h.1 rfl, fun h => h⟩, ⟨⟨rfl, rfl, rfl⟩, by decide⟩,
    ⟨⟨rfl, rfl, rfl⟩, by decide, by decide, rfl⟩, fun _ => ⟨⟨rfl, rfl, rfl⟩, by decide, rfl, rfl, rfl, rfl⟩, ?_, by decide⟩
  · intro ph h
    simp only [List.mem_cons, List.not_mem_nil, or_false] at h
    rcases h with rfl | rfl | rfl <;> exact ⟨⟨rfl, rfl, rfl⟩, rfl, rfl, by decide⟩
  all_goals first
    | (rintro ⟨x, hx, y, hy, h⟩; cases List.mem_singleton.1 hx; cases List.mem_singleton.1 hy; exact absurd h.2.1 (by decide))
    | exact fun h => h ⟨_, .head _, _, .head _, by decide, by decide, .inl (by decide)⟩
    | exact ⟨_, .head _, _, .head _, by decide, by decide, .inl (by decide)⟩
    | skip
  intro ph h
  simp only [List.mem_cons, List.not_mem_nil, or_false] at h
  rcases h with rfl | rfl <;> exact ⟨rfl, rfl, rfl, rfl, rfl, rfl⟩

/-- A fill about to take its last element, its last element refused, and an index beyond the table of a gather. -/
theorem witness_ColumnJobsRunAndEnd_reads :
    (∀ form ∈ [0, 3], let j : Job := { (jobOf form 0x44 1 0x10000 1) with chunk := List.replicate 15 (some 0) }
      Steps (inSheet bare j) 0 j bare ∧ j.run = [] ∧ j.chunk.length = 15 ∧ chunkNow j = 16 ∧
        Fetches (inSheet bare j) 0 j bare (j.pos + 15) (some 0)) ∧
    (let j : Job := { (jobOf 0 0x44 1 0x10001) with rev := true, chunk := List.replicate 15 (some 0) }
     Steps (inSheet bare j) 0 j bare ∧ j.chunk.length < chunkNow j ∧ FetchFails (inSheet bare j) 0 j bare (j.pos + 15) 0x03#8 0#8 0x1003D#64) ∧
    (let j : Job := { (jobOf 3) with chunk := List.replicate 15 (some 0) }
     Steps (inSheet bare j) 0 j bare ∧ j.chunk.length < chunkNow j ∧ FetchFails (inSheet bare j) 0 j bare (j.pos + 15) 0x01#8 0x08#8 15#64) := by
  refine ⟨?_, ⟨steps_here _ _ rfl (by decide), by decide, .inr (.inr ⟨_, rfl, rfl, rfl, ?_⟩)⟩, steps_here _ _ rfl (by decide), by decide,
    .inr (.inl ⟨rfl, ⟨0, ⟨_, _, granted_here _ _ _ _ _ (by decide) (by decide) (by decide) (by decide), by decide⟩, by decide⟩, rfl, rfl, rfl⟩)⟩
  · intro form h
    simp only [List.mem_cons, List.not_mem_nil, or_false] at h
    rcases h with rfl | rfl
    · exact ⟨steps_here _ _ rfl (by decide), rfl, rfl, by decide, _, rfl, 0, 0, ⟨_, _, granted_here _ _ _ _ _ (by decide) (by decide) (by decide) (by decide), by decide⟩,
        ⟨by decide, by decide, by decide, rfl⟩, rfl⟩
    · exact ⟨steps_here _ _ rfl (by decide), rfl, rfl, by decide, _, ⟨0, ⟨_, _, granted_here _ _ _ _ _ (by decide) (by decide) (by decide) (by decide), by decide⟩,
        by decide, rfl⟩, 0, 0, ⟨_, _, granted_here _ _ _ _ _ (by decide) (by decide) (by decide) (by decide), by decide⟩, ⟨by decide, by decide, by decide, rfl⟩, rfl⟩
  · show Denied _ _ _ _ _ _
    unfold Denied
    rw [if_neg (by decide), if_pos (by decide)]

/-- A chunk in hand for a tower offset, and for a ring that is not configured, full, of other slots, and ready; its lines to be written. -/
theorem witness_ColumnJobsRunAndEnd_lines :
    (let j : Job := { (jobOf 0) with chunk := List.replicate 16 (some 7) }
     Steps (inSheet bare j) 0 j bare ∧ j.chunk.length = chunkNow j ∧ j.placed = false ∧ (∀ y ∈ j.chunk, y ≠ none) ∧ j.toRing = false) ∧
    (∀ r ∈ [({} : Ring), { ({} : Ring) with conf := true }, { ({} : Ring) with conf := true, count := 2 }, { ({} : Ring) with conf := true, count := 2, size := 1 }],
     let c := bare.setCell 0 { rings := Vector.replicate 8 r }
     let j : Job := { (jobOf 0 0x44 0x20001) with chunk := List.replicate 16 (some 7) }
     Steps (inSheet c j) 0 j c ∧ j.chunk.length = chunkNow j ∧ j.toRing = true ∧ (c.cell j.cell).ring j.ringNo = r ∧
       ((r.conf = false ∨ r.count ≤ (r.nexttag - r.head).toNat) ∨ r.conf = true ∧ (r.nexttag - r.head).toNat < r.count)) ∧
    (chunkSize (jobOf 0 0x44 0x20001) ≠ 64 * 0 ∧ chunkSize (jobOf 0 0x44 0x20001) = 64 * 1) ∧
    (∀ ring ∈ [0x1, 0x20001], let j : Job := { (jobOf 0 0x44 ring) with chunk := List.replicate 16 (some 7), placed := true, lines := [(64, 5#512, 1#64)] }
     Steps (inSheet bare j) 0 j bare ∧ j.chunk.length = chunkNow j ∧ Store.wf (bare.cell j.cell).tower = true ∧
       (∀ y ∈ j.lines, y.1 % 64 = 0 ∧ y.1 < 2 ^ 23) ∧ j.lines.head? = some (64, 5#512, 1#64) ∧ bare.transferFree ((inSheet bare j).env 0) j.cell 64 = true) := by
  refine ⟨⟨steps_here _ _ rfl (by decide), by decide, rfl, by decide, by decide⟩, ?_, by decide, ?_⟩
  · intro r h
    simp only [List.mem_cons, List.not_mem_nil, or_false] at h
    rcases h with rfl | rfl | rfl | rfl <;> exact ⟨steps_here _ _ rfl (by decide), by decide, by decide, by decide, by decide⟩
  · intro r h
    simp only [List.mem_cons, List.not_mem_nil, or_false] at h
    rcases h with rfl | rfl <;> exact ⟨steps_here _ _ rfl (by decide), by decide, rfl, by decide, rfl, by decide⟩

/-- A drain before its ring's position, which has not come, is pending, does not match or has arrived; before its line, whose bank is free and
which may hold an error; and before its pop. -/
theorem witness_ColumnJobsRunAndEnd_gets :
    (∀ tag ∈ [0#32, 0xFFFFFFFF#32, 5#32], ∀ tail ∈ [0#32, 1#32],
     let r : Ring := { ({} : Ring) with conf := true, count := 1, size := 1, tail := tail, tags := [tag] }
     let c := bare.setCell 0 { rings := Vector.replicate 8 r }
     let j := jobOf 1 0x44 0x30001
     Steps (inSheet c j) 0 j c ∧ j.got.length < chunkSize j ∧ j.toRing = true ∧ j.ringAt = none ∧ (c.cell j.cell).ring j.ringNo = r) ∧
    (∀ x ∈ [({} : Cell), { ({} : Cell) with badLines := [0] }], ∀ form ∈ [1, 2, 5],
     let c := bare.setCell 0 x
     let j := jobOf form 0x44 0x10001
     Steps (inSheet c j) 0 j c ∧ j.got.length < chunkSize j ∧ j.got.length % 64 = 0 ∧ j.toRing = false ∧ c.cell j.cell = x ∧ j.towerAt = 0 ∧
       c.transferFree ((inSheet c j).env 0) j.cell 0 = true) ∧
    (∀ tail ∈ [0#32, 1#32],
     let c := bare.setCell 0 { rings := Vector.replicate 8 { ({} : Ring) with conf := true, count := 1, size := 1, tail := tail, popAt := 1 } }
     let j : Job := { (jobOf 1 0x44 0x30001) with got := List.replicate 64 0#8, ringAt := some (0, 0) }
     Steps (inSheet c j) 0 j c ∧ chunkSize j ≤ j.got.length ∧ j.toRing = true ∧ j.ringAt ≠ none ∧ ((c.cell j.cell).ring j.ringNo).tail = tail ∧
       ((c.cell j.cell).ring j.ringNo).head = 0 ∧ ((c.cell j.cell).ring j.ringNo).popAt ≠ (inSheet c j).gcyc) := by
  refine ⟨?_, ?_, ?_⟩
  · intro tag _ tail _
    exact ⟨steps_here _ _ rfl (by decide), by decide, by decide, rfl, rfl⟩
  · intro x hx form hf
    simp only [List.mem_cons, List.not_mem_nil, or_false] at hx hf
    rcases hx with rfl | rfl <;> rcases hf with rfl | rfl | rfl <;>
      exact ⟨steps_here _ _ rfl (by decide), by decide, by decide, by decide, rfl, by decide, by decide⟩
  · intro tail _
    exact ⟨steps_here _ _ rfl (by decide), by decide, by decide, by decide, rfl, rfl, by show (1 : Nat) ≠ 0; decide⟩

/-- R236: the operators of the update stage on zeros. -/
theorem size_zero : f32.size 0 = 0 := by
  show ((0 : Nat) : Rat) / _ = 0
  rw [Rat.div_def]; exact Rat.zero_mul _
theorem size_one : (0 : Rat) < f32.size 1 := by
  show (0 : Rat) < ((2 : Nat) : Rat) / ((2 ^ 150 : Nat) : Rat)
  rw [Rat.div_def]
  exact Rat.mul_pos (by exact_mod_cast (by decide : 0 < 2)) (Rat.inv_pos.2 (by exact_mod_cast (by decide : 0 < 2 ^ 150)))
theorem read_zero : f32.read false 0 = .real 0 false := by
  show Quantity.real (f32.size 0) false = _
  rw [size_zero]
theorem zero_encodes : f32.Encodes .rne 0 false (.real 0 false) 0 none_ := by
  refine ⟨0, 0, ?_, ?_, fun h => absurd ?_ h.1, fun _ => rfl, rfl, rfl⟩
  · rw [size_zero]; exact Rat.le_refl
  · exact size_one
  · rw [size_zero]; rfl
theorem zero_once (f : Quantity → Quantity → Quantity × Bool) (h : f (.real 0 false) (.real 0 false) = (.real 0 false, false)) : Once false f 0 0 0 :=
  ⟨none_, none_, by rw [read_zero, h]; exact zero_encodes, by rw [read_zero, h]; rfl⟩
theorem zero_plus : plus .rne (.real 0 false) (.real 0 false) = (.real 0 false, false) := by simp [plus, Rat.add_zero]
theorem zero_times : times (.real 0 false) (.real 0 false) = (.real 0 false, false) := by simp [times, Rat.mul_zero]
theorem zero_minus : Difference (.real 0 false) (.real 0 false) = (.real 0 false, false) := by
  simp [Difference, minus, plus, Rat.neg_zero, Rat.add_zero]

/-- The last element of a chunk of a drain, a pair, a reduction, an update and a copy; a place that refuses it; and the chunk done. -/
theorem witness_ColumnJobsRunAndEnd_leaves :
    (∀ form ∈ [1, 2, 5], let j : Job := { (jobOf form 0x44 0x10001) with got := List.replicate 64 0#8, sub := 15 }
      Steps (inSheet bare j) 0 j bare ∧ chunkSize j ≤ j.got.length ∧ j.toRing = false ∧ j.sub + 1 = chunkNow j ∧ j.run = [] ∧
        Current (inSheet bare j) 0 j ∧ ∃ m, InOrder (Leaves (inSheet bare j) 0 j fun _ => 0) (j.pos + j.sub) 1 (standing (inSheet bare j) j.run) m) ∧
    (let j : Job := { (jobOf 1 0x40088 0x10001) with got := List.replicate 64 0#8, sub := 15 }
     Steps (inSheet bare j) 0 j bare ∧ ∃ m, InOrder (Leaves (inSheet bare j) 0 j fun _ => 0) (j.pos + j.sub) 1 (standing (inSheet bare j) j.run) m) ∧
    (let j : Job := { (jobOf 4 0x44 0) with sub := 15 }
     Steps (inSheet bare j) 0 j bare ∧ j.sub + 1 = chunkNow j ∧ Current (inSheet bare j) 0 j ∧
       ∃ m, InOrder (Leaves (inSheet bare j) 0 j fun _ => 0) (j.pos + j.sub) 1 (standing (inSheet bare j) j.run) m) ∧
    (∀ a ∈ [JobAccess.read, .write, .reduce], Denied (inSheet bare (jobOf 1)) 0 a 0x10001#64 4 0x03#8) ∧
    (let j : Job := { (jobOf 1 0x44 0x10001) with got := List.replicate 64 0#8, sub := 16 }
     Steps (inSheet bare j) 0 j bare ∧ chunkNow j ≤ j.sub ∧ j.ringAt = none) := by
  have cur (j : Job) : Current (inSheet bare j) 0 j := fun _ h => absurd h List.not_mem_nil
  have conv (j : Job) (x : Nat) (h : globalType j = towerType j ∧ (towerType j).toNat < 14 ∧ j.num 0 8 / 2 ^ 8 % 2 ^ 3 < 4) :
      Converted j (towerType j) (globalType j) x x := ⟨h.2.1, by rw [h.1]; exact h.2.1, h.2.2, by rw [if_pos h.1.symm]⟩
  refine ⟨?_, ⟨steps_here _ _ rfl (by decide), ?_⟩, ⟨steps_here _ _ rfl (by decide), by decide, cur _, ?_⟩, ?_, steps_here _ _ rfl (by decide), by decide, rfl⟩
  · intro form h
    simp only [List.mem_cons, List.not_mem_nil, or_false] at h
    rcases h with rfl | rfl | rfl
    · exact ⟨steps_here _ _ rfl (by decide), by decide, by decide, by decide, rfl, cur _, _, .next _ _ _ _ _
        ⟨0, _, conv _ _ (by decide), ⟨_, _, granted_here _ _ _ _ _ (by decide) (by decide) (by decide) (by decide), rfl⟩, rfl⟩ (.none _ _)⟩
    · exact ⟨steps_here _ _ rfl (by decide), by decide, by decide, by decide, rfl, cur _, _, .next _ _ _ _ _
        ⟨0, _, conv _ _ (by decide), ⟨_, _, granted_here _ _ _ _ _ (by decide) (by decide) (by decide) (by decide), rfl⟩,
          _, _, granted_here _ _ _ _ _ (by decide) (by decide) (by decide) (by decide), rfl⟩ (.none _ _)⟩
    · exact ⟨steps_here _ _ rfl (by decide), by decide, by decide, by decide, rfl, cur _, _, .next _ _ _ _ _
        ⟨0, 0, _, conv _ _ (by decide), granted_here _ _ _ _ _ (by decide) (by decide) (by decide) (by decide),
          ⟨by decide, rfl, fun _ => by decide, fun h => absurd rfl h, fun h => absurd rfl h⟩, rfl⟩ (.none _ _)⟩
  · refine ⟨_, .next _ _ _ _ _ ⟨0, 0, 0, 0, 0, 0, 0, 0, 0, _, _, none_, none_, ?_, ?_, ?_, fun h => absurd rfl h, fun h => absurd h (by decide),
      ⟨rfl, rfl, 0, 0, 0, ?_, ?_, ?_, ?_⟩, conv _ _ (by decide), ⟨_, _, granted_here _ _ _ _ _ (by decide) (by decide) (by decide) (by decide), rfl⟩, rfl, rfl⟩ (.none _ _)⟩
    · show f32.Encodes .rne 0 false (f32.read false 0) 0 none_
      rw [read_zero]; exact zero_encodes
    · exact ⟨_, _, granted_here _ _ _ _ _ (by decide) (by decide) (by decide) (by decide), by decide⟩
    · show f32.Encodes .rne 0 false (f32.read false 0) 0 none_
      rw [read_zero]; exact zero_encodes
    · exact zero_once _ zero_times
    · exact zero_once _ zero_plus
    · exact zero_once _ zero_times
    · exact zero_once _ zero_minus
  · exact ⟨_, .next _ _ _ _ _ ⟨0, 0, ⟨_, _, granted_here _ _ _ _ _ (by decide) (by decide) (by decide) (by decide), by decide⟩,
      ⟨by decide, by decide, by decide, rfl⟩, _, _, granted_here _ _ _ _ _ (by decide) (by decide) (by decide) (by decide), rfl⟩ (.none _ _)⟩
  · intro a _
    unfold Denied
    rw [if_neg (by decide), if_pos (by decide)]

/-- A fill in REV mode over a global region: an element outside it, and one inside it whose place in the tower meets a region, or none. -/
theorem witness_ColumnJobsRunAndEnd_adjoints :
    ∀ g ∈ [0x8000000100000001#64, 0#64], ∀ sub ∈ [0, 1],
     let c : Ctx := { bare with adj := { bare.adj with dregBase := vset (vset bare.adj.dregBase 0 0#64) 1 0x10000#64,
                                                       dregCtl := vset (vset bare.adj.dregCtl 0 g) 1 0xC000000100000001#64 } }
     let j : Job := { (jobOf 0 0x88 1) with rev := true, chunk := none :: List.replicate 15 (some 0), sub := sub }
     Steps (inSheet c j) 0 j c ∧ j.chunk.length = chunkNow j ∧ j.sub < j.chunk.length ∧ none ∈ j.chunk ∧
       globalRegion c (j.spot (j.pos + 0) 32).va.toNat = some ⟨1, true, 4, 0x10000, 64, 0x10040, 64⟩ ∧
       regionAt c 0 = (if g = 0#64 then none else some ⟨0, false, 4, 0, 64, 64, 64⟩) ∧ (j.towerAt + 0 * 32 / 8) % 2 ^ 23 = 0 ∧
       shadowOf ⟨0, false, 4, 0, 64, 64, 64⟩ 0 = 64 ∧ c.transferFree ((inSheet c j).env 0) j.cell 64 = true ∧ (c.cell j.cell).badLines = [] ∧
       Store.wf (c.cell j.cell).tower = true ∧ Granted (inSheet c j) 0 .shadow 0x10040 4 0x2000010040 false ∧
       Once (jobFtz j) (plus .rne) (numberAt (standing (inSheet c j) j.run) false 0x2000010040 4)
         (numberAt (fun _ b => (Store.get (c.cell j.cell).tower b).toNat) false 64 4) 0 := by
  intro g hg sub hs
  simp only [List.mem_cons, List.not_mem_nil, or_false] at hg hs
  rcases hg with rfl | rfl <;> rcases hs with rfl | rfl <;>
    exact ⟨steps_here _ _ rfl (by decide), by decide, by decide, by decide, by decide, by decide, by decide, by decide, by decide, rfl, rfl,
      granted_here _ _ _ _ _ (by decide) (by decide) (by decide) (by decide), zero_once _ zero_plus⟩

/-- A write that a view has not applied. -/
def write1 : GWrite :=
  { id := 5, agent := .host, born := 0, onHost := false, addr := 0x2000010000, data := [1, 2], views := 0, needs := [], together := 0 }

/-- An access whose translation has come as far as a walk names. -/
def walkingAccess (k : GKind) (w : Walk) : GAccess := { (access1 k none) with walk := w }

/-- The bare context with one access. -/
def asking (a : GAccess) : Ctx := { bare with glob := { bare.glob with queue := [a] } }

/-- HBM with a number at an address, for replies to notices and invalidation requests. -/
def hbmNum (s : State) (a x : Nat) : State := { s with hbm := Store.setNum [] a 8 x }

/-- A notice that has been posted. -/
def notice1 : Notice := { number := 64, va := 0x10000, access := 0, panel := 0, sheet := 0, level := 3, deadline := 9, posted := true }

/-- HBM with tables that map the 64 KiB page of virtual address 0x10000 by a level 3 entry. -/
def treeOf (leaf : Nat) : Bytes :=
  [(0, 0x100003), (0x100000, 0x102003), (0x102000, 0x104003), (0x104008, leaf)].foldl (fun m x => Store.setNum m x.1 8 x.2) []

/-- The package with those tables. -/
def withTree (s : State) (leaf : Nat) : State := { s with hbm := treeOf leaf }

theorem tree_reaches (s : State) (h : Claims.entryAt s 0 0 = 0x100003#64) (h1 : Claims.entryAt s 0 0x100000 = 0x102003#64)
    (h2 : Claims.entryAt s 0 0x102000 = 0x104003#64) : Reaches s 0 0x10000 3 0x104000 := by
  have p0 : entryPlace 0x10000 0 0 = 0 := by decide
  have p1 : entryPlace 0x10000 1 0x100000 = 0x100000 := by decide
  have p2 : entryPlace 0x10000 2 0x102000 = 0x102000 := by decide
  refine .next (.next (.next .root (by decide) (u := 0x100000) ?_) (by decide) (u := 0x102000) ?_) (by decide) ?_
  · rw [p0, h]; unfold NamesTable; decide
  · rw [p1, h1]; unfold NamesTable; decide
  · rw [p2, h2]; unfold NamesTable; decide

theorem tree_walk (c : Ctx) (leaf : Nat) (hl : leaf ∈ [0x2000010005, 0x2000000105, 0x2000010025, 0]) :
    Reaches (withTree (lone c) leaf) 0 0x10000 3 0x104000 ∧ Claims.entryAt (withTree (lone c) leaf) 0 0x104008 = BitVec.ofNat 64 leaf := by
  have rd (a : Nat) : (withTree (lone c) leaf).readNum (0 / 2) .steward false a 8 = Store.num (treeOf leaf) a 8 := rfl
  simp only [List.mem_cons, List.not_mem_nil, or_false] at hl
  rcases hl with rfl | rfl | rfl | rfl <;>
    exact ⟨tree_reaches _ (congrArg (BitVec.ofNat 64) (rd _)) (congrArg (BitVec.ofNat 64) (rd _)) (congrArg (BitVec.ofNat 64) (rd _)),
      congrArg (BitVec.ofNat 64) (rd _)⟩

theorem witness_ViewsAndTranslation :
    (let s : State := { (lone bare) with writes := [write1] }
     Sane s ∧ s.writes = [write1] ∧ (4 : Nat) < 5 ∧ write1.views.getLsbD 4 = false ∧ write1.views.getLsbD 0 = false) ∧
    (∀ k ∈ [GKind.load true, .store, .atomic 9], ∀ leaf ∈ [0x7#64, 0x3#64, 0x57#64, 0x17#64],
      let a := walkingAccess k .walking
      let s := withTlb (lone (asking a)) [page leaf]
      s.ctx? 0 = some (asking a) ∧ s.access? 0 7 = some a ∧ a.walk = .walking ∧ Cached s (0 / 32) false a.va.toNat 0x2000010000 leaf) ∧
    (∀ k ∈ [GKind.load true, .store, .atomic 9], ∀ w ∈ [Walk.walking, .posting], ∀ leaf ∈ [0x2000010005, 0x2000000105, 0x2000010025, 0],
      ∀ held : BitVec 8,
      let a := walkingAccess k w
      let c : Ctx := { (asking a) with time := { bare.time with holding := held } }
      let s := withTree (lone c) leaf
      s.ctx? 0 = some c ∧ s.access? 0 7 = some a ∧ Missed s (0 / 32) a.va.toNat ∧ s.fleet.notices = [] ∧
        (bit held 3 = true → Serves c a) ∧ (bit held 3 = false → ¬ Serves c a)) ∧
    (∀ c : Ctx,
      Finds (withTree (lone c) 0x2000010005) 0 0x10000 (2 ^ 16) 0x2000010000 0x2000010005#64 ∧
      Finds (withTree (lone c) 0x2000000105) 0 0x10000 (2 ^ 21) 0x2000000000 0x2000000105#64 ∧
      Invalid (withTree (lone c) 0x2000010025) 0 0x10000 3 0x104008 ∧ Absent (withTree (lone c) 0) 0 0x10000 3) ∧
    (let a := walkingAccess (.load true) (.notice 64)
     let s (reply g : Nat) : State := { (hbmNum (withTlb (lone (asking a)) [page 0x7]) (0x2100 + 24) reply) with
       gcyc := g, fleet := { State.reset.fleet with notices := [notice1] } }
     (∀ r ∈ [0, 1, 2], ∀ g ∈ [8, 9], (s r g).fleet.notices = [notice1] ∧ (s r g).ctxs = [asking a] ∧
       (s r g).stewardRead (0x2100 + 32 * (notice1.number % 64) + 24) 8 = r ∧ (s r g).gcyc = g) ∧ a.walk = .notice notice1.number ∧
       notice1.posted = true ∧ notice1.expired = false ∧ notice1.deadline = 9 ∧ Cached (s 1 0) (bare.id.panel / 32) false a.va.toNat 0x2000010000 0x7) ∧
    (∀ leaf ∈ [0x2000010005, 0], let a := walkingAccess (.load true) (.notice 64)
     let s : State := { (lone (asking a)) with hbm := Store.setNum (treeOf leaf) (0x2100 + 24) 8 1, fleet := { State.reset.fleet with notices := [notice1] } }
     s.stewardRead (0x2100 + 32 * (notice1.number % 64) + 24) 8 = 1 ∧ Missed s (bare.id.panel / 32) a.va.toNat) ∧
    (let j : Job := { (jobIn 1 .running) with walk := .notice 64 }
     let s (reply g : Nat) : State := { (hbmNum (withJobs bare [j]) (0x2100 + 24) reply) with
       gcyc := g, fleet := { State.reset.fleet with notices := [notice1] } }
     ∀ r ∈ [1, 2], (s r 9).fleet.notices = [notice1] ∧ j ∈ ((s r 9).sheet 0).jobs ∧ j.walk = .notice notice1.number ∧
       (s r 9).stewardRead (0x2100 + 32 * (notice1.number % 64) + 24) 8 = r ∧ notice1.deadline ≤ (s r 9).gcyc) ∧
    (let j : Job := { (jobIn 1 .card) with card := [], cardAddr := 0x10000, asked := 0x10000, walk := .refused 0x04 }
     (withJobs bare [j]).job? 0 1 = some j ∧ j.phase = .card ∧ j.ready ≤ (withJobs bare [j]).gcyc ∧ isLocal j.cardAddr = false ∧ j.fault = none) ∧
    (∀ x ∈ [[(0x2000, 1)], [(0x2000, 1), (0x2010, 4)], [(0x2000, 1), (0x2010, 1), (0x2018, 0x10000), (0x2020, 0x20000)],
        [(0x2000, 1), (0x2010, 5), (0x2018, 0x10000), (0x2020, 0x20000)], [(0x2000, 1), (0x2010, 6)], [(0x2000, 1), (0x2010, 1)]],
      let s : State := { (lone bare) with hbm := x.foldl (fun m y => Store.setNum m y.1 8 y.2) [] }
      Sane s ∧ s.fleet.inval = none ∧ s.stewardRead 0x2000 8 ≠ s.fleet.doneSeq.toNat ∧ (∀ k, k < 8 → ∀ j ∈ (s.sheet k).jobs, j.run = []) ∧
        (s.stewardRead 0x2010 8, s.stewardRead 0x2018 8, s.stewardRead 0x2020 8) ∈ [(0, 0, 0), (4, 0, 0), (1, 0x10000, 0x20000), (5, 0x10000, 0x20000), (6, 0, 0), (1, 0, 0)]) ∧
    (lone bare).stewardRead 0x2000 8 = (lone bare).fleet.doneSeq.toNat ∧
    (let s : State := { (lone bare) with fleet := { State.reset.fleet with inval := some (1, []) } }
     Sane s ∧ s.fleet.inval = some (1, [])) := by
  refine ⟨⟨⟨rfl, rfl⟩, rfl, by decide, by decide, by decide⟩, ?_, ?_, ?_, ⟨?_, rfl, rfl, rfl, rfl, page 0x7, rfl, rfl, rfl⟩,
    ?_, ?_, ⟨rfl, rfl, by decide, rfl, rfl⟩, ?_, by decide, ⟨rfl, rfl⟩, rfl⟩
  · intro k hk leaf hl
    simp only [List.mem_cons, List.not_mem_nil, or_false] at hk hl
    rcases hk with rfl | rfl | rfl <;> rcases hl with rfl | rfl | rfl | rfl <;> exact ⟨rfl, rfl, rfl, page _, rfl, rfl, rfl⟩
  · intro k _ w _ leaf _ held
    refine ⟨rfl, ?_, fun _ h => absurd h List.not_mem_nil, rfl, fun h => ⟨h, rfl, ?_⟩, fun h g => Bool.false_ne_true (h.symm.trans g.1)⟩
    · rfl
    · intro b hb hlt
      cases List.mem_singleton.1 hb
      exact absurd hlt (Nat.lt_irrefl _)
  · intro c
    have w (leaf : Nat) (hl : leaf ∈ [0x2000010005, 0x2000000105, 0x2000010025, 0]) := tree_walk c leaf hl
    have e : entryPlace 0x10000 3 0x104000 = 0x104008 := by decide
    have page (x : Nat) (size pa : Nat) (h : NamesPage (BitVec.ofNat 64 x) 3 size pa) (hl : x ∈ [0x2000010005, 0x2000000105, 0x2000010025, 0]) :
        Finds (withTree (lone c) x) 0 0x10000 size pa (BitVec.ofNat 64 x) :=
      ⟨3, 0x104000, (w x hl).1, by rw [e, (w x hl).2], h⟩
    refine ⟨page _ _ _ (by unfold NamesPage; decide) (by decide), page _ _ _ (by unfold NamesPage; decide) (by decide),
      ⟨0x104000, (w 0x2000010025 (by decide)).1, e.symm, ?_, fun _ h => absurd h (by decide), fun size pa h => ?_⟩,
      0x104000, (w 0 (by decide)).1, ?_⟩
    · rw [(w 0x2000010025 (by decide)).2]; decide
    · rw [(w 0x2000010025 (by decide)).2] at h
      exact absurd h.2.2.2.1 (by decide)
    · rw [e, (w 0 (by decide)).2]; decide
  · intro r hr g hg
    simp only [List.mem_cons, List.not_mem_nil, or_false] at hr hg
    rcases hr with rfl | rfl | rfl <;> rcases hg with rfl | rfl <;> exact ⟨rfl, rfl, by decide, rfl⟩
  · intro leaf hl
    simp only [List.mem_cons, List.not_mem_nil, or_false] at hl
    rcases hl with rfl | rfl <;> exact ⟨by decide, fun _ h => absurd h List.not_mem_nil⟩
  · intro j s r hr
    simp only [List.mem_cons, List.not_mem_nil, or_false] at hr
    rcases hr with rfl | rfl <;> exact ⟨rfl, List.mem_singleton.2 rfl, rfl, by decide, Nat.le_refl _⟩
  · intro x hx
    simp only [List.mem_cons, List.not_mem_nil, or_false] at hx
    rcases hx with rfl | rfl | rfl | rfl | rfl | rfl <;> exact ⟨⟨by decide, rfl⟩, rfl, by decide, by decide, by decide⟩

/-- The package with BAR0 registers. -/
def withBar (b : Bar0) : State := { (lone bare) with bar0 := b }

/-- The package with queue 63. -/
def withQueue (q : HostQueue) : State := { (lone bare) with queues := vset State.reset.queues 63 q }

/-- The HWIN values that are taken and refused; kicks at the edges of a queue of 16 entries; EN offered and refused; QCTL values at the edges; and
readers asleep, before a packet and inside one. -/
theorem witness_HostRegistersAndQueues :
    ((4 ≠ 8 ∨ 0 % 8 ≠ 0) ∧ (0x110 ≤ 0x110 ∧ 0x110 < 0x10000) ∧ 0x11000 ≤ 0x11000 ∧ (0x00FFFFFFF0000000#64).toNat < 2 ^ 56 ∧
      (0x00FFFFFFF0000000#64).toNat % 2 ^ 28 = 0 ∧ (0x00FFFFFFF0010000#64).toNat % 2 ^ 28 ≠ 0) ∧
    (let q : HostQueue := { ctl := 1, head := 2, tail := 3 }
     let s := withQueue q
     (63 : Nat) < 64 ∧ s.queue 63 = q ∧ bit q.ctl 0 = true ∧ bit q.ctl 2 = false ∧ (18#32 - q.head).toNat = 2 ^ (q.ctl.toNat / 16 % 16 + 4) ∧
       2 ^ (q.ctl.toNat / 16 % 16 + 4) < (19#32 - q.head).toNat ∧ bit (s.queue 62).ctl 0 = false ∧
       bit ((withQueue { ctl := 5 }).queue 63).ctl 2 = true) ∧
    ((withBar { ready := true, featacc0 := 127 }).bar0.en = false ∧ (withBar { ready := true, featacc0 := 127 }).packets = [] ∧ (127#64).toNat < 128 ∧
      (withBar { ready := true, featacc0 := 128 }).bar0.en = false ∧ 128 ≤ (128#64).toNat ∧ (withBar {}).bar0.ready = false) ∧
    (let s := withQueue { ctl := 1, reader := .reading 0 7 }
     (s.queue 63).reader = .reading 0 7 ∧ ((withQueue { ctl := 1, reader := .reading 1 7 }).queue 63).reader = .reading (0 + 1) 7 ∧
       bit (s.queue 63).ctl 0 = true ∧ (s.queue 63).matched = none ∧ (s.queue 63).asked = none ∧
       ((withQueue { ctl := 1, reader := .reading 0 7, matched := some [] }).queue 63).matched = some []) ∧
    Sane (lone bare) ∧
    (let s := withTlb (withQueue { base := 0x10000 }) [page 0x17]
     bit (s.queue 63).ctl 0 = false ∧ Cached s 0 false (s.queue 63).base.toNat 0x2000010000 0x17 ∧ bit (0x17#64) 4 = true ∧
       ((0xB1#64).toNat < 256 ∧ (0xB1#64).toNat / 16 < 12 ∧ bit (0xB1#64) 3 = false ∧ bit (0xB1#64) 2 = false ∧ (s.queue 63).base.toNat % 64 = 0) ∧
       12 ≤ (0xC1#64).toNat / 16 % 16 ∧ 256 ≤ (0x101#64).toNat) := by
  refine ⟨by decide, ⟨by decide, rfl, rfl, rfl, by decide, by decide, rfl, rfl⟩, ⟨rfl, rfl, by decide, rfl, by decide, rfl⟩, ⟨rfl, rfl, rfl, rfl, rfl, rfl⟩, ⟨rfl, rfl⟩,
    rfl, ⟨page 0x17, rfl, rfl, rfl⟩, rfl, by decide, by decide, by decide⟩

/-- HBM with the mailbox asking for an operation. -/
def mailing (op : Nat) : Bytes := Store.setNum (Store.setNum [] (0x2000000000 + 0xC000) 8 op) (0x2000000000 + 0xC018) 8 1

/-- A span table that is valid: package 5, with itself routed nowhere. -/
def span5 : SpanTable := { self := 5, route := List.replicate 4096 255, member := List.replicate 32768 0 }

theorem witness_WindowSpanTableAndMailbox :
    (2 ^ (lone bare).bar0.bar2Log < 2 ^ 28 - 3 + 4 ∧ 2 ^ (lone bare).bar0.bar2Log < 2 ^ 28 - 3 + [0#8, 0#8, 0#8, 0#8].length ∧
      2 ^ (lone bare).bar0.bar2Log < 2 ^ 28 - 3 + 32 / 8) ∧
    (let s : State := { (withTlb (lone bare) [page 0x47]) with bar0 := { hwin := 0, feats := 1 } }
     Sane s ∧ s.bar0.hwin.toNat + 0x1FFF8 < 2 ^ 56 ∧ (s.bar0.hwin.toNat + 0x1FFF8) / 2 ^ 48 ≠ 0xFF ∧
       Cached s 0 false (s.bar0.hwin.toNat + 0x1FFF8) 0x200001FFF8 0x47 ∧ (s.bar0.hwin.toNat + 0x1FFF8) % 65536 + 8 ≤ 65536 ∧
       0x1FFF8 + 8 ≤ 2 ^ s.bar0.bar2Log ∧ bit (0x47#64) 2 = true ∧ bit (0x47#64) 4 = false ∧ bit (0x47#64) 6 = true ∧ bit s.bar0.feats 0 = true ∧
       (s.bar0.hwin.toNat + 0x1FFF8) % (64 / 8) = 0) ∧
    ((withBar { applying := true }).bar0.applying = true ∧ (withBar { applying := true }).remoteBusy = false ∧
      ({ (withBar { applying := true }) with remote := [.finc 5 1 0 1] } : State).remoteBusy = true) ∧
    (∀ op ∈ [0, 5], let s : State := { (lone bare) with hbm := mailing op }
      Sane s ∧ Requested s ⟨1, op, 0, 0⟩ ∧ (op = 0 ∨ 5 ≤ op) ∧
        Requested { s with fleet := { s.fleet with mail := some ⟨7, op, 1, 2⟩ } } ⟨7, op, 1, 2⟩) ∧
    (∀ op ∈ [0, 6, 7], let s : State := withSlot (lone bare) { (slotOf 0) with words := vset (Vector.replicate 8 0#64) 0 (BitVec.ofNat 64 op) }
      (s.slot 0).op ∈ [0, 6, 7]) := by
  refine ⟨by decide, ⟨⟨rfl, rfl⟩, by decide, by decide, ⟨page 0x47, rfl, rfl, rfl⟩, by decide, by decide, rfl, rfl, rfl, rfl, by decide⟩,
    ⟨rfl, by decide, by decide⟩, ?_, ?_⟩
  · intro op h
    simp only [List.mem_cons, List.not_mem_nil, or_false] at h
    rcases h with rfl | rfl <;> exact ⟨⟨by decide, rfl⟩, .inr ⟨rfl, by decide, by decide⟩, by decide, .inl rfl⟩
  · decide

/-- HBM with a span table of package 5 at 0x2000010000: its ROUTE is 255 and every other package is reached on link 0. -/
def tableState : State :=
  { (withTlb (withBar { applying := true, spanTable := 0x10000 }) [page 0x7]) with hbm := [(0x2000010000, 5#8), (0x2000010045, 255#8)] }

theorem tableState_byte (k : Nat) : tableState.readNum 0 .steward false (0x2000010000 + k) 1 = if k = 0 then 5 else if k = 69 then 255 else 0 := by
  have h : tableState.readNum 0 .steward false (0x2000010000 + k) 1 = (Store.get tableState.hbm (0x2000010000 + k)).toNat + 256 * 0 := rfl
  rw [h]
  simp only [tableState, Store.get]
  by_cases h0 : k = 0
  · subst h0; rfl
  · rw [if_neg (by omega), if_neg h0]
    by_cases h1 : k = 69
    · subst h1; rfl
    · rw [if_neg (by omega), if_neg h1]; rfl

/-- A valid span table in a page that the package can reach. -/
theorem witness_WindowSpanTableAndMailbox_table :
    tableState.bar0.applying = true ∧ tableState.remoteBusy = false ∧ Cached tableState 0 false 0x10000 0x2000010000 0x7 ∧
    tableState.readNum 0 .steward false 0x2000010000 8 = 5 ∧ (∀ k, 8 ≤ k → k < 64 → tableState.readNum 0 .steward false (0x2000010000 + k) 1 = 0) ∧
    (∀ k, k < 4096 → tableState.readNum 0 .steward false (0x2000010000 + (64 + k)) 1 < 18 ∨ tableState.readNum 0 .steward false (0x2000010000 + (64 + k)) 1 = 255) ∧
    tableState.readNum 0 .steward false (0x2000010000 + (64 + 5)) 1 = 255 ∧
    (∀ g, g < 64 → tableState.readNum 0 .steward false (0x2000010000 + (4160 + 512 * g + 5 / 8)) 1 / 2 ^ (5 % 8) % 2 = 0) := by
  refine ⟨rfl, by decide, ⟨page 0x7, rfl, rfl, rfl⟩, by decide, ?_, ?_, ?_, ?_⟩
  · intro k h1 h2; rw [tableState_byte, if_neg (by omega), if_neg (by omega)]
  · intro k h; rw [tableState_byte, if_neg (by omega)]; split
    · exact .inr rfl
    · exact .inl (by decide)
  · rw [tableState_byte]; rfl
  · intro g h; rw [tableState_byte, if_neg (by omega), if_neg (by omega)]; all_goals simp

/-- A queue of 16 entries at 0x10000 whose reader is at its nth read; its packet's header is written for a count and a kind. -/
def reading (n : Nat) (seq kind : Nat) : State :=
  { (withTlb (withQueue { base := 0x10000, ctl := 1, head := 17, tail := 18, reader := .reading n 0 }) [page 0x7]) with
    bar0 := { en := true }, hbm := Store.setNum [] 0x2000010040 8 (seq + 65536 * kind) }

theorem witness_QueueReadersAcceptPackets :
    (∀ n ∈ [0, 63, 64], ((reading n 17 4).queue 63).reader = .reading n 0 ∧ 0 ≤ (reading n 17 4).gcyc ∧ (reading n 17 4).bar0.en = true ∧
      bit ((reading n 17 4).queue 63).ctl 0 = true ∧ MatcherRoom (reading n 17 4) ∧ ((reading n 17 4).queue 63).matched = none ∧
      ((reading n 17 4).queue 63).head ≠ ((reading n 17 4).queue 63).tail) ∧
    (∀ x ∈ [(16, 4, 16, 4), (17, 4, 17, 4), (17, 0, 17, 0), (17, 8, 17, 8)],
      let s := reading 63 x.1 x.2.1
      Cached s 0 false ((s.queue 63).base.toNat + 64 * ((s.queue 63).head.toNat % 2 ^ ((s.queue 63).ctl.toNat / 16 % 16 + 4))) 0x2000010040 0x7 ∧
        (s.queue 63).asked = none ∧ natOfBytes ((s.readBytes 0 .steward (bit (0x7#64) 4) 0x2000010040 64).take 2) = x.2.2.1 ∧
        ((s.readBytes 0 .steward (bit (0x7#64) 4) 0x2000010040 64).getD 2 0#8).toNat = x.2.2.2) ∧
    (let s : State := { (reading 0 17 4) with queues := vset State.reset.queues 63 { reader := .reading 0 1 } }
     (s.queue 63).reader = .reading 0 1 ∧ s.gcyc < 1) := by
  refine ⟨?_, ?_, rfl, by decide⟩
  · intro n h
    simp only [List.mem_cons, List.not_mem_nil, or_false] at h
    rcases h with rfl | rfl | rfl <;> exact ⟨rfl, by decide, rfl, rfl, by unfold MatcherRoom; decide, rfl, by decide⟩
  · intro x h
    simp only [List.mem_cons, List.not_mem_nil, or_false] at h
    rcases h with rfl | rfl | rfl | rfl <;> exact ⟨⟨page 0x7, rfl, rfl, rfl⟩, rfl, by decide, by decide⟩

/-- A packet of a kind with fields at byte offsets, accepted on queue 0. -/
def packetOf (kind : Nat) (fs : List (Nat × Nat)) : Packet :=
  { id := 1, queue := 0, count := 0, bytes := fs.foldl (fun xs f => xs.take f.1 ++ bytesOfNat 8 f.2 ++ xs.drop (f.1 + 8)) (bytesOfNat 64 (kind * 65536)) }

/-- The package with packets. -/
def withPackets (ps : List Packet) : State := { (withTlb (lone bare) [page 0x7]) with packets := ps }

/-- A loaded object with a handle and references. -/
def image1 (refs : Nat) : Image :=
  { handle := 9, base := 0x10000, size := 65536, refs := refs, textSize := 65536, trapBytes := [], kernels := [0], pages := [0x2000010000] }

theorem turn_behind (kind k : Nat) (x p : Packet) (h1 : p.kind = kind) (h2 : p.count.toNat = k) (h3 : p.phase = .accepted) (h4 : p.ready = 0)
    (h5 : p.result = none) (h6 : x.phase = .started) (h7 : x.kind ≠ kind) (h8 : x.id ≠ p.id) (h9 : p.kind ≠ 1) (h0 : x.kind ≠ 7) :
    TurnOf (withPackets [x, p]) kind p.queue k p := by
  refine ⟨by simp [State.packet?, withPackets, h8], rfl, h2, h1, ⟨h3, h4 ▸ Nat.zero_le _, h5, fun y hy _ hlt => ?_⟩, fun y hy _ _ hk _ => ?_,
    fun h => absurd (h1.trans h) h9⟩ <;> rcases List.mem_cons.1 hy with rfl | hy
  · exact ⟨.inr (.inl h6), fun h => absurd h h0⟩
  · cases List.mem_singleton.1 hy; exact absurd hlt (Nat.lt_irrefl _)
  · exact absurd hk h7
  · exact List.mem_singleton.1 hy

theorem turn_of (kind k : Nat) (p : Packet) (h1 : p.kind = kind) (h2 : p.count.toNat = k) (h3 : p.phase = .accepted) (h4 : p.ready = 0) (h5 : p.result = none) :
    TurnOf (withPackets [p]) kind p.queue k p := by
  have one (x : Packet) (h : x ∈ (withPackets [p]).packets) : x = p := List.mem_singleton.1 h
  refine ⟨by simp [State.packet?, withPackets], rfl, h2, h1, ⟨h3, h4 ▸ Nat.zero_le _, h5, fun x hx _ hlt => ?_⟩, fun x hx _ _ _ _ => one x hx,
    fun _ x hx _ _ h => ?_⟩
  · rw [one x hx] at hlt; exact absurd hlt (Nat.lt_irrefl _)
  · rw [one x hx, h3] at h; exact PacketPhase.noConfusion h

/-- Every kind in its turn; a LAUNCH behind its LOAD; in the matcher with and without a blocker; handles that live and that do not; a BARRIER with
an earlier packet; SIGNAL; and WAITVAL, before its poll, at it and at its limit. -/
theorem witness_PacketsTakeEffect :
    (∀ k ∈ [1, 2, 3, 4, 5, 6, 7], TurnOf (withPackets [packetOf k [(44, 1)]]) k 0 0 (packetOf k [(44, 1)]) ∧
      (∀ x ∈ (withPackets [packetOf k [(44, 1)]]).packets, x.id = 1) ∧ MatcherRoom (withPackets [packetOf k [(44, 1)]])) ∧
    (let p : Packet := { (packetOf 1 [(16, 9)]) with phase := .object }
     let s (is : List Image) : State := { (withPackets [p]) with images := is }
     (s []).packet? p.id = some p ∧ p.kind = 1 ∧ p.phase = .object ∧ p.result = none ∧ (∀ x ∈ (s []).packets, x = p) ∧
       (s []).image? (p.num 16 4) = none ∧ (s [image1 1]).image? (p.num 16 4) = some (image1 1) ∧ (s [image1 1]).launchBad p false false = none) ∧
    (let p : Packet := { (packetOf 1 []) with arrival := some 1, foot := [⟨2, 0x40, 0x41⟩] }
     let x : Packet := { (packetOf 1 []) with id := 0, arrival := some 0, foot := [⟨1, 0x80, 0x40⟩] }
     (withPackets [p]).packet? p.id = some p ∧ p.arrival ≠ none ∧ p.posted = false ∧ p.result = none ∧ ¬ Blocked (withPackets [p]) p ∧
       (withPackets [p]).ring.length < 256 ∧ (withPackets [x, p]).packet? p.id = some p ∧ Blocked (withPackets [x, p]) p) ∧
    ((packetOf 2 [(40, 9), (44, 1)]).num 44 1 = 1 ∧ ({ (withPackets []) with images := [image1 2] } : State).image? ((packetOf 2 [(40, 9), (44, 1)]).num 40 4) = some (image1 2) ∧
      (withPackets []).image? 9 = none ∧ 2 ≤ (image1 2).refs ∧ (∀ j ∈ [image1 2], j.refs ≠ 0) ∧
      ({ (withPackets []) with images := [image1 2] } : State).image? ((packetOf 3 [(16, 9)]).num 16 4) = some (image1 2)) ∧
    (∀ k ∈ [3, 4, 6],
      let p : Packet := { (packetOf k [(16, 2)]) with id := 2 }
      let x : Packet := { (packetOf 1 []) with phase := .started }
      TurnOf (withPackets [x, p]) k 0 0 p ∧ x ∈ (withPackets [x, p]).packets ∧ x.queue = 0 ∧ x.id < p.id ∧ x.kind = 1) ∧
    (let p := packetOf 6 [(16, 0x10000), (24, 5)]
     let s := withPackets [p]
     TurnOf s 6 0 0 p ∧ p.asked = none ∧ p.num 32 1 = 0 ∧ p.num 16 8 < 2 ^ 56 ∧ p.num 16 8 / 2 ^ 48 ≠ 0xFF ∧ Sane s ∧
       Cached s 0 false (p.num 16 8) 0x2000010000 0x7 ∧ bit (0x7#64) 2 = true ∧ bit (0x3#64) 2 = false) ∧
    (let p : Packet := { (packetOf 7 [(16, 0x10000), (24, 5), (36, 1)]) with phase := .started, poll := 1, limit := some 1 }
     let s (g : Nat) : State := { (withPackets [p]) with gcyc := g }
     (∀ g, Polling (s g) 0 0 p) ∧ (s 0).gcyc < p.poll ∧
       p.poll ≤ (s 1).gcyc ∧ p.asked = none ∧ p.limit = some 1 ∧ Cached (s 1) 0 false (p.num 16 8) 0x2000010000 0x7) := by
  refine ⟨?_, ⟨rfl, rfl, rfl, rfl, by simp [withPackets], rfl, rfl, by decide⟩, ⟨rfl, by decide, rfl, rfl, ?_, by decide, rfl, ?_⟩,
    ⟨by decide, rfl, rfl, by decide, by decide, rfl⟩, ?_,
    ⟨turn_of 6 0 _ rfl rfl rfl rfl rfl, rfl, rfl, by decide, by decide, ⟨rfl, rfl⟩, ⟨page 0x7, by decide, by decide, rfl⟩, rfl, rfl⟩,
    fun g => ⟨rfl, ⟨rfl, rfl, rfl, rfl, rfl⟩, fun x hx _ => List.mem_singleton.1 hx⟩, by decide, by decide, rfl, rfl, page 0x7, by decide, by decide, rfl⟩
  · intro k h
    simp only [List.mem_cons, List.not_mem_nil, or_false] at h
    rcases h with rfl | rfl | rfl | rfl | rfl | rfl | rfl <;>
      exact ⟨turn_of _ 0 _ rfl rfl rfl rfl rfl, fun x hx => List.mem_singleton.1 hx ▸ rfl, by unfold MatcherRoom; decide⟩
  · rintro ⟨x, hx, a, b, ha, hb, hlt, -⟩
    cases List.mem_singleton.1 hx
    rw [ha] at hb; cases hb; exact absurd hlt (Nat.lt_irrefl _)
  · exact ⟨_, .head _, 0, 1, rfl, rfl, by decide, rfl, _, .head _, _, .head _, by decide, by decide, .inr (by decide)⟩
  · intro k h
    simp only [List.mem_cons, List.not_mem_nil, or_false] at h
    rcases h with rfl | rfl | rfl <;>
      exact ⟨turn_behind _ 0 _ _ rfl rfl rfl rfl rfl rfl (by decide) (by decide) (by decide) (by decide), .head _, rfl, by decide, rfl⟩

/-- An object file with a TEXT of one word and nothing else. -/
def smallObject : List Byte :=
  [(4, 0x4C485A47), (2, 1), (2, 0x0E04), (8, 0), (8, 65536), (2, 1), (2, 0), (4, 1), (4, 0), (4, 0), (8, 96), (8, 128), (8, 152), (8, 152), (8, 1), (8, 160),
    (8, 0), (4, 0), (2, 1), (2, 2), (8, 0), (8, 156), (8, 4), (24, 0), (4, 0), (4, 0)].flatMap fun x => bytesOfNat x.1 x.2

/-- The package with a LOAD of a file at an address, for an image at a base, and with the file there. -/
def loading (va base : Nat) (file : List Byte) (m : Bytes) : State × Packet :=
  let p := packetOf 2 [(16, va), (24, file.length), (32, base), (40, 9)]
  ({ (withPackets [p]) with hbm := m ++ ((List.range file.length).map fun k => (0x2000010000 + k, file.getD k 0#8)).filter fun x => x.2 != 0#8 }, p)

theorem loaded_of (x : Except LoadError Loaded) (h : (match x with | .ok l => l.size / 65536 == 1 | .error _ => false) = true) :
    ∃ l, x = .ok l ∧ l.size / 65536 = 1 := by
  cases x with
  | ok l => exact ⟨l, rfl, eq_of_beq h⟩
  | error e => exact Bool.noConfusion h

theorem failed_of (x : Except LoadError Loaded) (y : LoadError) (h : (match x with | .ok _ => false | .error e => e == y) = true) : x = .error y := by
  cases x with
  | ok l => exact Bool.noConfusion h
  | error e => exact congrArg Except.error (eq_of_beq h)

/-- A LOAD of a file that is no object, and of one that is, at a place where nothing is mapped and where something is; and at an address that is none. -/
theorem witness_PacketsTakeEffect_load :
    (∀ x ∈ [loading 0x10000 0x20000 smallObject [], loading (2 ^ 56) 0x20000 smallObject [], loading 0x10000 0x10000 smallObject (treeOf 0x2000010005),
        loading 0x10000 0x20000 (bytesOfNat 64 0) []],
      TurnOf x.1 2 0 0 x.2 ∧ x.2.num 44 1 = 0 ∧ x.1.image? (x.2.num 40 4) = none ∧ x.2.asked = none ∧ 0 < x.2.num 24 8) ∧
    (∀ x ∈ [loading 0x10000 0x20000 smallObject [], loading 0x10000 0x10000 smallObject (treeOf 0x2000010005)],
      x.2.num 16 8 < 2 ^ 56 ∧ x.2.num 16 8 / 2 ^ 48 ≠ 0xFF ∧ x.2.num 16 8 % 65536 + x.2.num 24 8 ≤ 65536 ∧
        Cached x.1 0 false (x.2.num 16 8) 0x2000010000 0x7 ∧ x.1.readBytes 0 .steward false 0x2000010000 (x.2.num 24 8) = smallObject ∧
        ∃ l, loadObject smallObject (x.2.num 32 8) = .ok l ∧ l.size / 65536 = 1) ∧
    (let x := loading 0x10000 0x20000 smallObject []
     Absent x.1 0 (x.2.num 32 8 + 65536 * 0) 0) ∧
    (let x := loading 0x10000 0x20000 smallObject []
     let s : State := { x.1 with pool := [(0x40000000, 0x40000)] }
     Sane s ∧ Ample s 1 ∧ ∀ r ∈ s.pool, ∀ j level u, j < 1 → Reaches s 0 (x.2.num 32 8 + 65536 * j) level u → u + 8192 ≤ r.1 ∨ r.1 + r.2 ≤ u) ∧
    (let x := loading 0x10000 0x10000 smallObject (treeOf 0x2000010005)
     Finds x.1 0 (x.2.num 32 8) (2 ^ 16) 0x2000010000 0x2000010005#64) ∧
    (let x := loading 0x10000 0x20000 (bytesOfNat 64 0) []
     loadObject (x.1.readBytes 0 .steward false 0x2000010000 (x.2.num 24 8)) (x.2.num 32 8) = .error (1, 0)) := by
  have turn (va base : Nat) (f : List Byte) (m : Bytes) : TurnOf (loading va base f m).1 2 0 0 (loading va base f m).2 :=
    turn_of 2 0 (loading va base f m).2 rfl rfl rfl rfl rfl
  refine ⟨?_, ?_, ⟨0, .root, by decide +kernel⟩, ⟨⟨by decide +kernel, rfl⟩, ⟨by decide, by simp, by simp⟩, ?_⟩, ⟨3, 0x104000, ?_, by decide +kernel, by unfold NamesPage; decide⟩,
    failed_of _ _ (by decide +kernel)⟩
  · intro x h
    simp only [List.mem_cons, List.not_mem_nil, or_false] at h
    rcases h with rfl | rfl | rfl | rfl <;> exact ⟨turn _ _ _ _, by decide +kernel, rfl, rfl, by decide +kernel⟩
  · intro x h
    simp only [List.mem_cons, List.not_mem_nil, or_false] at h
    rcases h with rfl | rfl <;>
      exact ⟨by decide +kernel, by decide +kernel, by decide +kernel, ⟨page 0x7, by decide +kernel, by decide +kernel, rfl⟩, by decide +kernel,
        loaded_of _ (by decide +kernel)⟩
  · intro r hr j level u hj h
    cases List.mem_singleton.1 hr
    cases Nat.lt_one_iff.1 hj
    have only : level = 0 ∧ u = 0 := by
      induction h with
      | root => exact ⟨rfl, rfl⟩
      | next _ _ n ih =>
        obtain ⟨rfl, rfl⟩ := ih
        have e : Claims.entryAt { (loading 0x10000 0x20000 smallObject []).1 with pool := [(0x40000000, 0x40000)] } 0
            (entryPlace ((loading 0x10000 0x20000 smallObject []).2.num 32 8 + 65536 * 0) 0 0) = 0#64 := by decide +kernel
        exact absurd n.1 (by rw [e]; decide)
    rw [only.2]; exact .inl (by decide)
  · exact tree_reaches _ (by decide +kernel) (by decide +kernel) (by decide +kernel)

/-- A record with an OP and a STATE. -/
def bell (op state : Nat) : Vector U64 8 := vset (Vector.replicate 8 0#64) 0 (BitVec.ofNat 64 (op + 16 * state))

/-- Slot 0 with an OP and a STATE, and a task or none. -/
def doorbell (op state : Nat) (t : Option Task) : State := withSlot (lone bare) { words := bell op state, task := t }

theorem bell_fields (op n : Nat) (ho : op ∈ [1, 2, 3, 4, 5]) (hn : n ∈ [0, 1, 2, 3, 4, 5, 6, 7]) :
    let b : BindSlot := { words := bell op n }
    ¬ ReservedSet b ∧ ¬ OffGrid b ∧ ¬ OutOfService (lone bare) b ∧ recordField b 4 24 8 + (recordField b 4 32 8 + 1) ≤ 256 ∧ areaStart b = 0 ∧
      areaCount b = 2181 ∧ b.save = 0 ∧ b.w * b.h = 1 ∧ b.home = 0 ∧ b.op = op ∧ b.state = n := by
  simp only [List.mem_cons, List.not_mem_nil, or_false] at ho hn
  unfold ReservedSet OffGrid OutOfService
  rcases ho with rfl | rfl | rfl | rfl | rfl <;> rcases hn with rfl | rfl | rfl | rfl | rfl | rfl | rfl | rfl <;> decide +kernel

/-- A task on panel 0, loaded at wall cycle 0, with its reduce regions kept. -/
def task1 : Task := { bind := [], packet := none, panels := [0], loaded := some 0, kept := true, reserve := some [(0x10000, [1])] }

/-- A task that was saved, and is being restored. -/
def task2 : Task := { task1 with restoring := true, saved := some ⟨[bare], [], false⟩ }

/-- Slot 0 with a word of its record. -/
def record (word x : Nat) : BindSlot := { words := vset (vset (Vector.replicate 8 0#64) 0 1#64) word (BitVec.ofNat 64 x) }

/-- No slot but 0 holds a task. -/
theorem no_task (s : State) (b : BindSlot) (h : s.slots = Vector.replicate 64 {}) (x : Task) (j : Nat) (h0 : j ≠ 0) :
    ((withSlot s b).slot j).task ≠ some x := by
  intro e
  have n : (withSlot s b).slot j = {} := by
    have : vget {} (vset s.slots 0 b) j = vget {} s.slots j := by
      simp only [vget, vset, Vector.toList_mk, List.getD_eq_getElem?_getD, List.getElem?_set_ne h0.symm]
    have g : (withSlot s b).slot j = vget {} s.slots j := this
    rw [g, h]
    rcases replicate_get 64 ({} : BindSlot) {} j with g | g <;> exact g
  rw [n] at e
  cases e

theorem alone (s : State) (b : BindSlot) (h : s.slots = Vector.replicate 64 {}) (x : Task) : ¬ Elsewhere (withSlot s b) 0 x :=
  fun ⟨j, _, h0, _, e⟩ => no_task s b h x j h0 e

/-- The record of slot 0 is placed. -/
theorem placed (s : State) (b : BindSlot) (h : s.slots = Vector.replicate 64 {}) (h1 : ¬ ReservedSet b) (h2 : ¬ OffGrid b) (h3 : ¬ OutOfService (withSlot s b) b)
    (h4 : recordField b 4 24 8 + (recordField b 4 32 8 + 1) ≤ 256) : Placement (withSlot s b) 0 b 0 :=
  have n4 : ¬ Overlaps (withSlot s b) 0 b := fun ⟨_, _, x, e, _⟩ => alone s b h x e
  have n5 : ¬ FlagsMeet (withSlot s b) 0 b := fun e => e.elim (fun g => absurd h4 (Nat.not_le.2 g)) fun ⟨x, e, _⟩ =>
    e.elim (alone s b h x) fun ⟨j, _, h0, g, _⟩ => no_task s b h x j h0 g
  ⟨fun e => absurd e h1, fun _ e => absurd e h2, fun _ _ e => absurd e h3, fun _ _ _ e => absurd e n4, fun _ _ _ _ e => absurd e n5, fun _ _ _ _ _ => rfl⟩

/-- The pages of the save area of one panel at 0, as the wide translation gives them. -/
theorem wide_there (s : State) (b : BindSlot) (h : s.sheet 0 = { tlb := [wide] }) (h0 : areaStart b = 0) (h1 : areaCount b = 2181) :
    AreaThere s b ((List.range 2181).map fun i => 2 ^ 30 + 65536 * i) := by
  refine ⟨by simp [h1], fun i hi => ⟨0x40000205, ⟨wide, ?_, ?_, rfl⟩, by decide, by decide⟩⟩
  · rw [h, h0]
    simp [tlbFind, wide]; omega
  · rw [h1] at hi
    simp [List.getD_eq_getElem?_getD, hi, h0, wide]

/-- The records that are refused for each REASON, and one that is placed; save areas that are there, that are not, and that are not writable. -/
theorem witness_DoorbellsOfDispatch_placement :
    ReservedSet (record 0 9) ∧ (OffGrid (record 4 0x10F) ∧ ¬ ReservedSet (record 4 0x10F)) ∧ ¬ OffGrid (record 4 0xF) ∧
    (let s : State := { (lone bare) with fleet := { State.reset.fleet with survey := vset State.reset.fleet.survey 0 { suspect := 1 } } }
     OutOfService s (record 4 0) ∧ ¬ OffGrid (record 4 0) ∧ ¬ ReservedSet (record 4 0)) ∧
    (let s : State := { (lone bare) with slots := vset State.reset.slots 63 { words := vset (Vector.replicate 8 0#64) 0 0x20#64, task := some task1 } }
     Overlaps s 0 (record 4 0) ∧ FlagsMeet s 0 (record 4 1) ∧ ¬ OutOfService s (record 4 0)) ∧
    (let s : State := { (lone bare) with slots := vset State.reset.slots 63 { words := vset (Vector.replicate 8 0#64) 0 0x70#64, task := some task1 } }
     FlagsMeet s 0 (record 4 0)) ∧
    FlagsMeet (lone bare) 0 (record 4 0x1FF000000) ∧
    (∀ op ∈ [1, 2], ∀ n ∈ [0, 4, 5, 6, 7], ∀ t, Placement (doorbell op n t) 0 ((doorbell op n t).slot 0) 0 ∧
      AreaThere (doorbell op n t) ((doorbell op n t).slot 0) ((List.range 2181).map fun i => 2 ^ 30 + 65536 * i) ∧
      (∃ ps, (doorbell op n t).savePages ((doorbell op n t).slot 0) = (some ps, doorbell op n t)) ∧
      Store.wf ((doorbell op n t).sheet ((doorbell op n t).slot 0).home).flags = true) ∧
    (let s : State := { (doorbell 1 0 none) with sheets := State.reset.sheets }
     (s.savePages (s.slot 0)).1 = none) ∧
    (let s : State := { (doorbell 1 0 none) with sheets := vset State.reset.sheets 0 { tlb := [{ wide with leaf := 0x40000201 }] } }
     AreaBad s (s.slot 0)) := by
  refine ⟨by unfold ReservedSet; decide, ⟨by unfold OffGrid; decide, by unfold ReservedSet; decide⟩, by unfold OffGrid; decide,
    ⟨by unfold OutOfService; decide, by unfold OffGrid; decide, by unfold ReservedSet; decide⟩,
    ⟨⟨0, by decide, task1, ⟨63, by decide, by decide, .inr (.inl (by decide)), rfl⟩, by decide⟩,
      .inr ⟨task1, .inl ⟨63, by decide, by decide, .inr (.inl (by decide)), rfl⟩, by decide, by decide, by decide⟩, by unfold OutOfService; decide⟩,
    .inr ⟨task1, .inr ⟨63, by decide, by decide, rfl, rfl⟩, by decide, by decide, by decide⟩, .inl (by decide), ?_, ?_, 0, by decide, fun j h => absurd h (Nat.not_lt_zero j), _, 0x40000201, ⟨{ wide with leaf := 0x40000201 }, rfl, rfl, rfl⟩, .inl rfl⟩
  · intro op ho n hn t
    obtain ⟨h1, h2, h3, h4, h5, h6, h7, h8, h9, -⟩ := bell_fields op n (List.mem_of_mem_take (i := 2) ho) (by revert hn; revert n; decide)
    have slot : (doorbell op n t).slot 0 = { words := bell op n, task := t } := rfl
    rw [slot]
    refine ⟨placed (lone bare) _ rfl h1 h2 h3 h4, wide_there _ _ rfl h5 h6, slot_area (lone bare) _ _ h7 h8, ?_⟩
    rw [show ({ words := bell op n, task := t } : BindSlot).home = 0 from h9]
    rfl
  · intro s
    have e : s.savePages (s.slot 0) = (none, s) := by
      rw [State.savePages, show (s.slot 0).w * (s.slot 0).h = 1 from (bell_fields 1 0 (by decide) (by decide)).2.2.2.2.2.2.2.1, show areaPageCount 1 = 2180 + 1 from of_decide_eq_true rfl]
      exact no_area s rfl rfl rfl _ 2180
    rw [e]

/-- A memory that holds the area of a task of one panel with TASKID 0, with its digest, from 2^30 on. -/
def digested : Bytes := withDigest [(0, 1#8), (4, 1#8)] 1

theorem keys_set (m : Bytes) (a : Nat) (v : Byte) (x : Nat × Byte) (h : x ∈ Store.set m a v) : x ∈ m ∨ x.1 = a := by
  have push (m : Bytes) (h : x ∈ Store.push a v m) : x ∈ m ∨ x.1 = a := by
    rw [Store.push] at h
    split at h
    · exact .inl h
    · rcases List.mem_cons.1 h with rfl | h
      · exact .inr rfl
      · exact .inl h
  induction m with
  | nil => exact push [] h
  | cons e m ih =>
    rw [Store.set] at h
    split at h
    · exact push _ h
    · split at h
      · exact (push _ h).imp (List.mem_cons_of_mem _) id
      · rcases List.mem_cons.1 h with rfl | h
        · exact .inl (.head _)
        · exact (ih h).imp (List.mem_cons_of_mem _) id

theorem keys_setList (xs : List Byte) (m : Bytes) (a b : Nat) (ha : a + xs.length ≤ b) (hm : ∀ x ∈ m, x.1 < b) : ∀ x ∈ Store.setList m a xs, x.1 < b := by
  induction xs generalizing m a with
  | nil => exact hm
  | cons v xs ih =>
    rw [List.length_cons] at ha
    refine ih (Store.set m a v) (a + 1) (by omega) fun x hx => ?_
    rcases keys_set m a v x hx with h | h
    · exact hm x h
    · omega

theorem digested_keys : ∀ x ∈ digested, x.1 < 0x80 :=
  keys_setList _ _ _ _ (by rw [length_bytesOfNat] <;> decide) (by decide)

theorem digested_below (n : Nat) (h : n < 0x40) : Store.get digested n = Store.get [(0, 1#8), (4, 1#8)] n := by
  rw [digested, withDigest, Store.get_setList _ (by decide), dif_neg (by omega)]
  rfl

theorem filter_set (p : Nat × Byte → Bool) (m : Bytes) (a : Nat) (v : Byte) (h : ∀ y, p (a, y) = false) : (Store.set m a v).filter p = m.filter p := by
  have push (m : Bytes) : (Store.push a v m).filter p = m.filter p := by
    rw [Store.push]
    split
    · rfl
    · rw [List.filter_cons_of_neg (by rw [h]; exact Bool.false_ne_true)]
  induction m with
  | nil => exact push []
  | cons e m ih =>
    rw [Store.set]
    split
    · exact push _
    · split
      · rename_i g
        obtain ⟨k, y⟩ := e
        cases g
        rw [push, List.filter_cons_of_neg (by rw [h]; exact Bool.false_ne_true)]
      · simp only [List.filter_cons, ih]

theorem filter_setList (p : Nat × Byte → Bool) (xs : List Byte) (m : Bytes) (a : Nat) (h : ∀ b y, a ≤ b → b < a + xs.length → p (b, y) = false) :
    (Store.setList m a xs).filter p = m.filter p := by
  induction xs generalizing m a with
  | nil => rfl
  | cons v xs ih =>
    rw [List.length_cons] at h
    rw [Store.setList, ih _ _ fun b y h1 h2 => h b y (by omega) (by omega), filter_set p m a v fun y => h a y (by omega) (by omega)]

theorem digested_digest : BitVec.ofNat 512 (Store.num digested 0x40 64) = areaDigest digested 1 := by
  have e : undigested digested = undigested [(0, 1#8), (4, 1#8)] := by
    rw [undigested, digested, withDigest, filter_setList]
    · rfl
    · intro b y h1 h2
      rw [length_bytesOfNat] at h2
      simp; omega
  rw [areaDigest, e]
  have n := Store.num_setNum (m := undigested [(0, 1#8), (4, 1#8)]) (a := 0x40) (n := 64) (x := (areaDigest [(0, 1#8), (4, 1#8)] 1).toNat) (by decide)
  rw [Store.setNum] at n
  have big : (256 : Nat) ^ 64 = 2 ^ 512 := by rw [show 256 = 2 ^ 8 from rfl, ← Nat.pow_mul]
  have lt : (areaDigest [(0, 1#8), (4, 1#8)] 1).toNat < 256 ^ 64 := by rw [big]; exact BitVec.isLt _
  rw [digested, withDigest, n, Nat.mod_eq_of_lt lt, BitVec.ofNat_toNat, BitVec.setWidth_eq, areaDigest]

/-- The bytes of an area that lies in the first of its pages. -/
theorem first_page (B : Nat) (A : Bytes) (n : Nat) (hA : ∀ x ∈ A, x.1 < 65536) (s : State) (hw : s.writes = []) (hs : s.hbm = shiftBlock (B) A) :
    s.areaIn ((List.range (n + 1)).map fun i => B + 65536 * i) = A := by
  have hf : s.flush.hbm = shiftBlock (B) A := by rw [← hs, State.flush, hw]; rfl
  have none (k : Nat) (ls : List Bytes) (h : ∀ l ∈ ls, l = []) : (mapFrom (fun k x => shiftBlock (65536 * k) x) k ls).flatten = [] := by
    induction ls generalizing k with
    | nil => rfl
    | cons l ls ih =>
      rw [mapFrom, h l (.head _), List.flatten_cons, ih _ fun x hx => h x (.tail _ hx)]
      rfl
  rw [State.areaIn, hf, List.range_succ_eq_map, List.map_cons, List.map_cons, blocks, mapFrom, List.flatten_cons, none]
  · have all : (shiftBlock (B) A).filter (fun x => decide (B + 65536 * 0 ≤ x.1) && decide (x.1 < B + 65536 * 0 + 65536)) = shiftBlock (B) A := by
      rw [List.filter_eq_self]
      intro x hx
      obtain ⟨y, hy, rfl⟩ := List.mem_map.1 hx
      have := hA y hy
      simp; omega
    rw [all]
    simp [shiftBlock, Function.comp_def]
  · intro l hl
    simp only [List.mem_map] at hl
    obtain ⟨_, ⟨_, ⟨i, -, rfl⟩, rfl⟩, rfl⟩ := hl
    rw [List.map_eq_nil_iff, List.filter_eq_nil_iff]
    intro x hx
    obtain ⟨y, hy, rfl⟩ := List.mem_map.1 hx
    have := hA y hy
    simp; omega

/-- A save area that passes the checks of RESTORE, and one that does not. -/
theorem witness_DoorbellsOfDispatch_area :
    let s : State := { (doorbell 2 4 (some task2)) with hbm := shiftBlock (2 ^ 30) digested }
    let ps := (List.range 2181).map fun i => 2 ^ 30 + 65536 * i
    s.areaPasses (s.slot 0) ps = true ∧ ({ s with hbm := [] } : State).areaPasses (s.slot 0) ps = false ∧ AreaThere s (s.slot 0) ps := by
  intro s ps
  obtain ⟨-, -, -, -, h5, h6, -, h8, -⟩ := bell_fields 2 4 (by decide) (by decide)
  have slot : s.slot 0 = { words := bell 2 4, task := some task2 } := rfl
  have h8' : (s.slot 0).w * (s.slot 0).h = 1 := h8
  have num (a n : Nat) (h : a + n ≤ 0x40) : Store.num digested a n = Store.num [(0, 1#8), (4, 1#8)] a n := by
    have g (k a : Nat) (h : a + k ≤ 0x40) : Store.getList digested a k = Store.getList [(0, 1#8), (4, 1#8)] a k := by
      induction k generalizing a with
      | zero => rfl
      | succ k ih => rw [Store.getList, Store.getList, digested_below a (by omega), ih (a + 1) (by omega)]
    rw [Store.num, g n a h, Store.num]
  have passes (t : State) : t.areaPasses (s.slot 0) ps = (Store.num (t.areaIn ps) 0 4 == 1 && Store.num (t.areaIn ps) 4 2 == 1 &&
      Store.num (t.areaIn ps) 8 8 == 0 && BitVec.ofNat 512 (Store.num (t.areaIn ps) 0x40 64) == areaDigest (t.areaIn ps) 1) := by
    rw [State.areaPasses, h8']
    rfl
  refine ⟨?_, ?_, ?_⟩
  · rw [passes, first_page (2 ^ 30) digested 2180 (fun x hx => Nat.lt_trans (digested_keys x hx) (by decide)) s rfl rfl, num 0 4 (by decide), num 4 2 (by decide), num 8 8 (by decide), digested_digest]
    simp; decide
  · rw [passes, first_page (2 ^ 30) [] 2180 (by simp) { s with hbm := [] } rfl rfl]
    rfl
  · rw [slot]
    exact wide_there s _ rfl h5 h6

/-- START, RESTORE, PREEMPT, FORCE and ABORT in the states that take and that refuse them; and the ends of a fresh load and of a restoring one,
before their time and at it. -/
theorem witness_DoorbellsOfDispatch :
    (∀ op ∈ [1, 2, 3, 4, 5], ∀ n ∈ [0, 1, 2, 3, 4, 5, 6, 7], ∀ t, Rung (doorbell op n t) 0 op ∧ ((doorbell op n t).slot 0).state = n ∧
      ((doorbell op n t).slot 0).task = t ∧ ¬ ReservedSet ((doorbell op n t).slot 0)) ∧
    (∀ op ∈ [3, 4, 5], ∀ n ∈ [1, 2, 3, 4], ReservedSet { words := vset (Vector.replicate 8 0#64) 0 (BitVec.ofNat 64 (op + 8 + 16 * n)) }) ∧
    task1.ending = none ∧ task2.ending = none ∧ task2.saved = some ⟨[bare], [], false⟩ ∧
    (∀ c ∈ [bare], c.index < (fieldOf (task2.bind.getD 4 0#64) 8 4 + 1) * (fieldOf (task2.bind.getD 4 0#64) 12 4 + 1)) ∧ Sane (doorbell 1 7 (some task1)) ∧
    (let s := doorbell 3 2 (some task1)
     bare ∈ s.ctxs ∧ bare.id.slot = 0 ∧ bare.finished = false ∧ (doorbell 0 1 (some { task1 with loaded := some 1 })).gcyc < 1) ∧
    (∀ t ∈ [task1, task2], let s : State := { (withTlb (doorbell 0 1 (some t)) [page 0xF]) with images := [{ (image1 1) with handle := 0 }] }
     (s.slot 0).state = 1 ∧ (s.slot 0).task = some t ∧ t.loaded = some 0 ∧ 0 ≤ s.gcyc ∧ (t.bind.getD 5 0#64).toNat ≤ s.gcyc + 1 ∧ t.kept = true ∧
       t.asked = none ∧ s.boundImage t = some { (image1 1) with handle := 0 } ∧ (image1 1).textSize = 65536 ∧
       (image1 1).base.toNat % 65536 = 0 ∧ Cached s 0 false (image1 1).base.toNat 0x2000010000 0xF ∧
       Store.wf (s.sheet (fieldOf (t.bind.getD 4 0#64) 16 3)).flags = true) ∧
    (let t : Task := { task1 with bind := [0, 0, 0, 0, 0, 2] }
     let s := doorbell 0 1 (some t)
     (s.slot 0).task = some t ∧ t.kept = true ∧ s.gcyc + 1 < (t.bind.getD 5 0#64).toNat) := by
  refine ⟨fun op ho n hn t => ?_, by unfold ReservedSet; decide, rfl, rfl, rfl, by decide, ⟨rfl, rfl⟩, ⟨List.mem_singleton.2 rfl, rfl, rfl, by decide⟩, fun t h => ?_,
    rfl, rfl, by decide⟩
  · obtain ⟨h1, -, -, -, -, -, -, -, -, h2, h3⟩ := bell_fields op n ho hn
    exact ⟨⟨by decide, h2⟩, h3, rfl, h1⟩
  · simp only [List.mem_cons, List.not_mem_nil, or_false] at h
    rcases h with rfl | rfl <;> exact ⟨by decide, rfl, rfl, by decide, by decide, rfl, rfl, rfl, rfl, by decide, ⟨page 0xF, rfl, rfl, rfl⟩, rfl⟩

/-- The package with link 17. -/
def withLink (l : Link) : State := { (lone bare) with links := vset State.reset.links 17 l }

/-- Links down, up and given up; a grant that is held and one that is not, and flags at the edge of its partition; a page that takes remote writes and
one of host memory; and training with and without feature 4. -/
theorem witness_SpanTraffic :
    ((17 : Nat) < 18 ∧ (vget {} (withLink {}).links 17).up = false ∧ (vget {} (withLink { up := true }).links 17).up = true) ∧
    (let s : State := { (withLink { up := true }) with spanTable := some { self := 5, route := [17], member := [] }, remote := [.finc 0 1 0 1] }
     let j : Job := { (jobIn 1 .running) with acks := 1 }
     let t : State := { s with remote := [.write 0 false 1 0x20000 [7]], sheets := vset State.reset.sheets 7 { ({} : Sheet) with jobs := [j] } }
     s.remote = .finc 0 1 0 1 :: [] ∧ s.linkTo 0 = some 17 ∧ t.remote = .write 0 false 1 0x20000 [7] :: [] ∧ t.linkTo 0 = some 17 ∧
       t.findJob 1 = some (7, j)) ∧
    (let x : Task := { task1 with grant := 3, since := 1, bind := [0, 0, 0, 0, 0xF00000000] }
     let s := doorbell 0 2 (some x)
     s.granted 3 = some (0, x) ∧ s.granted 4 = none ∧ (BindSlot.partition x.bind).2.2 = 16 ∧ x.saved = none ∧ (BindSlot.partition x.bind).1 < 8 ∧
       Store.wf (s.sheet (BindSlot.partition x.bind).1).flags = true ∧
       (let y : Task := { x with saved := some ⟨[bare], [], false⟩ }
        (doorbell 0 4 (some y)).granted 3 = some (0, y) ∧ Store.wf ([] : Store 32) = true)) ∧
    (∀ leaf ∈ [0x7#64, 0x3#64, 0x17#64], let s := withTlb (lone bare) [{ (page leaf) with span := true }]
      Sane s ∧ Cached s 0 true (0x1FFFC#64).toNat 0x200001FFFC leaf ∧ (0x1FFFC#64).toNat < 2 ^ 56 ∧ (0x1FFFC#64).toNat / 2 ^ 48 ≠ 0xFF ∧
        (0x1FFFC#64).toNat % 65536 + [1#8, 2#8, 3#8, 4#8].length ≤ 65536) ∧
    ((let s := withBar { en := true, feats := 16 }
      s.bar0.en = true ∧ bit s.bar0.feats 4 = true ∧ s.boot.noSpan = false) ∧ (withBar {}).bar0.en = false ∧ (vget {} (withLink {}).links 17).downSince = none ∧
     (let s : State := { (withLink { downSince := some 5 }) with gcyc := 105000005 }
      (vget {} s.links 17).downSince = some 5 ∧ 5 + 105000000 ≤ s.gcyc ∧ s.remote = [] ∧ ∀ n, n < 8 → (s.sheet n).jobs = []) ∧
     (let s : State := { (withLink { downSince := some 5 }) with gcyc := 105000004 }
      (vget {} s.links 17).downSince = some 5 ∧ s.gcyc < 5 + 105000000)) := by
  refine ⟨by decide, ⟨rfl, rfl, rfl, rfl, rfl⟩, ⟨by decide, by decide, by decide, rfl, by decide, rfl, rfl, rfl⟩, ?_, ⟨rfl, by decide, rfl⟩, rfl, rfl, ⟨rfl, by decide, rfl, by decide⟩, rfl,
    by decide⟩
  intro leaf h
  simp only [List.mem_cons, List.not_mem_nil, or_false] at h
  rcases h with rfl | rfl | rfl <;> exact ⟨⟨rfl, rfl⟩, ⟨{ (page _) with span := true }, rfl, rfl, rfl⟩, by decide, by decide, by decide⟩

/-- The package with a survey record for panel 255. -/
def withSurvey (x : Survey) : State := { (lone bare) with fleet := { State.reset.fleet with survey := vset State.reset.fleet.survey 255 x } }

/-- Samples before their time and at it; a panel that is suspect and one whose screen ends; a HOLD of an unbound and of a bound panel; capture begun
with and without its feature; every mailbox operation; and a boot step before it runs, running, and at its limit. -/
theorem witness_StewardPowerFleetAndBoot :
    ((let s : State := { (lone bare) with fleet := { State.reset.fleet with powerAt := 1, thermalAt := 1 } }
      s.gcyc < s.fleet.powerAt ∧ s.gcyc < s.fleet.thermalAt) ∧ (lone bare).fleet.powerAt ≤ (lone bare).gcyc ∧
      (lone bare).fleet.thermalAt ≤ (lone bare).gcyc ∧ ((lone bare).island 63).band = 0 ∧ (lone bare).island 63 = (lone bare).island 0) ∧
    (let s := withSurvey { state := 1 }
     (255 : Nat) < 256 ∧ (s.survey 255).state = 1 ∧ ((withSurvey { suspect := 1 }).survey 255).suspect ≠ 0#16 ∧ s.unbound 255 = true ∧ ((withSurvey { state := 2, screenEnd := 0 }).survey 255).state = 2 ∧
       ((withSurvey { state := 2, screenEnd := 0 }).survey 255).screenEnd ≤ (withSurvey {}).gcyc) ∧
    (let s (p : Nat) : State := { (doorbell 0 2 (some task1)) with fleet := { State.reset.fleet with operatorWaits := [(p, 1)] } }
     (s 255).fleet.operatorWaits = [(255, 1)] ∧ (s 255).unbound 255 = true ∧ ((s 255).survey 255).state ≠ 3 ∧ (s 0).unbound 0 = false ∧
       (s 0).stewardRead ((s 0).fleet.page + 0x8048) 8 = (s 0).fleet.operatorSeq ∧ ((withSurvey { state := 4 }).survey 255).state = 4 ∧
       (let t : State := { (s 0) with fleet := { State.reset.fleet with operatorSeq := 1 } }
        t.stewardRead (t.fleet.page + 0x8048) 8 ≠ t.fleet.operatorSeq ∧ t.stewardRead (t.fleet.page + 0x8040) 2 = 0 ∧ t.unbound 0 = false ∧
          ∀ x ∈ t.fleet.operatorWaits, t.unbound x.1 = false)) ∧
    (let s (f : U64) : State := { (hbmNum (withBar { feats := f }) (0x2000000000 + 0x8000) 1) with fleet := State.reset.fleet }
     (s 8).stewardRead ((s 8).fleet.page + 0x8000) 8 % 2 = 1 ∧ (s 8).fleet.captureEn = false ∧ bit (s 8).bar0.feats 3 = true ∧
       (s 8).stewardRead ((s 8).fleet.page + 0x8010) 8 % 64 = 0 ∧ (s 8).stewardRead ((s 8).fleet.page + 0x8018) 8 % 64 = 0 ∧
       bit (s 0).bar0.feats 3 = false) ∧
    (∀ op ∈ [1, 2, 3, 4], let s : State := { (lone bare) with hbm := Store.setNum (mailing op) (0x2000000000 + 0xC010) 8 (2 ^ 26 + 1) }
      Sane s ∧ Requested s ⟨1, op, 0, 2 ^ 26 + 1⟩) ∧
    ((lone bare).boot.step = some (0, false, 0) ∧ (lone bare).boot.running = false ∧ (lone bare).flash.alternate 0 = false ∧
      (lone bare).flash.journal.length < 4096 ∧
      (let s (g : Nat) : State := { (lone bare) with boot := { State.reset.boot with running := true }, gcyc := g }
       (s 0).boot.running = true ∧ (s 10499999999).gcyc < 0 + 10500000000 ∧ 0 + 10500000000 ≤ (s 10500000000).gcyc) ∧
      ∀ k ∈ [1, 2, 3, 4, 5], let s : State := { (lone bare) with
          boot := { State.reset.boot with step := some (k, false, 0) }, flash := { State.reset.flash with journal := [{ bootno := 0, step := k, kind := 1 }] } }
        s.boot.step = some (k, false, 0) ∧ s.boot.running = false ∧ s.flash.alternate k = true ∧ s.flash.journal.length < 4096) := by
  refine ⟨by decide, by decide, ⟨rfl, by decide, by decide, by decide, by decide, rfl, by decide, by decide, by decide, by decide⟩, ⟨by decide, rfl, by decide, by decide, by decide, by decide⟩, ?_,
    rfl, rfl, rfl, by decide, ⟨rfl, by decide, by decide⟩, by decide⟩
  intro op h
  simp only [List.mem_cons, List.not_mem_nil, or_false] at h
  rcases h with rfl | rfl | rfl | rfl <;> exact ⟨⟨by decide, rfl⟩, .inr ⟨rfl, by decide, by decide⟩⟩

/-- An image of 8 bytes offered to STAGE. -/
theorem witness_StewardPowerFleetAndBoot_stage :
    let s : State := { (withTlb (lone bare) [page 0x7]) with
      hbm := Store.setNum (Store.setNum (mailing 2) (0x2000000000 + 0xC010) 8 8) (0x2000000000 + 0xC008) 8 0x1FFF8 }
    Sane s ∧ Requested s ⟨1, 2, 0x1FFF8, 8⟩ ∧
      Cached s 0 false 0x1FFF8 0x200001FFF8 0x7 ∧ 0x1FFF8 % 65536 + 8 ≤ 65536 ∧ s.fleet.mailAsked = none := by
  refine ⟨⟨by decide, rfl⟩, .inr ⟨rfl, by decide, by decide⟩, ⟨page 0x7, rfl, rfl, rfl⟩, by decide, rfl⟩

/-- A step from reset, and one of a context that issues. -/
theorem witness_MemoriesKeepTheirForm :
    (∃ t, Sane State.reset ∧ step State.reset = .next t) ∧ ∃ t, Sane (State.reset.withFetchWord 32 addWord) ∧ step (State.reset.withFetchWord 32 addWord) = .next t :=
  ⟨⟨_, ⟨rfl, rfl⟩, rfl⟩, _, ⟨rfl, rfl⟩, rfl⟩

/-! One step on small states: expected values from the entries of the spec, by hand. -/

/-- The result that an outcome's context 0 has captured last. -/
def lastWrite (o : Host.Outcome State Fault Refusal) : Option (Nat × Write) :=
  match o with
  | .next t => (t.ctx? 0).bind fun c => c.landings.getLast?.map fun l => (l.due, l.write)
  | _ => none

/-- A field of an outcome's context 0. -/
def ofCtx {α : Type} (o : Host.Outcome State Fault Refusal) (f : Ctx → α) : Option α :=
  match o with
  | .next t => (t.ctx? 0).map f
  | _ => none

/-- R147: ADD wraps; R26: latency 1, due at the end of its own cycle. -/
theorem test_add_wraps : lastWrite (exec (.add true 3 1 2) (lone (withS [0xFFFFFFFFFFFFFFFF, 2]))) = some (0, .s 3 1) := by decide

/-- R147: SRA takes the count modulo 64 and keeps the sign; ADDW sign-extends its low half. -/
theorem test_sra_count : lastWrite (exec (.sra true 3 1 2) (lone (withS [0x8000000000000000, 65]))) = some (0, .s 3 0xC000000000000000) := by decide

theorem test_addw_sign : lastWrite (exec (.addw true 3 1 2) (lone (withS [0x7FFFFFFF, 1]))) = some (0, .s 3 0xFFFFFFFF80000000) := by decide

/-- R150: DIV truncates towards zero, with latency 24; MULH takes the high half of the signed product. -/
theorem test_div_truncates : lastWrite (exec (.div true 3 1 2) (lone (withS [0xFFFFFFFFFFFFFFF9, 2]))) = some (23, .s 3 0xFFFFFFFFFFFFFFFD) := by decide

theorem test_mulh_signed : lastWrite (exec (.mulh true 3 1 2) (lone (withS [0xFFFFFFFFFFFFFFFF, 1]))) = some (2, .s 3 0xFFFFFFFFFFFFFFFF) := by decide

/-- R149: LIH sign-extends from bit 31. -/
theorem test_lih_sign : lastWrite (exec (.lih true 3 0x80000) (lone bare)) = some (0, .s 3 0xFFFFFFFF80000000) := by decide

/-- R153: LDB of the byte 0x80 in scratch is sign-extended, LDBU zero-extended, with latency 4. -/
theorem test_load_extends :
    let c : Ctx := { (withS [0x00FF000000000000]) with scratch := Store.setNum [] 0 8 0x1180 }
    lastWrite (exec (.ldb true 3 1 0) (lone c)) = some (3, .s 3 0xFFFFFFFFFFFFFF80) ∧ lastWrite (exec (.ldhu true 3 1 0) (lone c)) = some (3, .s 3 0x1180) := by
  decide

/-- R57: a store to trap memory in normal context raises PROTECTION. -/
theorem test_store_trap_memory :
    ofCtx (exec (.std true 2 1 0) (lone (withS [0x00FF000000100000]))) (fun c => c.raised.map fun r => (r.code, r.tval)) = some [(0x05, 0x00FF000000100000)] := by
  decide

/-- R156: PTGT reaches back from its own address: 7 words before 0x4000000000. -/
theorem test_ptgt_back : lastWrite (exec (.ptgt true 1 0x1FFFF9) (lone bare)) = some (0, .b 1 0x3FFFFFFFE4) := by decide

/-- R101, R102: 1 + 2^-24 in F32 is a tie and rounds to even with RNE, and up with RUP; the largest F32 doubled is infinite. -/
theorem test_add_tie :
    let t : Ty := .f32
    let add : RMode → Nat → Nat → Nat × Flags := fun m x y => t.fmt.finish m 0 false (Val.add m (t.val false x) (t.val false y))
    (add .rne 0x3F800000 0x33800000).1 = 0x3F800000 ∧ (add .rup 0x3F800000 0x33800000).1 = 0x3F800001 ∧
    (add .rne 0x7F7FFFFF 0x7F7FFFFF).1 = 0x7F800000 ∧ (add .rtz 0x7F7FFFFF 0x7F7FFFFF).1 = 0x7F7FFFFF := by decide

/-- R31: a command takes the queue's next number, and the queue's count goes up. -/
theorem test_command_numbers : ofCtx (exec (.vadd h2 1 2 3 4) (lone { bare with eng := { bare.eng with seq := vset bare.eng.seq 0 0xFFFF } }))
    (fun c => ((vget [] c.eng.q 0).map fun e => (e.seq, e.due), vget 0 c.eng.seq 0)) = some ([(0xFFFF, some 2)], 0) := by decide

/-- R49, R274: the first step after reset begins boot, and a word placed in TEXT runs as the first instruction. -/
theorem test_first_steps : (match step State.reset with | .next t => t.boot.running | _ => false) = true ∧
    lastWrite (step (State.reset.withFetchWord 32 (0x01 * 2 ^ 26 + 2 ^ 25 + 3 * 2 ^ 20 + 5 * 2 ^ 3))) = some (0, .s 3 5) := by decide

/-- A run that meets no fault: boot's first step and the next wall cycles. -/
theorem test_safe_run : Safety.safeFor 3 State.reset := by unfold Safety.safeFor; decide

end Sys2Proof.Tests
end

section
/-!
PROOFS. The machine's own rules: reading an element after a write to it or to another, the fixed registers (R18), the end of a
cycle of a panel in which nothing but results is under way (R26), and the state after reset.
-/

namespace Sys2Proof.Machine

/-! Elements of a vector. -/

theorem vget_vset {α : Type} {n : Nat} (d : α) (xs : Vector α n) {i : Nat} (j : Nat) (x : α) (hi : i < n) :
    vget d (vset xs i x) j = if j = i then x else vget d xs j := by
  by_cases h : j = i
  · subst h
    simp [vget, vset, hi]
  · simp [vget, vset, List.getElem?_set_ne (Ne.symm h), h]

@[simp] theorem vget_replicate {α : Type} (n i : Nat) (d : α) : vget d (Vector.replicate n d) i = d := by
  unfold vget
  rw [Vector.toList_replicate, List.getD_eq_getElem?_getD, List.getElem?_replicate]
  split
  · rfl
  · rfl

/-! Registers and their fixed places (R18). -/

@[simp] theorem Bank.putS_zero (b : Bank) (x : U64) : b.putS 0#5 x = b := if_pos rfl

@[simp] theorem Bank.putC_zero (b : Bank) (v : Bool) : b.putC 0#3 v = b := if_pos rfl

@[simp] theorem Cell.putP_zero (x : Cell) (y : U64) : x.putP 0#5 y = x := if_pos rfl

@[simp] theorem Bank.putS_b (b : Bank) (r : Reg) (x : U64) : (b.putS r x).b = b.b := by unfold Bank.putS; split <;> rfl

@[simp] theorem Bank.putS_c (b : Bank) (r : Reg) (x : U64) : (b.putS r x).c = b.c := by unfold Bank.putS; split <;> rfl

/-- A scalar read after a write: the register written holds the value, every other one what it held. -/
theorem Bank.vget_putS (b : Bank) (x : U64) {r : Reg} (q : Reg) (hr : r ≠ 0#5) :
    vget 0#64 (b.putS r x).s q.toNat = if q = r then x else vget 0#64 b.s q.toNat := by
  unfold Bank.putS
  rw [if_neg hr]
  simp only [vget_vset _ _ _ _ r.isLt, BitVec.toNat_inj]

/-- In normal context the program reads the normal bank. -/
theorem Ctx.rs_of_normal {c : Ctx} (h : c.trap.tctx = false) (r : Reg) :
    c.rs r = if r = 0#5 then 0#64 else vget 0#64 c.norm.s r.toNat := by simp [Ctx.rs, Ctx.bank, h]

/-- Settles O13: the accessors of the three fixed registers answer their values before they look at the bank, and the write to each is
the identity. -/
theorem fixedRegistersDiscardWrites : Obligations.FixedRegistersDiscardWrites := by
  unfold Obligations.FixedRegistersDiscardWrites
  refine ⟨fun c => ⟨if_pos rfl, ?_⟩, fun x => ?_, fun b x v => ⟨b.putS_zero x, b.putC_zero v⟩, Cell.putP_zero,
    fun b x r q hr => b.vget_putS x q hr⟩
  · simp [Ctx.rc]
  · exact (if_pos rfl).trans (by decide)

/-! The state after reset. -/

/-- At reset no write waits for a view, so a byte reads at its home as memory lists it: as zero. -/
theorem reset_homeNum (h : Bool) (b : Nat) : State.reset.homeNum h b 1 = 0 := by
  cases h <;> rfl

@[simp] theorem reset_slot (k : Nat) : State.reset.slot k = {} := vget_replicate ..

@[simp] theorem reset_queue (k : Nat) : State.reset.queue k = {} := vget_replicate ..

@[simp] theorem reset_sheet (k : Nat) : State.reset.sheet k = {} := vget_replicate ..

theorem reset_link (l : Nat) : vget {} State.reset.links l = {} := vget_replicate ..

/-- Settles O59: each field holds its value in State.reset, and every slot, queue, link and sheet is as none has been used. -/
theorem resetState : Obligations.ResetState := by
  unfold Obligations.ResetState
  refine ⟨reset_memories_wf, rfl, rfl, rfl, rfl, rfl, rfl, rfl, rfl, rfl, rfl, rfl, fun k _ => ?slot, fun l _ => ?link,
    fun k f _ => ?flag, rfl, rfl, reset_homeNum⟩
  case slot =>
    rw [reset_slot, reset_queue]
    exact ⟨rfl, rfl, rfl, rfl⟩
  case link => rw [reset_link]
  case flag =>
    rw [reset_sheet]
    rfl

/-! The end of a cycle, part by part, where a part has nothing to do (R26). -/

/-- With no tower access placed and no window open, a cycle of the towers does nothing. -/
theorem Ctx.towerCycle_of_no_ops {c : Ctx} (h : c.towerOps = []) (hw : c.windows = []) (tr : Bool) (t g : Nat) :
    c.towerCycle tr t g = c := by
  have hj : c.judged tr t = [] := by simp [Ctx.judged, h, sortOps, judge]
  have ho : c.withOld tr t g [] = [] := by simp [Ctx.withOld]
  simp only [Ctx.towerCycle, hj, ho, Ctx.doOps, h, hw, List.filter_nil, List.map_nil, List.filterMap_nil, List.foldl_nil]
  rw [← h, ← hw]

theorem Ctx.finishFlights_of_no_flights {c : Ctx} (h : c.flights = []) : c.finishFlights = c := by
  simp only [Ctx.finishFlights, h, List.filter_nil, List.foldl_nil]
  rw [← h]

theorem Ctx.configRings_of_no_accesses {c : Ctx} (h : c.glob.queue = []) : c.configRings = c := by
  simp only [Ctx.configRings, h, List.filter_nil, List.foldl_nil]
  rw [← h]

/-- A cycle that raises nothing, with no return waiting for its end, brings no trap. -/
theorem Ctx.endTraps_of_no_raise {c : Ctx} (hr : c.raised = []) (hl : c.issue.leaving = false) (g : Nat) : c.endTraps g = c := by
  simp [Ctx.endTraps, hr, hl, pickRaise]

/-! The results of a cycle (R26). -/

@[simp] theorem Ctx.setFlags_zero (c : Ctx) : c.setFlags .zero = c := by
  simp [Ctx.setFlags, Flags.or, Flags.zero]

theorem Ctx.write_scalar_of_normal (c : Ctx) (g : Nat) (r : Reg) (x : U64) :
    c.write false g (.s r x) = { c with norm := c.norm.putS r x } := rfl

theorem Landing.isDue_iff {l : Landing} {tr : Bool} {t : Nat} : l.isDue tr t = true ↔ l.trap = tr ∧ l.due ≤ t := by
  simp [Landing.isDue]

/-- Of two landings the one that stands later in program order is written last. -/
theorem sortLandings_pair (l m : Landing) : sortLandings [m, l] = if l.ord ≤ m.ord then [l, m] else [m, l] := by
  by_cases h : l.ord ≤ m.ord
  · simp [sortLandings, insertLanding, h, Nat.not_lt.mpr h]
  · simp [sortLandings, insertLanding, h, Nat.lt_of_not_le h]

/-- The only result under way falls due: it is written and leaves the record. -/
theorem Ctx.writeDue_one {c : Ctx} {l : Landing} {tr : Bool} {t : Nat} (hl : c.landings = [l]) (hd : l.isDue tr t = true) (g : Nat) :
    c.writeDue tr t g = (({ c with landings := [] } : Ctx).write l.trap g l.write).setFlags l.flags := by
  simp [Ctx.writeDue, hl, hd, sortLandings, insertLanding, Ctx.writeAll]

/-- The two results under way fall due together: they are written in program order. -/
theorem Ctx.writeDue_two {c : Ctx} {l m : Landing} {tr : Bool} {t : Nat} (hl : c.landings = [l, m]) (hd : l.isDue tr t = true)
    (hm : m.isDue tr t = true) (g : Nat) :
    c.writeDue tr t g = Ctx.writeAll { c with landings := [] } g (if l.ord ≤ m.ord then [l, m] else [m, l]) := by
  simp [Ctx.writeDue, hl, hd, hm, sortLandings_pair]

/-- Two scalars of the normal bank written one after the other. -/
theorem Ctx.writeAll_scalars_norm {l m : Landing} {q r : Reg} {x y : U64} (c : Ctx) (g : Nat) (hl : l.trap = false) (hm : m.trap = false)
    (hx : l.write = .s q x) (hy : m.write = .s r y) :
    (Ctx.writeAll c g [l, m]).norm = (c.norm.putS q x).putS r y := by
  simp [Ctx.writeAll, hl, hm, hx, hy, Ctx.write_scalar_of_normal]

/-- No tower access, window, product, global access, trap or return is under way: a cycle that ends does nothing beyond the results
that fall due. -/
structure Ctx.OnlyResults (c : Ctx) : Prop where
  ops : c.towerOps = []
  windows : c.windows = []
  flights : c.flights = []
  raised : c.raised = []
  leaving : c.issue.leaving = false
  accesses : c.glob.queue = []

/-- The context in an unheld cycle in which nothing uses a bank (R312). -/
def Ctx.ranIdle (c : Ctx) : Ctx := { c with time := { c.time with taken := [], ran := true } }

theorem Ctx.OnlyResults.ranIdle {c : Ctx} (h : c.OnlyResults) : c.ranIdle.OnlyResults :=
  ⟨h.ops, h.windows, h.flights, h.raised, h.leaving, h.accesses⟩

/-- Where only results are under way, the writes of a cycle are the results that fall due, with the descriptors and the motif load that
come after them. -/
theorem Ctx.endWrites_of_only_results {c : Ctx} (h : c.OnlyResults) (g : Nat) :
    c.endWrites g = (c.ranIdle.writeDue c.trap.tctx c.now g).configRings.loadCycle := by
  have hb : c.bankUse c.trap.tctx c.now = [] := by simp [Ctx.bankUse, h.ops, h.windows]
  unfold Ctx.endWrites
  simp only [hb]
  change ((c.ranIdle.towerCycle c.trap.tctx c.now g).finishFlights.writeDue c.trap.tctx c.now g).configRings.loadCycle = _
  rw [Ctx.towerCycle_of_no_ops h.ranIdle.ops h.ranIdle.windows, Ctx.finishFlights_of_no_flights h.ranIdle.flights]

/-- The context once x is written to a scalar of the normal bank as the only result under way. -/
def Ctx.scalarWritten (c : Ctx) (r : Reg) (x : U64) : Ctx := { c with norm := c.norm.putS r x, landings := [] }

theorem Ctx.OnlyResults.scalarWritten {c : Ctx} (h : c.OnlyResults) (r : Reg) (x : U64) : (c.scalarWritten r x).OnlyResults :=
  ⟨h.ops, h.windows, h.flights, h.raised, h.leaving, h.accesses⟩

/-- A scalar result, the only one under way, falls due in panel time. -/
theorem Ctx.writeDue_one_scalar {c : Ctx} {l : Landing} {r : Reg} {x : U64} {t : Nat} (hl : c.landings = [l])
    (hd : l.isDue false t = true) (hw : l.write = .s r x) (hf : l.flags = .zero) (g : Nat) :
    c.writeDue false t g = c.scalarWritten r x := by
  rw [Ctx.writeDue_one hl hd, (Landing.isDue_iff.mp hd).1, hw, hf, Ctx.setFlags_zero]
  rfl

/-- The context after the end of that cycle: the motif load has one cycle less, and the next cycle of panel time has come. -/
def Ctx.afterScalar (c : Ctx) (r : Reg) (x : U64) : Ctx :=
  { (c.ranIdle.scalarWritten r x).loadCycle with time := { c.ranIdle.time with ptime := c.time.ptime + 1 } }

/-- The end of a cycle of panel time in which one scalar result, the only one under way, falls due. -/
theorem Ctx.endCycle_of_one_scalar {c : Ctx} {l : Landing} {r : Reg} {x : U64} (h : c.OnlyResults) (hn : c.trap.tctx = false)
    (hl : c.landings = [l]) (hd : l.isDue false c.time.ptime = true) (hw : l.write = .s r x) (hf : l.flags = .zero) (g : Nat) :
    c.endCycle g = c.afterScalar r x := by
  have ht : c.now = c.time.ptime := if_neg (by simp [hn])
  have hwritten : (c.endWrites g) = (c.ranIdle.scalarWritten r x).loadCycle := by
    rw [Ctx.endWrites_of_only_results h, hn, ht, Ctx.writeDue_one_scalar (c := c.ranIdle) hl hd hw hf,
      Ctx.configRings_of_no_accesses (h.ranIdle.scalarWritten r x).accesses]
  have hnext : (c.endWrites g).nextCycle = c.afterScalar r x := by
    rw [hwritten]
    exact if_neg (show ¬ c.trap.tctx = true by simp [hn])
  unfold Ctx.endCycle
  rw [hnext]
  exact Ctx.endTraps_of_no_raise (c := c.afterScalar r x) h.raised h.leaving g

/-- RESULT_WRITEBACK ends the cycle of the context of its panel, and changes nothing else of the package. -/
theorem exec_resultWriteback {s : State} {p : Nat} {c : Ctx} (h : s.ctx? p = some c) :
    exec (.resultWriteback p) s = .next (s.putCtx (c.endCycle s.gcyc)) :=
  congrArg Host.Outcome.next (mapCtx_eq h _)

/-- Reading a scalar after the end of such a cycle. -/
theorem Ctx.rs_afterScalar {c : Ctx} {d : Reg} (x : U64) (r : Reg) (hn : c.trap.tctx = false) (hd : d ≠ 0#5) :
    (c.afterScalar d x).rs r = if r = d then x else c.rs r := by
  have hb : (c.afterScalar d x).norm = c.norm.putS d x := rfl
  rw [Ctx.rs_of_normal (c := c.afterScalar d x) hn, Ctx.rs_of_normal hn, hb, Bank.vget_putS _ _ _ hd]
  by_cases h : r = d
  · simp [h, hd]
  · simp [h]

/-- Settles O12: the cycle's end is afterScalar of the context, which differs from it in the one scalar, the record of results, the
clocks and the motif load alone; two results for one scalar are written in program order. -/
theorem writebackWritesOneRegister : Obligations.WritebackWritesOneRegister := by
  unfold Obligations.WritebackWritesOneRegister
  refine ⟨fun s c p d x hs hl hd hn ho hwin hfl hr hlv hq => ?_, fun c g t r x y l m hr hl hlt hmt hlw hmw hld hmd => ?_⟩
  · have hend : c.endCycle s.gcyc = c.afterScalar d x :=
      Ctx.endCycle_of_one_scalar ⟨ho, hwin, hfl, hr, hlv, hq⟩ hn hl (Landing.isDue_iff.mpr ⟨rfl, Nat.le_refl _⟩) rfl rfl s.gcyc
    have hpanel : (c.afterScalar d x).id.panel = p := (ctx?_panel hs : c.id.panel = p)
    refine ⟨_, c.afterScalar d x, hend ▸ exec_resultWriteback hs, ctx?_putCtx hs hpanel, ?_, fun r hne => ?_, c.norm.putS_b d x,
      c.norm.putS_c d x, rfl, rfl, rfl, rfl, rfl, rfl, rfl, rfl⟩
    · rw [Ctx.rs_afterScalar x d hn hd, if_pos rfl]
    · rw [Ctx.rs_afterScalar x r hn hd, if_neg hne]
  · have hdl : l.isDue false t = true := Landing.isDue_iff.mpr ⟨hlt, hld⟩
    have hdm : m.isDue false t = true := Landing.isDue_iff.mpr ⟨hmt, hmd⟩
    rw [Ctx.writeDue_two hl hdl hdm]
    by_cases h : l.ord ≤ m.ord
    · rw [if_pos h, if_pos h, Ctx.writeAll_scalars_norm _ g hlt hmt hlw hmw, Bank.vget_putS _ _ _ hr, if_pos rfl]
    · rw [if_neg h, if_neg h, Ctx.writeAll_scalars_norm _ g hmt hlt hmw hlw, Bank.vget_putS _ _ _ hr, if_pos rfl]

end Sys2Proof.Machine
end
